-- ==== Sys2Proof/Word.lean ====
section
/-! DEFINITION. The words of the machine: a 64-bit register word, a byte, an instruction word (R22, R43, R67). -/
namespace Sys2Proof

/-- A general register, an address or a 64-bit memory word. -/
abbrev Word := BitVec 64

/-- One byte of memory. -/
abbrev Byte := BitVec 8

/-- One instruction: a 32-bit little-endian word (chapter 2). -/
abbrev IWord := BitVec 32

/-- The number of an x or v register, or a tile field (R25). -/
abbrev RegIdx := BitVec 5

/-- A process identifier (R110). -/
abbrev Pid := BitVec 16

end Sys2Proof
end

