-- ==== Sys2Proof/Config.lean ====
section
/-!
DEFINITION. What an implementation fixes and what the manual leaves open. A constant here without a body is a free
value: nothing in Lean can evaluate it, so a statement about it holds whatever it is.
-/
namespace Sys2Proof.Config

/-- How far the timeline of another package runs ahead of this package's (R249: timelines are not synchronised). -/
opaque peerTimelineOffset : Nat → Word

/-- The junction of identity: the 16-byte serial number of the package (R437). -/
opaque serialByte : Nat → Byte

/-- Bytes of the SHA-256 digest of the running firmware image (R437). -/
opaque firmwareDigestByte : Nat → Byte

/-- Bytes of the LMS signature over a report (R437): a function of the key index and of the report's first bytes. -/
opaque signatureByte : Nat → List Byte → Nat → Byte

/-- Bytes of the package's identity public key (R437). -/
opaque identityKeyByte : Nat → Byte

/-- Whether the package is a TJ4-M384 module, and not a TJ4-P384 card (R1). -/
opaque isModule : Bool

/-- The fuses of the security version, one for each of its 64 steps (R435). DEDUCED: a step is a fuse that is blown
(assumption 99). -/
opaque securityFuses : BitVec 64

/-- The fused security version (R435, R437): up to 64 steps. -/
def securityVersion : BitVec 16 := BitVec.ofNat 16 ((List.range 64).countP fun i => securityFuses.getLsbD i)

/-- The bytes of the SHA-256 digest of the root public key in the fuses, and of the digest of the public key that comes with
the firmware image (R435). -/
opaque rootKeyDigest : Nat → Byte
opaque imageKeyDigest : Nat → Byte

/-- The version of the firmware image that the boot ROM finds, and whether its signature fails under its key (R435). -/
opaque imageVersion : Nat
opaque signatureBad : Bool

/-- The physical location word of a log record, by level, element and what holds the element now: bit 0 for the standby core
of its cluster, and above it how often a spare has taken the element over (R16, R431: packed as the record's level
defines). -/
opaque errorLocation : Nat → Nat → Nat → BitVec 32

/-- Whether the host completes a read of the host address at a step of the machine with Unsupported Request or Completer
Abort (R422). -/
opaque hostRefuses : Nat → Nat → Bool

/-- The value number n that the manual leaves without a value (assumption 3). -/
opaque freeWord : Nat → Word

/-- The permits MEM, ATOM, CNT, ACT, COL that a peer's table holds for this package (R412), from bit 0. -/
opaque peerGrants : BitVec 12 → BitVec 5

/-- The bank of a scratchpad offset, and the HBM channel of an own-package offset (R426; R475: not architected). -/
opaque scratchBank : Nat → Nat
opaque hbmChannel : Nat → Nat

/-- The value of an identification register that the manual does not give (mvendorid, marchid, mimpid). -/
opaque vendorId : Word
opaque archId : Word
opaque impId : Word

/-- The address at which the firmware image is entered (R432: the manual gives no number). DESIGN CHOICE. -/
def firmwareEntry : Word := 0x80000

/-- The address of the firmware's adoption entry (R428: the manual gives no number). DESIGN CHOICE. -/
def adoptionEntry : Word := 0x80000

end Sys2Proof.Config
end

