-- ==== Sys2Proof/Syntax.lean ====
section
/-!
DEFINITION. The steps of the machine, one constructor per row of the opcode table.
The first part are instructions (they have words); the rest are the table's engine, home, host, fabric and power
events, whose constructors carry the request, record or packet that the event brings.
-/
namespace Sys2Proof

/-! ## Operand layouts -/

/-- The V/T layout of R25: W, E2, E1, M or S, s2, s1, d. -/
structure VT where
  w : BitVec 2
  e2 : Bool
  e1 : Bool
  m : Bool
  s2 : RegIdx
  s1 : RegIdx
  d : RegIdx
  deriving DecidableEq, Repr

/-- The register layout of custom-3 (R30) and of the base atomics: aq, rl, rs2, rs1, rd. -/
structure RT where
  aq : Bool
  rl : Bool
  rs2 : RegIdx
  rs1 : RegIdx
  rd : RegIdx
  deriving DecidableEq, Repr

/-- A base load: rd, rs1 and the signed 12-bit offset. -/
structure LoadArgs where
  rd : RegIdx
  rs1 : RegIdx
  imm : BitVec 12
  deriving DecidableEq, Repr

/-- A base store: rs2 (data), rs1 and the signed 12-bit offset. -/
structure StoreArgs where
  rs2 : RegIdx
  rs1 : RegIdx
  imm : BitVec 12
  deriving DecidableEq, Repr

/-- A CSR instruction: rd, rs1 or the 5-bit immediate, and the CSR number. -/
structure CsrArgs where
  rd : RegIdx
  src : RegIdx
  csr : BitVec 12
  deriving DecidableEq, Repr

/-- The register-register operations of RV64I. -/
inductive AluOp where
  | add | sub | sll | slt | sltu | xor | srl | sra | or | and
  | addw | subw | sllw | srlw | sraw
  deriving DecidableEq, Repr

/-- The register-immediate operations of RV64I with a 12-bit immediate. -/
inductive AluImmOp where
  | addi | slti | sltiu | xori | ori | andi | addiw
  deriving DecidableEq, Repr

/-- The register-immediate shifts of RV64I. -/
inductive ShiftOp where
  | slli | srli | srai | slliw | srliw | sraiw
  deriving DecidableEq, Repr

/-- An RV64I integer operation (row INTEGER_OP). The shift amount of a word shift has its bit 5 clear. -/
inductive IntOp where
  | reg (op : AluOp) (rd rs1 rs2 : RegIdx)
  | imm (op : AluImmOp) (rd rs1 : RegIdx) (imm : BitVec 12)
  | shift (op : ShiftOp) (rd rs1 : RegIdx) (amount : BitVec 6)
  deriving DecidableEq, Repr

/-- The conditions of the base branches. -/
inductive BranchCond where
  | eq | ne | lt | ge | ltu | geu
  deriving DecidableEq, Repr

/-- A base branch; `off` holds bits [12:1] of the byte offset. -/
structure BranchArgs where
  cond : BranchCond
  rs1 : RegIdx
  rs2 : RegIdx
  off : BitVec 12
  deriving DecidableEq, Repr

/-- `jal` (with bits [20:1] of the byte offset) and `jalr`. -/
inductive JumpOp where
  | jal (rd : RegIdx) (off : BitVec 20)
  | jalr (rd rs1 : RegIdx) (imm : BitVec 12)
  deriving DecidableEq, Repr

/-- The operations of RV64M. -/
inductive MulDivOp where
  | mul | mulh | mulhsu | mulhu | div | divu | rem | remu
  | mulw | divw | divuw | remw | remuw
  deriving DecidableEq, Repr

/-- The two-register operations of Zba and Zbb. -/
inductive BitRegOp where
  | adduw | sh1add | sh1adduw | sh2add | sh2adduw | sh3add | sh3adduw
  | andn | orn | xnor | max | maxu | min | minu | rol | rolw | ror | rorw
  deriving DecidableEq, Repr

/-- The one-register operations of Zbb. -/
inductive BitUnOp where
  | clz | clzw | ctz | ctzw | cpop | cpopw | sextb | sexth | zexth | orcb | rev8
  deriving DecidableEq, Repr

/-- The shift-immediate operations of Zba and Zbb. The amount of `roriw` has its bit 5 clear. -/
inductive BitShiftOp where
  | slliuw | rori | roriw
  deriving DecidableEq, Repr

/-- A Zba or Zbb instruction (row BIT_MANIPULATION). -/
inductive BitOp where
  | reg (op : BitRegOp) (rd rs1 rs2 : RegIdx)
  | un (op : BitUnOp) (rd rs1 : RegIdx)
  | shift (op : BitShiftOp) (rd rs1 : RegIdx) (amount : BitVec 6)
  deriving DecidableEq, Repr

/-- The fields of a `fence` word that the base specification reserves for finer fences are kept, and ignored. -/
structure FenceArgs where
  pred : BitVec 4
  succ : BitVec 4
  rs1 : RegIdx
  rd : RegIdx
  deriving DecidableEq, Repr

/-! ## What events carry -/

/-- The virtual channels of the fabric (R405). -/
inductive Channel where
  | request | answer | message | collective
  deriving DecidableEq, Repr

/-- The packet that an answer answers (R404, R405): its source and destination, its channel and RID, and the KIND and PID
of its header. -/
structure Origin where
  src : BitVec 12
  dst : BitVec 12
  ch : Channel
  rid : Nat
  kind : BitVec 6
  pid : Pid
  deriving DecidableEq, Repr

/-- Where the answer to a request goes. -/
inductive ReplyTo where
  /-- Nobody waits for the answer. -/
  | none
  /-- Part `part` of the outstanding producer `job` of this hart (R47). -/
  | job (id part : Nat)
  /-- The hart's stall for `cfree`, `carm` or `colset` (R268, R369). -/
  | hart
  /-- Transfer `id` of this core's copy engine (R343). -/
  | transfer (id : Nat)
  /-- A collective entry: cluster of the pod (package × 256 + cluster), PID and COLID (R366). -/
  | collective (cluster : Nat) (pid : Pid) (colid : BitVec 32)
  /-- An arm of a core, by pod-wide core number (R260). -/
  | arm (core : Nat)
  /-- Host arm slot (R275). -/
  | hostArm (slot : Nat)
  /-- The host, with a tag of its own. -/
  | host (tag : Nat)
  /-- The store entry `id` of the drain queue, in flight as a WRITE (R116, R405). -/
  | drain (id : Nat)
  /-- A request that a packet has brought from another package: the answer goes back over the fabric (R405), to `inner` at
  its source. -/
  | over (origin : Origin) (inner : ReplyTo)
  deriving DecidableEq, Repr

/-- The issuer of a counter operation (R250, R251): its job, its pod-wide cluster and its actor. `anyJob` marks the
host's operations, which carry no PID. -/
structure Issuer where
  pid : Pid
  cluster : Nat
  actor : Word
  anyJob : Bool
  deriving DecidableEq, Repr

/-- The answer to a request: a value, bytes, or a failure with a detail code (R107) and the package that failed; of a
read that met words that cannot be read, the bytes and the offsets of those that it could not read (R163). -/
inductive Response where
  | value (v : Word)
  | bytes (b : List Byte)
  | damaged (b : List Byte) (bad : List Nat) (pkg : BitVec 12)
  | failed (detail : BitVec 16) (pkg : BitVec 12)
  deriving DecidableEq, Repr

/-- The kinds of access that R238 tells apart. -/
inductive AccessKind where
  | fetch | load | store | atomic
  deriving DecidableEq, Repr

/-- The operations of the atomic units (R22, R415). -/
inductive AtomicOp where
  | swap | add | and | or | xor | min | minu | max | maxu
  | faddS | fminS | fmaxS | casD
  deriving DecidableEq, Repr

/-- What follows a translation (R210): a read of `len` bytes, a write, or an atomic. -/
inductive MemAction where
  | read (len : Nat)
  | write (data : List Byte)
  | atomic (op : AtomicOp) (bytes : Nat) (operand expected : Word)
  deriving DecidableEq, Repr

/-- A record on its way to a mailbox agent (R324, R328). With `flood`, the destination is every actor of the slot on
one member core of a `sendg`, whose absence raises no NO_ACTOR (R337). -/
structure Record where
  dst : Word
  flood : Bool
  kind : BitVec 8
  flags : BitVec 8
  tag : BitVec 32
  sender : Word
  pid : Pid
  payload : List Byte
  deriving DecidableEq, Repr

/-- A spawn request on its way to its target (R311, R313). -/
structure SpawnReq where
  ctl : Word
  payload : Word
  spawner : Word
  pid : Pid
  replyTo : ReplyTo
  deriving DecidableEq, Repr

/-- A death on its way to an exit engine (R319, R381). `jobOnly` is set for a U-mode issuer; `near` is the actor for which a
restart engine sends it, and 0 for a hart (R378). -/
structure KillReq where
  target : Word
  reason : BitVec 8
  detail : Word
  origin : Word
  cascade : Bool
  pid : Pid
  jobOnly : Bool
  near : Word := 0
  deriving DecidableEq, Repr

/-- A link signal or a direct signal (R380, R382, R385). -/
structure Signal where
  dst : Word
  frm : Word
  origin : Word
  reason : BitVec 8
  detail : Word
  mon : Bool
  cascade : Bool
  deriving DecidableEq, Repr

/-- An install or a removal on its way from `near`'s core to `far`'s (R387). -/
structure LinkReq where
  mon : Bool
  near : Word
  far : Word
  pid : Pid
  deriving DecidableEq, Repr

/-- A move of a tile slot (R356). `start` holds the operation of a `tmov` that takes effect as a release (R358). -/
structure MoveReq where
  start : Option (BitVec 2)
  slot : BitVec 6
  actor : Word
  receiver : Word
  tag : BitVec 32
  flags : BitVec 8
  pid : Pid
  replyTo : ReplyTo
  deriving DecidableEq, Repr

/-- A contribution to a collective entry (R371): destination and source clusters of the pod, and what it carries. -/
structure Contribution where
  dst : Nat
  src : Nat
  colid : BitVec 32
  group : BitVec 16
  own : BitVec 6
  pid : Pid
  op : BitVec 4
  fmt : BitVec 5
  lines : Nat
  data : List Byte
  deriving DecidableEq, Repr

/-- The place of a host request (R419, R432): an offset in BAR0, or in the function's configuration space. -/
inductive HostPlace where
  | bar0 (offset : Nat)
  | config (offset : Nat)
  deriving DecidableEq, Repr

/-- The two parts of a retirement (R428), with its cause. -/
inductive Retirement where
  | begins (cause : BitVec 2)
  | ends (cause : BitVec 2)
  deriving DecidableEq, Repr

/-- A request for a report with its nonce, and the release of the report under a key index that has been spent (R436). -/
inductive Attestation where
  | asked (nonce : List Byte)
  | spent (nonce : List Byte) (index : Nat)
  deriving DecidableEq, Repr

/-- What a scrub visit finds in a word (R424, R425). -/
inductive ScrubFinding where
  | clean | corrected | transient | lasting
  deriving DecidableEq, Repr

/-! ## The steps -/

inductive Instr where
  -- RV64I loads and stores (R22)
  | lb (a : LoadArgs) | lh (a : LoadArgs) | lw (a : LoadArgs) | ld (a : LoadArgs)
  | lbu (a : LoadArgs) | lhu (a : LoadArgs) | lwu (a : LoadArgs)
  | sb (a : StoreArgs) | sh (a : StoreArgs) | sw (a : StoreArgs) | sd (a : StoreArgs)
  -- RV64I other, M, Zba, Zbb
  | integerOp (op : IntOp)
  | lui (rd : RegIdx) (imm : BitVec 20)
  | auipc (rd : RegIdx) (imm : BitVec 20)
  | branch (a : BranchArgs)
  | jump (op : JumpOp)
  | fence (fm : BitVec 4) (a : FenceArgs)
  | fenceTso (a : FenceArgs)
  | fenceI (imm : BitVec 12) (rs1 rd : RegIdx)
  | multiplyDivide (op : MulDivOp) (rd rs1 rs2 : RegIdx)
  | bitManipulation (op : BitOp)
  -- A
  | lrW (a : RT) | lrD (a : RT) | scW (a : RT) | scD (a : RT)
  | amoswapW (a : RT) | amoswapD (a : RT) | amoaddW (a : RT) | amoaddD (a : RT)
  | amoandW (a : RT) | amoandD (a : RT) | amoorW (a : RT) | amoorD (a : RT)
  | amoxorW (a : RT) | amoxorD (a : RT) | amominW (a : RT) | amominD (a : RT)
  | amominuW (a : RT) | amominuD (a : RT) | amomaxW (a : RT) | amomaxD (a : RT)
  | amomaxuW (a : RT) | amomaxuD (a : RT)
  -- Zicsr and the privileged instructions
  | csrrw (a : CsrArgs) | csrrs (a : CsrArgs) | csrrc (a : CsrArgs)
  | csrrwi (a : CsrArgs) | csrrsi (a : CsrArgs) | csrrci (a : CsrArgs)
  | sfenceVma (rs1 rs2 : RegIdx)
  -- custom-0 (R31)
  | vadd (a : VT) | vsub (a : VT) | vmul (a : VT) | vfma (a : VT) | vfms (a : VT)
  | vmin (a : VT) | vmax (a : VT) | vsel (a : VT)
  | vand (a : VT) | vor (a : VT) | vxor (a : VT) | vsll (a : VT) | vsrl (a : VT) | vsra (a : VT)
  | vcmpeq (a : VT) | vcmplt (a : VT) | vcmple (a : VT)
  | vaddx (a : VT) | vmulx (a : VT) | vfmx (a : VT) | vbcast (a : VT)
  | vrcp (a : VT) | vrsq (a : VT) | vexp2 (a : VT) | vlog2 (a : VT)
  | vredsum (a : VT) | vredmax (a : VT) | vredmin (a : VT)
  | vidx (a : VT) | vmov (a : VT) | vdot4 (a : VT)
  -- custom-1 (R32)
  | vld (a : VT) | vst (a : VT) | vlds (a : VT) | vsts (a : VT) | vldx (a : VT) | vstx (a : VT)
  | vgld (a : VT) | vslup (a : VT) | vsldn (a : VT) | vperm (a : VT)
  | vcvt (a : VT) | vqblk (a : VT) | vdqblk (a : VT)
  -- custom-2 (R33, R36 to R38)
  | tld (a : VT) | tst (a : VT) | tzero (a : VT) | lease (a : VT) | unlease (a : VT)
  | mma (a : VT) | mmz (a : VT) | mmaq (a : VT) | tsync (a : VT)
  | tget (a : VT) | tins (a : VT) | tcvt (a : VT) | ttrn (a : VT)
  | loop (level : Bool) (rs1 : RegIdx) (len : BitVec 12)
  | fmt (rm : BitVec 3) (fmtB fmtA fmtD : BitVec 5)
  | mod (abs neg clamp sat : Bool) (k : BitVec 5)
  -- custom-3 (R34)
  | cadd (a : RT) | cwait (a : RT) | cpoll (a : RT) | cwaitt (a : RT) | cset (a : RT)
  | calloc (a : RT) | cfree (a : RT) | carm (a : RT)
  | send (a : RT) | sendg (a : RT) | spawn (a : RT) | endh (a : RT) | exit (a : RT) | kill (a : RT)
  | link (a : RT) | unlink (a : RT) | mon (a : RT) | demon (a : RT) | tmov (a : RT) | trapx (a : RT)
  | famoaddS (a : RT) | famominS (a : RT) | famomaxS (a : RT) | casD (a : RT)
  | colset (a : RT) | colclr (a : RT) | supadd (a : RT) | supdel (a : RT)
  | stinval (a : RT) | ctxsave (a : RT) | ctxload (a : RT)
  -- events of the hart
  | producerCompletion (job part : Nat) (r : Response)
  | counterResponseArrival (r : Response)
  | drainEntryPerformed
  -- translation stations and homes; an address at a home is a key of the one memory (State.mem)
  | stationTranslate (pid : Pid) (va : Word) (act : MemAction) (replyTo : ReplyTo)
  | homeRead (key len : Nat) (replyTo : ReplyTo)
  | homeWrite (key : Nat) (data : List Byte) (replyTo : ReplyTo)
  | homeAtomic (key : Nat) (op : AtomicOp) (bytes : Nat) (operand expected : Word) (replyTo : ReplyTo)
  | reduceElementUpdate (id : Nat)
  -- counter banks
  | homeCalloc (issuer : Issuer) (replyTo : ReplyTo)
  | homeCadd (h n : Word) (issuer : Issuer) (replyTo : ReplyTo)
  | homeCset (h v : Word) (issuer : Issuer) (replyTo : ReplyTo)
  | homeCpoll (h : Word) (issuer : Issuer) (replyTo : ReplyTo)
  | homeCwait (h thr : Word) (issuer : Issuer) (replyTo : ReplyTo)
  | homeCarm (h thr : Word) (issuer : Issuer) (replyTo : ReplyTo) (armFor : ReplyTo)
  | homeCfree (h : Word) (issuer : Issuer) (replyTo : ReplyTo)
  | waiterWithdrawal (replyTo : ReplyTo)
  | armFiringArrives (armFor : ReplyTo)
  | waiterRetry (h thr : Word) (issuer : Issuer) (replyTo : ReplyTo)
  | cwaittDeadline (job : Nat)
  | timelineTick (ns : Nat)
  -- the host
  | hostCounterAdd (offset len : Nat) (value : Word)
  | hostCounterRead (place : HostPlace) (len tag : Nat)
  | hostArmThresholdWrite (slot : BitVec 6) (handle : Option Word) (threshold : Word)
  | hostQueueEnable (q : BitVec 14) (base : Option (BitVec 45)) (cap : BitVec 32) (actor : Option Word)
  | hostQueueDisable (q : BitVec 14)
  | hostQueueTailWrite (q : BitVec 14) (tail : Word)
  | hostQueueForward (q : BitVec 14)
  | doorbellWrite (core : BitVec 12) (v : Word)
  | bar2Write (offset : Nat) (data : List Byte)
  | bar2Read (offset len tag : Nat)
  | hostCompletionTimeout (replyTo : ReplyTo)
  -- actors
  | recordAdmit (rec : Record)
  | spawnAtTarget (req : SpawnReq)
  | cohortSpawnAtMember (req : SpawnReq) (member : Nat) (created : List Word) (failure : Option (BitVec 16))
  | killRequest (k : KillReq)
  | exitWalk (name : Word)
  | linkSignal (sig : Signal)
  | directSignal (sig : Signal)
  | linkInstall (r : LinkReq)
  | linkRemoval (r : LinkReq)
  | restartRound (sup : Word)
  | childRestart (sup : Word) (child : Nat)
  -- transfers and collectives
  | launchCopy (rd : RegIdx) | launchReduce (rd : RegIdx) | launchGather (rd : RegIdx) | launchWalk (rd : RegIdx)
  | launchTilemove (rd : RegIdx) | launchConvert (rd : RegIdx)
  | controlQuery (rd : RegIdx) | controlPause (rd : RegIdx) | controlResume (rd : RegIdx)
  | move (m : MoveReq)
  | walkGateOpens (id : Nat)
  | walkStepDone (id : Nat)
  | transferComplete (id : Nat)
  | transferFailure (id : Nat) (detail : BitVec 16)
  | collectiveFire (cluster : Nat) (pid : Pid) (colid : BitVec 32)
  | contributionArrival (c : Contribution)
  | contributionResend (c : Contribution)
  | canswerArrival (c : Contribution) (accepted : Bool)
  | groupMemberRead (job part member : Nat)
  -- the Array
  | leaseRunTimeout (member : BitVec 4)
  -- effects of CSR accesses
  | qresRead (rd : RegIdx)
  | pfxstWrite (v : Word)
  | sjobWrite (v : Word)
  | interruptPendingWrite (machine : Bool) (v : Word)
  | mlogcWrite (v : Word)
  | mlog0Read (rd : RegIdx)
  | mpkgWrite (v : Word)
  | csrWrite (csr : BitVec 12) (v : Word)
  -- errors, power, bring-up, management
  | scrubVisit (level : BitVec 3) (key : Nat) (found : ScrubFinding)
  | coreRetirement (core : BitVec 12) (part : Retirement)
  | powerClockStep (up : Bool)
  | thermalThrottle (die : BitVec 2) (celsius : BitVec 16)
  | thermalShutdown (die : BitVec 2) (celsius : BitVec 16)
  | coreWake (core : BitVec 12)
  | attestationRequest (request : Attestation)
  | permitTableWrite (pkg : BitVec 12) (bits : BitVec 5)
  | lossNotice (pkg : BitVec 12)
  | peerLossTimeout (pkg : BitVec 12)
  | peerReadmit (pkg : BitVec 12)
  | endToEndResend (pkg : BitVec 12) (ch : Channel) (rid : Nat)
  | linkRetry (port : BitVec 5) (seq : BitVec 12)
  | fabricLaneFailure (port : BitVec 5)
  | illegalInstructionWord (word : IWord)
  | instructionFetchFault (cause : BitVec 6) (addr : Word)
  | flitAcknowledgement (pkg : BitVec 12) (seq : BitVec 12)
  | portTrainingComplete (port : BitVec 5)
  | corePowerGating (core : BitVec 12)
  -- steps that carry nothing: the privileged instructions without operands, and events
  | ecall | ebreak | mret | sret | wfi | sourceWaitEnds | destinationWaitEnds | issueStallEnds | wfiWake
  | interruptTaken | budgetExpiry | dispatch | releaseTakesEffect | hangReport
  | hostLinkDown | leaseGrant | arrayCommandStart | arrayCommandComplete | qresWrite | jctlDrn | jctlDdrop
  | hangstClear | packageReset | identityKeyRequest | machineExternalEvent | reservationExpiry | hostLinkReady
  | powerLoss
  deriving DecidableEq, Repr

end Sys2Proof
end

