-- ==== Sys2Proof/WellFormed.lean ====
section
/-!
DEFINITION. Which instruction terms have a word: the encoding rules R26 to R29, R35 to R38 and the field limits of
the base formats. An ill-formed term has no word of its own; a word that breaks a rule here decodes to no instruction.
-/
namespace Sys2Proof

/-- What a V/T field names (R25). -/
inductive FieldKind where
  | unused | x | v | m
  deriving DecidableEq, Repr

/-- Whether the entry takes the M bit (R28, R31, R32), or the S bit (custom-2). -/
inductive MaskRule where
  | never | optional | required
  deriving DecidableEq, Repr

/-- One row of R31, R32 or R33: the kinds of d, s1 and s2, whether d is read, whether s2 is written instead of read,
the M or S rule, and the greatest W accepted. -/
structure VTRule where
  d : FieldKind
  s1 : FieldKind
  s2 : FieldKind
  dRead : Bool := false
  s2Written : Bool := false
  mask : MaskRule := .optional
  wMax : Nat := 3
  deriving DecidableEq, Repr

/-- The three V/T spaces (R24). -/
inductive Space where
  | custom0 | custom1 | custom2
  deriving DecidableEq, Repr

/-- The space, operation number and fields of a V/T instruction (R31 to R33). -/
def Instr.vt : Instr → Option (Space × BitVec 5 × VT)
  | .vadd a => some (.custom0, 0, a) | .vsub a => some (.custom0, 1, a)
  | .vmul a => some (.custom0, 2, a) | .vfma a => some (.custom0, 3, a)
  | .vfms a => some (.custom0, 4, a) | .vmin a => some (.custom0, 5, a)
  | .vmax a => some (.custom0, 6, a) | .vsel a => some (.custom0, 7, a)
  | .vand a => some (.custom0, 8, a) | .vor a => some (.custom0, 9, a)
  | .vxor a => some (.custom0, 10, a) | .vsll a => some (.custom0, 11, a)
  | .vsrl a => some (.custom0, 12, a) | .vsra a => some (.custom0, 13, a)
  | .vcmpeq a => some (.custom0, 14, a) | .vcmplt a => some (.custom0, 15, a)
  | .vcmple a => some (.custom0, 16, a) | .vaddx a => some (.custom0, 17, a)
  | .vmulx a => some (.custom0, 18, a) | .vfmx a => some (.custom0, 19, a)
  | .vbcast a => some (.custom0, 20, a) | .vrcp a => some (.custom0, 21, a)
  | .vrsq a => some (.custom0, 22, a) | .vexp2 a => some (.custom0, 23, a)
  | .vlog2 a => some (.custom0, 24, a) | .vredsum a => some (.custom0, 25, a)
  | .vredmax a => some (.custom0, 26, a) | .vredmin a => some (.custom0, 27, a)
  | .vidx a => some (.custom0, 28, a) | .vmov a => some (.custom0, 29, a)
  | .vdot4 a => some (.custom0, 30, a)
  | .vld a => some (.custom1, 0, a) | .vst a => some (.custom1, 1, a)
  | .vlds a => some (.custom1, 2, a) | .vsts a => some (.custom1, 3, a)
  | .vldx a => some (.custom1, 4, a) | .vstx a => some (.custom1, 5, a)
  | .vgld a => some (.custom1, 6, a) | .vslup a => some (.custom1, 7, a)
  | .vsldn a => some (.custom1, 8, a) | .vperm a => some (.custom1, 9, a)
  | .vcvt a => some (.custom1, 10, a) | .vqblk a => some (.custom1, 11, a)
  | .vdqblk a => some (.custom1, 12, a)
  | .tld a => some (.custom2, 0, a) | .tst a => some (.custom2, 1, a)
  | .tzero a => some (.custom2, 2, a) | .lease a => some (.custom2, 3, a)
  | .unlease a => some (.custom2, 4, a) | .mma a => some (.custom2, 5, a)
  | .mmz a => some (.custom2, 6, a) | .mmaq a => some (.custom2, 7, a)
  | .tsync a => some (.custom2, 8, a) | .tget a => some (.custom2, 9, a)
  | .tins a => some (.custom2, 10, a) | .tcvt a => some (.custom2, 11, a)
  | .ttrn a => some (.custom2, 12, a)
  | _ => none

/-- The rows of R31 to R33 by space and operation number; `none` where the op is illegal. -/
def vtRule : Space → Nat → Option VTRule
  | .custom0, op =>
    if op ∈ [0, 1, 2, 5, 6, 8, 9, 10, 11, 12, 13, 14, 15, 16] then some ⟨.v, .v, .v, false, false, .optional, 3⟩
    else if op ∈ [3, 4, 30] then some ⟨.v, .v, .v, true, false, .optional, 3⟩
    else if op = 7 then some ⟨.v, .v, .v, false, false, .required, 3⟩
    else if op ∈ [17, 18] then some ⟨.v, .v, .x, false, false, .optional, 3⟩
    else if op = 19 then some ⟨.v, .v, .x, true, false, .optional, 3⟩
    else if op = 20 then some ⟨.v, .x, .unused, false, false, .optional, 3⟩
    else if op ∈ [21, 22, 23, 24, 25, 26, 27, 29] then some ⟨.v, .v, .unused, false, false, .optional, 3⟩
    else if op = 28 then some ⟨.v, .unused, .unused, false, false, .optional, 3⟩
    else none
  | .custom1, op =>
    if op = 0 then some ⟨.v, .x, .unused, false, false, .optional, 3⟩
    else if op = 1 then some ⟨.v, .x, .unused, true, false, .optional, 3⟩
    else if op = 2 then some ⟨.v, .x, .x, false, false, .optional, 3⟩
    else if op = 3 then some ⟨.v, .x, .x, true, false, .optional, 3⟩
    else if op = 4 then some ⟨.v, .x, .v, false, false, .optional, 3⟩
    else if op = 5 then some ⟨.v, .x, .v, true, false, .optional, 3⟩
    else if op = 6 then some ⟨.v, .x, .unused, false, false, .never, 3⟩
    else if op ∈ [7, 8] then some ⟨.v, .v, .x, false, false, .optional, 3⟩
    else if op = 9 then some ⟨.v, .v, .v, false, false, .optional, 3⟩
    else if op = 10 then some ⟨.v, .v, .unused, false, false, .optional, 3⟩
    else if op = 11 then some ⟨.v, .v, .x, false, true, .never, 3⟩
    else if op = 12 then some ⟨.v, .v, .x, false, false, .never, 3⟩
    else none
  | .custom2, op =>
    if op = 0 then some ⟨.m, .x, .x, false, false, .never, 1⟩
    else if op = 1 then some ⟨.m, .x, .x, true, false, .never, 1⟩
    else if op = 2 then some ⟨.m, .unused, .unused, false, false, .never, 1⟩
    else if op = 3 then some ⟨.x, .x, .unused, false, false, .never, 0⟩
    else if op = 4 then some ⟨.unused, .x, .unused, false, false, .never, 0⟩
    else if op ∈ [5, 7] then some ⟨.m, .m, .m, true, false, .optional, 1⟩
    else if op = 6 then some ⟨.m, .m, .m, false, false, .optional, 1⟩
    else if op = 8 then some ⟨.unused, .unused, .unused, false, false, .never, 0⟩
    else if op = 9 then some ⟨.v, .m, .x, false, false, .never, 0⟩
    else if op = 10 then some ⟨.m, .v, .x, true, false, .never, 1⟩
    else if op ∈ [11, 12] then some ⟨.m, .m, .unused, false, false, .never, 1⟩
    else none

/-- R26, R29: a field of the given kind at the given width. In custom-2 only a tile destination is widened. -/
def fieldOk (kind : FieldKind) (group : Nat) (f : RegIdx) : Bool :=
  match kind with
  | .unused => f == 0
  | .x => true
  | .v => f.toNat % group == 0
  | .m => f.toNat < 16 && f.toNat % group == 0

/-- R26 to R29 and R35 for a V/T word of a known operation. -/
def vtOk (sp : Space) (r : VTRule) (a : VT) : Bool :=
  let g := 2 ^ a.w.toNat
  let gs := match sp with | .custom2 => 1 | _ => g
  let gd := match sp, r.d with | .custom2, .m => g | .custom2, _ => 1 | _, _ => g
  decide (a.w.toNat ≤ r.wMax)
    && fieldOk r.d gd a.d && fieldOk r.s1 gs a.s1 && fieldOk r.s2 gs a.s2
    && (!a.e1 || r.s1 != .unused)
    && (!a.e2 || (r.s2 != .unused && !r.s2Written))
    && (match r.mask with | .never => !a.m | .optional => true | .required => a.m)

/-- The funct3, op5 and fields of a custom-3 instruction (R34). -/
def Instr.rt : Instr → Option (BitVec 3 × BitVec 5 × RT)
  | .cadd a => some (0, 0, a) | .cwait a => some (0, 1, a) | .cpoll a => some (0, 2, a)
  | .cwaitt a => some (0, 3, a) | .cset a => some (0, 4, a) | .calloc a => some (0, 5, a)
  | .cfree a => some (0, 6, a) | .carm a => some (0, 7, a)
  | .send a => some (1, 0, a) | .sendg a => some (1, 1, a) | .spawn a => some (1, 2, a)
  | .endh a => some (1, 3, a) | .exit a => some (1, 4, a) | .kill a => some (1, 5, a)
  | .link a => some (1, 6, a) | .unlink a => some (1, 7, a) | .mon a => some (1, 8, a)
  | .demon a => some (1, 9, a) | .tmov a => some (1, 10, a) | .trapx a => some (1, 11, a)
  | .famoaddS a => some (2, 0, a) | .famominS a => some (2, 1, a)
  | .famomaxS a => some (2, 2, a) | .casD a => some (2, 3, a)
  | .colset a => some (3, 0, a) | .colclr a => some (3, 1, a) | .supadd a => some (3, 2, a)
  | .supdel a => some (3, 3, a) | .stinval a => some (3, 4, a) | .ctxsave a => some (3, 5, a)
  | .ctxload a => some (3, 6, a)
  | _ => none

/-- The fields that R34 shows for an operation: rd, rs1, rs2. -/
def rtFields : Nat → Nat → Option (Bool × Bool × Bool)
  | 0, op => if op ∈ [0, 1, 3, 4] then some (true, true, true) else if op = 2 then some (true, true, false)
    else if op = 5 then some (true, false, false) else if op = 6 then some (false, true, false)
    else if op = 7 then some (false, true, true) else none
  | 1, op => if op ∈ [0, 1, 5] then some (false, true, true) else if op ∈ [2, 10] then some (true, true, true)
    else if op = 3 then some (false, false, false) else if op ∈ [4, 6, 7, 8, 9, 11] then some (false, true, false)
    else none
  | 2, op => if op ∈ [0, 1, 2, 3] then some (true, true, true) else none
  | 3, op => if op ∈ [0, 1, 2, 3, 5, 6] then some (false, true, false)
    else if op = 4 then some (false, true, true) else none
  | _, _ => none

/-- R30, R34, R35 for a custom-3 word of a known operation. -/
def rtOk (f3 : Nat) (fields : Bool × Bool × Bool) (a : RT) : Bool :=
  (fields.1 || a.rd == 0) && (fields.2.1 || a.rs1 == 0) && (fields.2.2 || a.rs2 == 0)
    && (f3 != 3 || (!a.aq && !a.rl))

/-- R37: a rounding override is 0 or 4 to 7. -/
def fmtRoundingOk (rm : BitVec 3) : Bool := rm == 0 || decide (4 ≤ rm.toNat)

/-- R37: a format field is a code 0 to 16, or 31 for no override. -/
def fmtFieldOk (f : BitVec 5) : Bool := decide (f.toNat ≤ 16) || f == 31

/-- Whether the term has a word: every limit that the encodings of chapter 2 and of the base formats put on it. -/
def Instr.wf (i : Instr) : Bool :=
  match i.vt, i.rt with
  | some (sp, op, a), _ => match vtRule sp op.toNat with | some r => vtOk sp r a | none => false
  | none, some (f3, op, a) => match rtFields f3.toNat op.toNat with | some fs => rtOk f3.toNat fs a | none => false
  | none, none =>
    match i with
    | .integerOp (.shift op _ _ amount) =>
      match op with
      | .slliw | .srliw | .sraiw => !amount.getLsbD 5
      | .slli | .srli | .srai => true
    | .bitManipulation (.shift .roriw _ _ amount) => !amount.getLsbD 5
    | .fence fm _ => fm != 8
    | .lrW a | .lrD a => a.rs2 == 0
    | .loop _ _ len => len != 0
    | .fmt rm b a d => fmtRoundingOk rm && fmtFieldOk b && fmtFieldOk a && fmtFieldOk d
    | _ => true

end Sys2Proof
end

