-- ==== Sys2Proof/Decode.lean ====
section
/-!
DEFINITION. From words to instructions and back (chapter 2 and the published RISC-V encodings that R22 keeps).
`decode` is total; a word that is no instruction is rejected by a named reason.
-/
namespace Sys2Proof

/-- Why a word is no instruction. -/
inductive DecodeError where
  /-- Bits [1:0] are not 0b11, or bits [4:2] are 0b111 (R23). -/
  | length
  /-- A major opcode not listed in R22 or R24 (R23). -/
  | majorOpcode
  /-- A funct field of a base opcode that names no instruction of R22. -/
  | baseFunction
  /-- An unassigned operation of a custom space (R35). -/
  | customOperation
  /-- A reserved or misaligned field of an assigned custom encoding (R26 to R29, R35 to R38). -/
  | reservedField
  deriving DecidableEq, Repr

/-! ## Fields -/

/-- Bits [lo + n − 1 : lo] of a word. -/
def bits (w : IWord) (lo n : Nat) : BitVec n := w.extractLsb' lo n

/-- One bit of a word. -/
def bitAt (w : IWord) (n : Nat) : Bool := w.getLsbD n

/-- A Bool as one bit. -/
def bit1 (b : Bool) : BitVec 1 := BitVec.ofBool b

def fieldRd (w : IWord) : RegIdx := bits w 7 5
def fieldRs1 (w : IWord) : RegIdx := bits w 15 5
def fieldRs2 (w : IWord) : RegIdx := bits w 20 5

/-- The fields of the V/T layout (R25). -/
def fieldsVT (w : IWord) : VT :=
  { w := bits w 28 2, e2 := bitAt w 27, e1 := bitAt w 26, m := bitAt w 25
    s2 := fieldRs2 w, s1 := fieldRs1 w, d := fieldRd w }

/-- The fields of the custom R-type layout (R30); the base atomics share it. -/
def fieldsRT (w : IWord) : RT :=
  { aq := bitAt w 26, rl := bitAt w 25, rs2 := fieldRs2 w, rs1 := fieldRs1 w, rd := fieldRd w }

/-! ## Tables -/

def custom0Ops : List (VT → Instr) :=
  [.vadd, .vsub, .vmul, .vfma, .vfms, .vmin, .vmax, .vsel, .vand, .vor, .vxor, .vsll, .vsrl, .vsra, .vcmpeq, .vcmplt,
   .vcmple, .vaddx, .vmulx, .vfmx, .vbcast, .vrcp, .vrsq, .vexp2, .vlog2, .vredsum, .vredmax, .vredmin, .vidx, .vmov,
   .vdot4]

def custom1Ops : List (VT → Instr) :=
  [.vld, .vst, .vlds, .vsts, .vldx, .vstx, .vgld, .vslup, .vsldn, .vperm, .vcvt, .vqblk, .vdqblk]

def custom2Ops : List (VT → Instr) :=
  [.tld, .tst, .tzero, .lease, .unlease, .mma, .mmz, .mmaq, .tsync, .tget, .tins, .tcvt, .ttrn]

/-- R34, by funct3. -/
def custom3Ops : Nat → List (RT → Instr)
  | 0 => [.cadd, .cwait, .cpoll, .cwaitt, .cset, .calloc, .cfree, .carm]
  | 1 => [.send, .sendg, .spawn, .endh, .exit, .kill, .link, .unlink, .mon, .demon, .tmov, .trapx]
  | 2 => [.famoaddS, .famominS, .famomaxS, .casD]
  | 3 => [.colset, .colclr, .supadd, .supdel, .stinval, .ctxsave, .ctxload]
  | _ => []

/-- The base atomics by funct5: the word and the doubleword form. -/
def amoOps : Nat → Option ((RT → Instr) × (RT → Instr))
  | 0 => some (.amoaddW, .amoaddD) | 1 => some (.amoswapW, .amoswapD)
  | 2 => some (.lrW, .lrD) | 3 => some (.scW, .scD)
  | 4 => some (.amoxorW, .amoxorD) | 8 => some (.amoorW, .amoorD)
  | 12 => some (.amoandW, .amoandD) | 16 => some (.amominW, .amominD)
  | 20 => some (.amomaxW, .amomaxD) | 24 => some (.amominuW, .amominuD)
  | 28 => some (.amomaxuW, .amomaxuD) | _ => none

/-! ## Decoding by major opcode -/

abbrev Decoded := Except DecodeError Instr

/-- Accepts a custom instruction that keeps the rules of its encoding (R35). -/
def checked (i : Instr) : Decoded := if i.wf then .ok i else .error .reservedField

def decodeCustom (ops : List (VT → Instr)) (w : IWord) : Decoded :=
  match ops[(bits w 12 3).toNat * 4 + (bits w 30 2).toNat]? with
  | some c => checked (c (fieldsVT w))
  | none => .error .customOperation

def decodeCustom2 (w : IWord) : Decoded :=
  if (bits w 12 3).toNat = 6 then
    if (bits w 8 4) = 0 then checked (.loop (bitAt w 7) (fieldRs1 w) (bits w 20 12)) else .error .reservedField
  else if (bits w 12 3).toNat = 7 then
    if bitAt w 25 then
      if bits w 30 2 = 0 ∧ fieldRs1 w = 0 ∧ fieldRd w = 0 then
        .ok (.mod (bitAt w 29) (bitAt w 28) (bitAt w 27) (bitAt w 26) (fieldRs2 w))
      else .error .reservedField
    else if bits w 29 3 = 0 then checked (.fmt (bits w 26 3) (fieldRs2 w) (fieldRs1 w) (fieldRd w))
    else .error .reservedField
  else decodeCustom custom2Ops w

def decodeCustom3 (w : IWord) : Decoded :=
  match (custom3Ops (bits w 12 3).toNat)[(bits w 27 5).toNat]? with
  | some c => checked (c (fieldsRT w))
  | none => .error .customOperation

def decodeLoad (w : IWord) : Decoded :=
  let a : LoadArgs := { rd := fieldRd w, rs1 := fieldRs1 w, imm := bits w 20 12 }
  match (bits w 12 3).toNat with
  | 0 => .ok (.lb a) | 1 => .ok (.lh a) | 2 => .ok (.lw a) | 3 => .ok (.ld a)
  | 4 => .ok (.lbu a) | 5 => .ok (.lhu a) | 6 => .ok (.lwu a) | _ => .error .baseFunction

def decodeStore (w : IWord) : Decoded :=
  let a : StoreArgs := { rs2 := fieldRs2 w, rs1 := fieldRs1 w, imm := bits w 25 7 ++ bits w 7 5 }
  match (bits w 12 3).toNat with
  | 0 => .ok (.sb a) | 1 => .ok (.sh a) | 2 => .ok (.sw a) | 3 => .ok (.sd a) | _ => .error .baseFunction

def decodeOpImm (w : IWord) : Decoded :=
  let rd := fieldRd w
  let rs1 := fieldRs1 w
  let imm : BitVec 12 := bits w 20 12
  let sh : BitVec 6 := bits w 20 6
  let top := (bits w 26 6).toNat
  match (bits w 12 3).toNat with
  | 0 => .ok (.integerOp (.imm .addi rd rs1 imm))
  | 2 => .ok (.integerOp (.imm .slti rd rs1 imm))
  | 3 => .ok (.integerOp (.imm .sltiu rd rs1 imm))
  | 4 => .ok (.integerOp (.imm .xori rd rs1 imm))
  | 6 => .ok (.integerOp (.imm .ori rd rs1 imm))
  | 7 => .ok (.integerOp (.imm .andi rd rs1 imm))
  | 1 =>
    if top = 0 then .ok (.integerOp (.shift .slli rd rs1 sh))
    else match imm.toNat with
    | 0x600 => .ok (.bitManipulation (.un .clz rd rs1))
    | 0x601 => .ok (.bitManipulation (.un .ctz rd rs1))
    | 0x602 => .ok (.bitManipulation (.un .cpop rd rs1))
    | 0x604 => .ok (.bitManipulation (.un .sextb rd rs1))
    | 0x605 => .ok (.bitManipulation (.un .sexth rd rs1))
    | _ => .error .baseFunction
  | _ =>
    if top = 0 then .ok (.integerOp (.shift .srli rd rs1 sh))
    else if top = 0x10 then .ok (.integerOp (.shift .srai rd rs1 sh))
    else if top = 0x18 then .ok (.bitManipulation (.shift .rori rd rs1 sh))
    else if imm.toNat = 0x287 then .ok (.bitManipulation (.un .orcb rd rs1))
    else if imm.toNat = 0x6B8 then .ok (.bitManipulation (.un .rev8 rd rs1))
    else .error .baseFunction

def decodeOpImm32 (w : IWord) : Decoded :=
  let rd := fieldRd w
  let rs1 := fieldRs1 w
  let imm : BitVec 12 := bits w 20 12
  let sh : BitVec 6 := bits w 20 6
  match (bits w 12 3).toNat, (bits w 25 7).toNat with
  | 0, _ => .ok (.integerOp (.imm .addiw rd rs1 imm))
  | 1, 0 => .ok (.integerOp (.shift .slliw rd rs1 sh))
  | 1, _ =>
    if (bits w 26 6).toNat = 2 then .ok (.bitManipulation (.shift .slliuw rd rs1 sh))
    else match imm.toNat with
    | 0x600 => .ok (.bitManipulation (.un .clzw rd rs1))
    | 0x601 => .ok (.bitManipulation (.un .ctzw rd rs1))
    | 0x602 => .ok (.bitManipulation (.un .cpopw rd rs1))
    | _ => .error .baseFunction
  | 5, 0 => .ok (.integerOp (.shift .srliw rd rs1 sh))
  | 5, 0x20 => .ok (.integerOp (.shift .sraiw rd rs1 sh))
  | 5, 0x30 => .ok (.bitManipulation (.shift .roriw rd rs1 sh))
  | _, _ => .error .baseFunction

def decodeOp (w : IWord) : Decoded :=
  let rd := fieldRd w
  let rs1 := fieldRs1 w
  let rs2 := fieldRs2 w
  let alu (o : AluOp) : Decoded := .ok (.integerOp (.reg o rd rs1 rs2))
  let mul (o : MulDivOp) : Decoded := .ok (.multiplyDivide o rd rs1 rs2)
  let zb (o : BitRegOp) : Decoded := .ok (.bitManipulation (.reg o rd rs1 rs2))
  match (bits w 25 7).toNat, (bits w 12 3).toNat with
  | 0, 0 => alu .add | 0, 1 => alu .sll | 0, 2 => alu .slt | 0, 3 => alu .sltu
  | 0, 4 => alu .xor | 0, 5 => alu .srl | 0, 6 => alu .or | 0, 7 => alu .and
  | 0x20, 0 => alu .sub | 0x20, 5 => alu .sra
  | 0x20, 7 => zb .andn | 0x20, 6 => zb .orn | 0x20, 4 => zb .xnor
  | 1, 0 => mul .mul | 1, 1 => mul .mulh | 1, 2 => mul .mulhsu | 1, 3 => mul .mulhu
  | 1, 4 => mul .div | 1, 5 => mul .divu | 1, 6 => mul .rem | 1, 7 => mul .remu
  | 5, 4 => zb .min | 5, 5 => zb .minu | 5, 6 => zb .max | 5, 7 => zb .maxu
  | 0x30, 1 => zb .rol | 0x30, 5 => zb .ror
  | 0x10, 2 => zb .sh1add | 0x10, 4 => zb .sh2add | 0x10, 6 => zb .sh3add
  | _, _ => .error .baseFunction

def decodeOp32 (w : IWord) : Decoded :=
  let rd := fieldRd w
  let rs1 := fieldRs1 w
  let rs2 := fieldRs2 w
  let alu (o : AluOp) : Decoded := .ok (.integerOp (.reg o rd rs1 rs2))
  let mul (o : MulDivOp) : Decoded := .ok (.multiplyDivide o rd rs1 rs2)
  let zb (o : BitRegOp) : Decoded := .ok (.bitManipulation (.reg o rd rs1 rs2))
  match (bits w 25 7).toNat, (bits w 12 3).toNat with
  | 0, 0 => alu .addw | 0, 1 => alu .sllw | 0, 5 => alu .srlw
  | 0x20, 0 => alu .subw | 0x20, 5 => alu .sraw
  | 1, 0 => mul .mulw | 1, 4 => mul .divw | 1, 5 => mul .divuw | 1, 6 => mul .remw | 1, 7 => mul .remuw
  | 4, 0 => zb .adduw
  | 4, 4 => if rs2 = 0 then .ok (.bitManipulation (.un .zexth rd rs1)) else .error .baseFunction
  | 0x10, 2 => zb .sh1adduw | 0x10, 4 => zb .sh2adduw | 0x10, 6 => zb .sh3adduw
  | 0x30, 1 => zb .rolw | 0x30, 5 => zb .rorw
  | _, _ => .error .baseFunction

def decodeBranch (w : IWord) : Decoded :=
  let b (c : BranchCond) : Decoded :=
    .ok (.branch ⟨c, fieldRs1 w, fieldRs2 w, bits w 31 1 ++ bits w 7 1 ++ bits w 25 6 ++ bits w 8 4⟩)
  match (bits w 12 3).toNat with
  | 0 => b .eq | 1 => b .ne | 4 => b .lt | 5 => b .ge | 6 => b .ltu | 7 => b .geu | _ => .error .baseFunction

def decodeMiscMem (w : IWord) : Decoded :=
  let a : FenceArgs := { pred := bits w 24 4, succ := bits w 20 4, rs1 := fieldRs1 w, rd := fieldRd w }
  match (bits w 12 3).toNat with
  | 0 => if bits w 28 4 = 8 then .ok (.fenceTso a) else .ok (.fence (bits w 28 4) a)
  | 1 => .ok (.fenceI (bits w 20 12) (fieldRs1 w) (fieldRd w))
  | _ => .error .baseFunction

def decodeSystem (w : IWord) : Decoded :=
  let a : CsrArgs := { rd := fieldRd w, src := fieldRs1 w, csr := bits w 20 12 }
  match (bits w 12 3).toNat with
  | 0 =>
    if w = 0x00000073 then .ok .ecall
    else if w = 0x00100073 then .ok .ebreak
    else if w = 0x30200073 then .ok .mret
    else if w = 0x10200073 then .ok .sret
    else if w = 0x10500073 then .ok .wfi
    else if bits w 25 7 = 9 ∧ fieldRd w = 0 then .ok (.sfenceVma (fieldRs1 w) (fieldRs2 w))
    else .error .baseFunction
  | 1 => .ok (.csrrw a) | 2 => .ok (.csrrs a) | 3 => .ok (.csrrc a)
  | 5 => .ok (.csrrwi a) | 6 => .ok (.csrrsi a) | 7 => .ok (.csrrci a)
  | _ => .error .baseFunction

def decodeAmo (w : IWord) : Decoded :=
  match amoOps (bits w 27 5).toNat, (bits w 12 3).toNat with
  | some (c, _), 2 => if (c (fieldsRT w)).wf then .ok (c (fieldsRT w)) else .error .baseFunction
  | some (_, c), 3 => if (c (fieldsRT w)).wf then .ok (c (fieldsRT w)) else .error .baseFunction
  | _, _ => .error .baseFunction

/-- The instruction of a 32-bit word, or why there is none (R22 to R42). -/
def decode (w : IWord) : Decoded :=
  if bits w 0 2 ≠ 3 ∨ bits w 2 3 = 7 then .error .length
  else match (bits w 0 7).toNat with
  | 0x03 => decodeLoad w
  | 0x23 => decodeStore w
  | 0x13 => decodeOpImm w
  | 0x1B => decodeOpImm32 w
  | 0x33 => decodeOp w
  | 0x3B => decodeOp32 w
  | 0x37 => .ok (.lui (fieldRd w) (bits w 12 20))
  | 0x17 => .ok (.auipc (fieldRd w) (bits w 12 20))
  | 0x63 => decodeBranch w
  | 0x6F => .ok (.jump (.jal (fieldRd w) (bits w 31 1 ++ bits w 12 8 ++ bits w 20 1 ++ bits w 21 10)))
  | 0x67 => if bits w 12 3 = 0 then .ok (.jump (.jalr (fieldRd w) (fieldRs1 w) (bits w 20 12)))
            else .error .baseFunction
  | 0x0F => decodeMiscMem w
  | 0x73 => decodeSystem w
  | 0x2F => decodeAmo w
  | 0x0B => decodeCustom custom0Ops w
  | 0x2B => decodeCustom custom1Ops w
  | 0x5B => decodeCustom2 w
  | 0x7B => decodeCustom3 w
  | _ => .error .majorOpcode

/-! ## Encoding -/

def encVT (opcode : BitVec 7) (op : BitVec 5) (a : VT) : IWord :=
  op.extractLsb' 0 2 ++ a.w ++ bit1 a.e2 ++ bit1 a.e1 ++ bit1 a.m ++ a.s2 ++ a.s1 ++ op.extractLsb' 2 3 ++ a.d ++ opcode

def encRT (opcode : BitVec 7) (f3 : BitVec 3) (op5 : BitVec 5) (a : RT) : IWord :=
  op5 ++ bit1 a.aq ++ bit1 a.rl ++ a.rs2 ++ a.rs1 ++ f3 ++ a.rd ++ opcode

def encI (opcode : BitVec 7) (f3 : BitVec 3) (rd rs1 : RegIdx) (imm : BitVec 12) : IWord :=
  imm ++ rs1 ++ f3 ++ rd ++ opcode

def encR (opcode : BitVec 7) (f7 : BitVec 7) (f3 : BitVec 3) (rd rs1 rs2 : RegIdx) : IWord :=
  f7 ++ rs2 ++ rs1 ++ f3 ++ rd ++ opcode

def encS (f3 : BitVec 3) (a : StoreArgs) : IWord :=
  a.imm.extractLsb' 5 7 ++ a.rs2 ++ a.rs1 ++ f3 ++ a.imm.extractLsb' 0 5 ++ (0x23 : BitVec 7)

def encSh (opcode : BitVec 7) (f6 : BitVec 6) (f3 : BitVec 3) (rd rs1 : RegIdx) (sh : BitVec 6) : IWord :=
  f6 ++ sh ++ rs1 ++ f3 ++ rd ++ opcode

def encIntOp : IntOp → IWord
  | .reg op rd rs1 rs2 =>
    match op with
    | .add => encR 0x33 0 0 rd rs1 rs2 | .sub => encR 0x33 0x20 0 rd rs1 rs2
    | .sll => encR 0x33 0 1 rd rs1 rs2 | .slt => encR 0x33 0 2 rd rs1 rs2
    | .sltu => encR 0x33 0 3 rd rs1 rs2 | .xor => encR 0x33 0 4 rd rs1 rs2
    | .srl => encR 0x33 0 5 rd rs1 rs2 | .sra => encR 0x33 0x20 5 rd rs1 rs2
    | .or => encR 0x33 0 6 rd rs1 rs2 | .and => encR 0x33 0 7 rd rs1 rs2
    | .addw => encR 0x3B 0 0 rd rs1 rs2 | .subw => encR 0x3B 0x20 0 rd rs1 rs2
    | .sllw => encR 0x3B 0 1 rd rs1 rs2 | .srlw => encR 0x3B 0 5 rd rs1 rs2
    | .sraw => encR 0x3B 0x20 5 rd rs1 rs2
  | .imm op rd rs1 i =>
    match op with
    | .addi => encI 0x13 0 rd rs1 i | .slti => encI 0x13 2 rd rs1 i | .sltiu => encI 0x13 3 rd rs1 i
    | .xori => encI 0x13 4 rd rs1 i | .ori => encI 0x13 6 rd rs1 i | .andi => encI 0x13 7 rd rs1 i
    | .addiw => encI 0x1B 0 rd rs1 i
  | .shift op rd rs1 sh =>
    match op with
    | .slli => encSh 0x13 0 1 rd rs1 sh | .srli => encSh 0x13 0 5 rd rs1 sh | .srai => encSh 0x13 0x10 5 rd rs1 sh
    | .slliw => encSh 0x1B 0 1 rd rs1 sh | .srliw => encSh 0x1B 0 5 rd rs1 sh | .sraiw => encSh 0x1B 0x10 5 rd rs1 sh

def encMulDiv (op : MulDivOp) (rd rs1 rs2 : RegIdx) : IWord :=
  match op with
  | .mul => encR 0x33 1 0 rd rs1 rs2 | .mulh => encR 0x33 1 1 rd rs1 rs2 | .mulhsu => encR 0x33 1 2 rd rs1 rs2
  | .mulhu => encR 0x33 1 3 rd rs1 rs2 | .div => encR 0x33 1 4 rd rs1 rs2 | .divu => encR 0x33 1 5 rd rs1 rs2
  | .rem => encR 0x33 1 6 rd rs1 rs2 | .remu => encR 0x33 1 7 rd rs1 rs2
  | .mulw => encR 0x3B 1 0 rd rs1 rs2 | .divw => encR 0x3B 1 4 rd rs1 rs2 | .divuw => encR 0x3B 1 5 rd rs1 rs2
  | .remw => encR 0x3B 1 6 rd rs1 rs2 | .remuw => encR 0x3B 1 7 rd rs1 rs2

def encBitOp : BitOp → IWord
  | .reg op rd rs1 rs2 =>
    match op with
    | .adduw => encR 0x3B 4 0 rd rs1 rs2
    | .sh1add => encR 0x33 0x10 2 rd rs1 rs2 | .sh1adduw => encR 0x3B 0x10 2 rd rs1 rs2
    | .sh2add => encR 0x33 0x10 4 rd rs1 rs2 | .sh2adduw => encR 0x3B 0x10 4 rd rs1 rs2
    | .sh3add => encR 0x33 0x10 6 rd rs1 rs2 | .sh3adduw => encR 0x3B 0x10 6 rd rs1 rs2
    | .andn => encR 0x33 0x20 7 rd rs1 rs2 | .orn => encR 0x33 0x20 6 rd rs1 rs2
    | .xnor => encR 0x33 0x20 4 rd rs1 rs2
    | .max => encR 0x33 5 6 rd rs1 rs2 | .maxu => encR 0x33 5 7 rd rs1 rs2
    | .min => encR 0x33 5 4 rd rs1 rs2 | .minu => encR 0x33 5 5 rd rs1 rs2
    | .rol => encR 0x33 0x30 1 rd rs1 rs2 | .rolw => encR 0x3B 0x30 1 rd rs1 rs2
    | .ror => encR 0x33 0x30 5 rd rs1 rs2 | .rorw => encR 0x3B 0x30 5 rd rs1 rs2
  | .un op rd rs1 =>
    match op with
    | .clz => encI 0x13 1 rd rs1 0x600 | .ctz => encI 0x13 1 rd rs1 0x601 | .cpop => encI 0x13 1 rd rs1 0x602
    | .clzw => encI 0x1B 1 rd rs1 0x600 | .ctzw => encI 0x1B 1 rd rs1 0x601 | .cpopw => encI 0x1B 1 rd rs1 0x602
    | .sextb => encI 0x13 1 rd rs1 0x604 | .sexth => encI 0x13 1 rd rs1 0x605
    | .zexth => encR 0x3B 4 4 rd rs1 0
    | .orcb => encI 0x13 5 rd rs1 0x287 | .rev8 => encI 0x13 5 rd rs1 0x6B8
  | .shift op rd rs1 sh =>
    match op with
    | .slliuw => encSh 0x1B 2 1 rd rs1 sh | .rori => encSh 0x13 0x18 5 rd rs1 sh | .roriw => encSh 0x1B 0x18 5 rd rs1 sh

def encBranch (a : BranchArgs) : IWord :=
  let f3 : BitVec 3 := match a.cond with | .eq => 0 | .ne => 1 | .lt => 4 | .ge => 5 | .ltu => 6 | .geu => 7
  a.off.extractLsb' 11 1 ++ a.off.extractLsb' 4 6 ++ a.rs2 ++ a.rs1 ++ f3 ++ a.off.extractLsb' 0 4
    ++ a.off.extractLsb' 10 1 ++ (0x63 : BitVec 7)

def encJump : JumpOp → IWord
  | .jal rd off =>
    off.extractLsb' 19 1 ++ off.extractLsb' 0 10 ++ off.extractLsb' 10 1 ++ off.extractLsb' 11 8 ++ rd ++ (0x6F : BitVec 7)
  | .jalr rd rs1 imm => encI 0x67 0 rd rs1 imm

def encFence (fm : BitVec 4) (a : FenceArgs) : IWord :=
  fm ++ a.pred ++ a.succ ++ a.rs1 ++ (0 : BitVec 3) ++ a.rd ++ (0x0F : BitVec 7)

def encCsr (f3 : BitVec 3) (a : CsrArgs) : IWord := encI 0x73 f3 a.rd a.src a.csr

/-- The word of an instruction; `none` for the events of the table, which have no word. -/
def encode (i : Instr) : Option IWord :=
  match i.vt, i.rt with
  | some (.custom0, op, a), _ => some (encVT 0x0B op a)
  | some (.custom1, op, a), _ => some (encVT 0x2B op a)
  | some (.custom2, op, a), _ => some (encVT 0x5B op a)
  | none, some (f3, op, a) => some (encRT 0x7B f3 op a)
  | none, none =>
    match i with
    | .lb a => some (encI 0x03 0 a.rd a.rs1 a.imm) | .lh a => some (encI 0x03 1 a.rd a.rs1 a.imm)
    | .lw a => some (encI 0x03 2 a.rd a.rs1 a.imm) | .ld a => some (encI 0x03 3 a.rd a.rs1 a.imm)
    | .lbu a => some (encI 0x03 4 a.rd a.rs1 a.imm) | .lhu a => some (encI 0x03 5 a.rd a.rs1 a.imm)
    | .lwu a => some (encI 0x03 6 a.rd a.rs1 a.imm)
    | .sb a => some (encS 0 a) | .sh a => some (encS 1 a) | .sw a => some (encS 2 a) | .sd a => some (encS 3 a)
    | .integerOp op => some (encIntOp op)
    | .lui rd imm => some (imm ++ rd ++ (0x37 : BitVec 7))
    | .auipc rd imm => some (imm ++ rd ++ (0x17 : BitVec 7))
    | .branch a => some (encBranch a)
    | .jump op => some (encJump op)
    | .fence fm a => some (encFence fm a)
    | .fenceTso a => some (encFence 8 a)
    | .fenceI imm rs1 rd => some (encI 0x0F 1 rd rs1 imm)
    | .ecall => some 0x00000073 | .ebreak => some 0x00100073
    | .multiplyDivide op rd rs1 rs2 => some (encMulDiv op rd rs1 rs2)
    | .bitManipulation op => some (encBitOp op)
    | .lrW a => some (encRT 0x2F 2 2 a) | .lrD a => some (encRT 0x2F 3 2 a)
    | .scW a => some (encRT 0x2F 2 3 a) | .scD a => some (encRT 0x2F 3 3 a)
    | .amoswapW a => some (encRT 0x2F 2 1 a) | .amoswapD a => some (encRT 0x2F 3 1 a)
    | .amoaddW a => some (encRT 0x2F 2 0 a) | .amoaddD a => some (encRT 0x2F 3 0 a)
    | .amoandW a => some (encRT 0x2F 2 12 a) | .amoandD a => some (encRT 0x2F 3 12 a)
    | .amoorW a => some (encRT 0x2F 2 8 a) | .amoorD a => some (encRT 0x2F 3 8 a)
    | .amoxorW a => some (encRT 0x2F 2 4 a) | .amoxorD a => some (encRT 0x2F 3 4 a)
    | .amominW a => some (encRT 0x2F 2 16 a) | .amominD a => some (encRT 0x2F 3 16 a)
    | .amominuW a => some (encRT 0x2F 2 24 a) | .amominuD a => some (encRT 0x2F 3 24 a)
    | .amomaxW a => some (encRT 0x2F 2 20 a) | .amomaxD a => some (encRT 0x2F 3 20 a)
    | .amomaxuW a => some (encRT 0x2F 2 28 a) | .amomaxuD a => some (encRT 0x2F 3 28 a)
    | .csrrw a => some (encCsr 1 a) | .csrrs a => some (encCsr 2 a) | .csrrc a => some (encCsr 3 a)
    | .csrrwi a => some (encCsr 5 a) | .csrrsi a => some (encCsr 6 a) | .csrrci a => some (encCsr 7 a)
    | .mret => some 0x30200073 | .sret => some 0x10200073 | .wfi => some 0x10500073
    | .sfenceVma rs1 rs2 => some (encR 0x73 9 0 0 rs1 rs2)
    | .loop level rs1 len => some (encI 0x5B 6 ((0 : BitVec 4) ++ bit1 level) rs1 len)
    | .fmt rm b a d => some ((0 : BitVec 3) ++ rm ++ (0 : BitVec 1) ++ b ++ a ++ (7 : BitVec 3) ++ d ++ (0x5B : BitVec 7))
    | .mod ab ng cl sa k =>
      some ((0 : BitVec 2) ++ bit1 ab ++ bit1 ng ++ bit1 cl ++ bit1 sa ++ (1 : BitVec 1) ++ k ++ (0 : BitVec 5)
        ++ (7 : BitVec 3) ++ (0 : BitVec 5) ++ (0x5B : BitVec 7))
    | _ => none

/-- The word as a number that a trap reports for an instruction (R54); 0 for an event, which never reports one. -/
def wordOf (i : Instr) : Word := ((encode i).getD 0).setWidth 64

/-! ## The table's numbering -/

/-- The four bytes of a word as the hardware stores them, lowest address first (R22: little-endian). -/
def wordBytes (w : IWord) : List Byte := [bits w 0 8, bits w 8 8, bits w 16 8, bits w 24 8]

/-- A word from its bytes, lowest address first; missing bytes are 0. -/
def wordOfBytes (b : List Byte) : IWord := (b.getD 3 0) ++ (b.getD 2 0) ++ (b.getD 1 0) ++ (b.getD 0 0)

/-- The word of an instruction whose first bits are `w`, every higher bit being 0. -/
def tableWord (nbits w : Nat) : IWord := BitVec.ofNat 32 (w % 2 ^ nbits)

/-- The instruction the decoder reads from the word laid out as the hardware stores it. -/
def decodeTableWord (nbits w : Nat) : Option Instr :=
  match decode (wordOfBytes (wordBytes (tableWord nbits w))) with
  | .ok i => some i
  | .error _ => none

end Sys2Proof
end

