-- ==== Sys2Proof/Machine/State.lean ====
section
/-!
DEFINITION. The state of the machine: everything the manual gives it, as plain data, and the state after reset.
One hart runs instructions; the other agents' pending steps are entries of the agenda.
Package `own` is this package: objects of it stand at small indexes whatever number mpkg gives it (R433).
-/
namespace Sys2Proof.Machine

/-! ## Small tables -/

/-- A table of sparse objects by number, kept sorted with no repeats; an absent number means the default object. -/
abbrev Tab (α : Type) := List (Nat × α)

/-! ## Outcomes -/

/-- Why the machine stops. -/
inductive Fault where
  /-- Raised by the step of a package without power while no reset is pending (R436); safe: a stuck state, nothing
  runs without power. -/
  | powerLost
  deriving DecidableEq, Repr

/-- Why a step has no meaning. -/
inductive Refusal where
  /-- Raised by exec for an instruction without a meaning; safe. -/
  | notModelled (mnemonic : String)
  deriving DecidableEq, Repr

/-! ## Registers (R43 to R46) -/

/-- The three states of a register; EMPTY keeps the producer's PC, FAULTED its PC and dfinfo value (R44, R45). -/
inductive RegState where
  | full
  | empty (pc : Word)
  | faulted (pc info : Word)
  deriving DecidableEq, Repr

/-- A register: its bits and its state. The bits of a register that is not FULL are not read. -/
structure Reg (n : Nat) where
  val : BitVec n
  st : RegState
  deriving DecidableEq, Repr

abbrev XReg := Reg 64
abbrev VReg := Reg 512
abbrev MReg := Reg 65536

/-- A register named as RegId names it (R53): x, v or physical tile. -/
inductive RegName where
  | x (n : Nat)
  | v (n : Nat)
  | m (n : Nat)
  deriving DecidableEq, Repr

/-! ## The hart -/

inductive Priv where
  | user | supervisor | machine
  deriving DecidableEq, Repr

/-- Why the hart is held (R98): the kinds of wait that the events of the table end. -/
inductive Wait where
  /-- Not held. -/
  | none
  /-- Held on EMPTY sources (R50). -/
  | source (regs : List RegName)
  /-- Held on an EMPTY or read-locked destination (R51, R190). -/
  | dest (regs : List RegName)
  /-- Stalled at issue or in another interruptible wait (R49, R200); `stamp` counts the events seen so far, and `blocked`
  marks the stalls that R98 counts as BLOCKED_EMPTY or R277 as blocked. -/
  | issue (stamp : Nat) (blocked : Bool)
  /-- Stalled on a blocking CSR read (R52). -/
  | csr (stamp : Nat)
  /-- Waiting, not interruptibly, for the answer to cfree or carm (R268). -/
  | response
  /-- Waiting for the answer to the waiter registration of colset (R369). -/
  | registration
  /-- In wfi (R22). -/
  | wfi
  /-- The run of the named actor has ended and R102 goes on: its producers and stores are waited for. -/
  | runEnd (name : Word)
  deriving DecidableEq, Repr

/-- What the hart learnt from the answer that ended a `response` or `registration` wait. -/
inductive Answer where
  | none
  | accepted (v : Word)
  | failed (detail : BitVec 16)
  deriving DecidableEq, Repr

/-- A producer with destination x0 still out (R48): its PC, and the address at which the hart waits for it. -/
structure X0Wait where
  job : Nat
  pc : Word
  next : Word
  /-- The wait belongs to the context that a `ctxload` restored: `next` is where the hart returns to (R130). -/
  atReturn : Bool
  failed : Option Word
  deriving DecidableEq, Repr

/-- One hardware loop level (R152). -/
structure Loop where
  start : Word
  last : Word
  count : Word
  deriving DecidableEq, Repr

/-- The pending prefix (R41, R42) and the address that an exception of the prefixed instruction reports (R40). -/
structure Pending where
  f : IWord
  m : IWord
  fv : Bool
  mv : Bool
  first : Word
  deriving DecidableEq, Repr

structure Hart where
  x : Vector XReg 32
  v : Vector VReg 32
  m : Vector MReg 16
  pc : Word
  priv : Priv
  /-- The dispatcher has control (R100); with no runnable actor the context is IDLE. -/
  disp : Bool
  wait : Wait
  answer : Answer
  /-- Stores of an instruction that has entered some entries and waits for room (R165): entries already made. -/
  storesDone : Nat
  /-- A stall that R98 or R277 counts as blocked has ended so that its instruction is tried again. -/
  again : Bool
  x0 : List X0Wait
  pend : Pending
  loop0 : Loop
  loop1 : Loop
  /-- The reserved 8-byte word, by key, and the clock at which lr took it (R22). -/
  resv : Option (Nat × Nat)
  /-- The context is SAVED (R98): `ctxsave` has retired and no `ctxload` has followed. -/
  saved : Bool
  /-- The descriptor of the `colset` whose registration is out: its bytes are read once (R369). -/
  desc : List Word
  deriving DecidableEq, Repr

/-! ## CSRs -/

/-- User CSRs other than the loop and pending-prefix registers (R103). -/
structure UserCsrs where
  oft : Bool
  rm : BitVec 2
  fmt : BitVec 5
  vflags : BitVec 5
  tshape : Vector (BitVec 22) 16
  aweight : BitVec 4
  tcount : BitVec 5
  tbaseReg : BitVec 4
  ctimeout : BitVec 40
  shadow : Vector Word 12
  deriving DecidableEq, Repr

/-- The actor CSRs of the dispatched handler; actname 0 means that none is dispatched (R104). tslots is derived. -/
structure ActCsrs where
  name : Word
  typ : BitVec 8
  sbase : BitVec 19
  slimit : BitVec 20
  wbase : BitVec 19
  wlimit : BitVec 20
  clrbase : BitVec 19
  clrlimit : BitVec 20
  /-- tslots as a loaded image gave it for an actor that is not live (R476); otherwise the owners decide. -/
  tslots : BitVec 64
  deriving DecidableEq, Repr

/-- mstatus, field by field; FS, VS, XS, SUM and MXR read 0 (R111). -/
structure MStatus where
  sie : Bool
  mie : Bool
  spie : Bool
  mpie : Bool
  spp : Bool
  mpp : Priv
  mprv : Bool
  tvm : Bool
  tw : Bool
  tsr : Bool
  deriving DecidableEq, Repr

/-- Supervisor CSRs (R103, R106 to R110). -/
structure SupCsrs where
  actdeleg : Word
  dfpc : Word
  dfinfo : Word
  spf : IWord
  spm : IWord
  spfv : Bool
  spmv : Bool
  dspgo : Bool
  dfrom : Bool
  mdfrom : Bool
  hangen : Bool
  dheld : Bool
  sctxptr : Word
  reports : BitVec 32
  hung : Bool
  hrem : Word
  pid : Pid
  stvec : Word
  scounteren : BitVec 3
  sscratch : Word
  sepc : Word
  scause : Word
  stval : Word
  /-- After an S-mode interrupt at a prefix boundary: sepc then, and the address of the first prefix word (R40, R41). -/
  spfirst : Option (Word × Word)
  deriving DecidableEq, Repr

/-- Machine CSRs of the privileged architecture (R22, R56, R111). -/
structure MachCsrs where
  status : MStatus
  medeleg : Word
  mideleg : Word
  mie : Word
  mip : Word
  mtvec : Word
  mcounteren : BitVec 3
  mscratch : Word
  mepc : Word
  mcause : Word
  mtval : Word
  mcycle : Word
  minstret : Word
  deriving DecidableEq, Repr

/-! ## Off-core operations (R47, R49, R115 to R120) -/

/-- What a producer writes when it completes. -/
inductive Dest where
  /-- No register: rd is x0, or the wait was detached from its register (R126). -/
  | nothing
  | x (n : Nat)
  | v (base count : Nat)
  | m (base count : Nat)
  deriving DecidableEq, Repr

/-- How the gathered bytes or the returned value become the destination's value. -/
inductive Finish where
  /-- The low `bytes` bytes of the image, sign- or zero-extended (R22). -/
  | scalar (bytes : Nat) (signed : Bool)
  /-- An atomic's old value of `bytes` bytes, sign-extended (R22, R415). -/
  | atomic (bytes : Nat)
  /-- The returned value as it is. -/
  | value
  /-- The image as it is, little-endian from byte 0. -/
  | image
  /-- A scalar group load: skip mode puts the count in the upper half (R292). -/
  | group (bytes : Nat) (signed skip : Bool)
  deriving DecidableEq, Repr

/-- A wait that ctxsave can withdraw and reissue (R125): kinds 1 cwait, 2 cwaitt, 3 lease. -/
structure WaitInfo where
  kind : Nat
  handle : Word
  threshold : Word
  deadline : Word
  deriving DecidableEq, Repr

/-- Some bytes of a request: where they lie in its data, how many, where they go in the image, and their element. -/
structure Piece where
  src : Nat
  len : Nat
  dst : Nat
  elem : Nat
  deriving DecidableEq, Repr

/-- One request of an off-core operation. -/
structure Part where
  no : Nat
  va : Word
  pid : Pid
  len : Nat
  pieces : List Piece
  /-- The line-fill tag when the answer may be installed in the strand buffer, with the fill epoch (R216). -/
  fill : Option (Nat × Nat)
  /-- The range of location keys it reads, once translated. -/
  key : Option (Nat × Nat)
  /-- Response slots it reserves (R119). -/
  slots : Nat
  /-- Of a group load: what each member answered so far, or none where its read failed (R292). -/
  leaves : List (Nat × Option (List Byte))
  /-- The timeline value at which it was issued (R422). -/
  since : Word := 0
  deriving DecidableEq, Repr

/-- An off-core operation of the hart. -/
structure Job where
  id : Nat
  dest : Dest
  pc : Word
  cls : BitVec 8
  finish : Finish
  /-- Requests not yet issued, in order (R120), and requests outstanding. -/
  waiting : List Part
  issued : List Part
  /-- The image gathered so far. -/
  image : List Byte
  /-- Lowest failing element, with detail, package and core. -/
  failure : Option (Nat × BitVec 16 × BitVec 12 × BitVec 12)
  /-- A completing acquire (R220); an ORD access (R227); an atomic (R221). -/
  aq : Bool
  ord : Bool
  atomic : Bool
  wait : Option WaitInfo
  deriving DecidableEq, Repr

/-- A store entry (R116): bytes with their offsets from `addr`, one aligned 64-byte segment. -/
structure StoreEntry where
  id : Nat
  addr : Word
  scratch : Bool
  pc : Word
  elem : Nat
  pid : Pid
  bytes : List (Nat × Byte)
  /-- The first run of its bytes is in flight to a peer as a WRITE (R405), under this key. -/
  out : Option Nat
  /-- That WRITE has been performed at the peer; its answer is on its way (R215). -/
  landed : Bool
  /-- The entry could not be read (R423). -/
  lost : Bool
  deriving DecidableEq, Repr

/-- A step handed to another agent: the package it goes to, the channel, and the step. -/
structure Effect where
  pkg : Nat
  ch : Channel
  ev : Instr
  deriving DecidableEq, Repr

/-- An item of the drain queue: a store, a release that takes effect behind the stores (R221), a `trapx` that
is one and sets its actor's flag, an atomic that is performed after the hart's earlier writes (R224), or a release
that has been sent and whose effect later stores wait for (R221). -/
inductive DrainItem where
  | store (e : StoreEntry)
  | release (id : Nat) (effects : List Effect)
  | trapx (id : Nat) (name : Word) (on : Bool)
  | atomic (id : Nat) (effect : Effect)
  | sent (id : Nat) (effects : List Effect)
  deriving DecidableEq, Repr

/-- An item that `ctxsave` set aside while a failed store was held (R117, R126): it goes on behind the held stores of its
context, of which `before` stood in front of it. -/
structure Parked where
  actor : Word
  before : Nat
  item : DrainItem
  deriving DecidableEq, Repr

structure OffCore where
  jobs : List Job
  drain : List DrainItem
  parked : List Parked
  /-- The failed entry's dfinfo value while jctl.DHELD = 1 (R116). -/
  heldInfo : Word
  /-- The number of the next job, store entry or release: their order of issue. -/
  nextId : Nat
  /-- Epoch of the strand buffer: every invalidation advances it (R216). -/
  epoch : Nat
  deriving DecidableEq, Repr

/-! ## The Array of this cluster (R181 to R196) -/

inductive LeaseSt where
  | none | requested | held | yielded
  deriving DecidableEq, Repr

/-- One member's lease (R181 to R187). -/
structure Lease where
  st : LeaseSt
  count : Nat
  mask : BitVec 4
  /-- The lane groups of the lease's first grant, which its token shows (R183). -/
  first : BitVec 4
  credit : Int
  weight : Nat
  /-- The core has commands waiting or executing: for this core the queue itself decides. -/
  queued : Bool
  order : Nat
  started : Nat
  expired : Bool
  grantedAt : Nat
  deriving DecidableEq, Repr

inductive MatKind where
  | mma | mmz | mmaq
  deriving DecidableEq, Repr

/-- A queued matrix command with what was captured at issue (R188). -/
structure ArrayCmd where
  kind : MatKind
  pc : Word
  word : IWord
  fmtWord : Option IWord
  dField : Nat
  a : Nat
  b : Nat
  d : Nat
  spanA : Nat
  spanB : Nat
  spanD : Nat
  fmtA : Nat
  fmtB : Nat
  rows : Nat
  cols : Nat
  depth : Nat
  kept : Nat
  sparse : Bool
  sources : List Nat
  seq : Nat
  /-- The producer record of a source that has become FAULTED (R191). -/
  doom : Option (Word × Word)
  deriving DecidableEq, Repr

structure ArrayUnit where
  leases : Vector Lease 16
  queue : List ArrayCmd
  running : Option ArrayCmd
  /-- The lane group in which an Array error was found while the command runs (R191, R427). -/
  hit : Option Nat
  /-- Winners of an arbitration whose lane groups are not all free yet, oldest first (R185). -/
  reserve : List (Nat × BitVec 4)
  results : List Word
  seq : Nat
  /-- The producer of the lease wait, if its destination is still EMPTY. -/
  job : Option Nat
  /-- A `ctxsave` or `ctxload` waits for the command that executes: no other starts (R126). -/
  stop : Bool
  /-- Lane groups out of service, and spare rows in use (R426, R427). -/
  outOfService : BitVec 4
  spareRow : BitVec 4
  requests : Nat
  /-- An arbitration is due: a run has ended, or a lease has been released (R185). -/
  due : Bool
  deriving DecidableEq, Repr

/-! ## Pages, the strand buffer and the instruction cache -/

/-- A cached leaf (R240): its station (shelf × 4 + number), PID, virtual page number, level and the entry. -/
structure TlbEntry where
  station : Nat
  pid : Pid
  vpn : Nat
  level : Nat
  leaf : Word
  /-- Where the leaf lies in memory. -/
  leafKey : Nat
  deriving DecidableEq, Repr

structure Stations where
  /-- Root table offset in the HBM of the station's package, by package and PID; absent means no root (R240). -/
  roots : Tab Nat
  tlb : List TlbEntry
  /-- Lines of this cluster's strand buffer: PID × 2^50 + EA[56:7], and 128 bytes (R214). -/
  strand : Tab (List Byte)
  /-- Words held by the hart's instruction cache, by location key: at most 8,192, which is 32 KiB (R12, R22). -/
  icache : Tab IWord
  /-- Lines of it that could not be read (R423), by location key. -/
  badLines : List Nat
  deriving DecidableEq, Repr

/-! ## Counters (R247 to R278) -/

inductive CounterSt where
  | free | live | poisoned
  deriving DecidableEq, Repr

structure Counter where
  st : CounterSt
  value : Word
  check : BitVec 30
  owner : Word
  pid : Pid
  /-- Never chosen by calloc again (R426). -/
  worn : Bool
  deriving DecidableEq, Repr

/-- A waiter or an arm (R255), in order of registration in its table. -/
structure Waiter where
  counter : Nat
  threshold : Word
  isArm : Bool
  issuer : Issuer
  replyTo : ReplyTo
  deriving DecidableEq, Repr

/-- A bank: indices never allocated from `fresh` on, and freed ones, longest ago first (R251). -/
structure Bank where
  fresh : Nat
  freed : List Nat
  deriving DecidableEq, Repr

/-- A host arm slot (R275): state 0 idle, 1 armed, 2 fired, 3 refused. -/
structure HostArm where
  handle : Word
  threshold : Word
  state : Nat
  deriving DecidableEq, Repr

structure Counters where
  /-- The timeline of this package in nanoseconds (R249). -/
  timeline : Word
  banks : Tab Bank
  cells : Tab Counter
  waiters : List Waiter
  /-- Outstanding arms by core (R260). -/
  arms : Tab Nat
  hostArms : Tab HostArm
  /-- The timeline value since which the conditions of R277 hold, and whether that span was reported (R278). -/
  hangSince : Option Word
  hangDone : Bool
  deriving DecidableEq, Repr

/-! ## Actors, links and supervision -/

inductive ActorSt where
  | free | idle | runnable | running | exiting | restarting
  deriving DecidableEq, Repr

/-- The snapshot of a type entry (R301, R304). -/
structure TypeSnap where
  handler : Word
  tiles : Nat
  prio : Nat
  budget : Nat
  work : Nat
  size : Nat
  clrLen : Nat
  clrOff : Nat
  mbox : Nat
  trapx : Bool
  deriving DecidableEq, Repr

/-- A death: reason, detail, origin and whether a signal caused it (R379 to R383). -/
structure Death where
  reason : BitVec 8
  detail : Word
  origin : Word
  cascade : Bool
  deriving DecidableEq, Repr

structure Actor where
  st : ActorSt
  inc : BitVec 30
  pid : Pid
  typ : BitVec 8
  snap : TypeSnap
  sbase : Nat
  trapExits : Bool
  /-- Indices of the mailbox counters in the cluster's bank (R327). -/
  reserveIx : Nat
  commitIx : Nat
  consumeIx : Nat
  /-- Order of becoming RUNNABLE (R308), and the allotment of a run. -/
  stamp : Nat
  wbase : Nat
  tbase : Nat
  held : Option Death
  death : Option Death
  /-- `mmaq` commands of the run so far, while its context is SAVED (R192). -/
  seq : Nat
  deriving DecidableEq, Repr

inductive LinkKind where
  | link | watchedBy | watches
  deriving DecidableEq, Repr

structure LinkEntry where
  kind : LinkKind
  owner : Word
  named : Word
  deriving DecidableEq, Repr

/-- A child record (R390) with its current name and what ended its last incarnation. -/
structure Child where
  typ : BitVec 8
  place : Word
  standby : Word
  image : Word
  imgLen : Nat
  init : Word
  links : BitVec 32
  name : Word
  old : Word
  oldReason : BitVec 8
  oldDetail : Word
  atStandby : Bool
  deriving DecidableEq, Repr

inductive SupSt where
  | starting | steady | round
  deriving DecidableEq, Repr

/-- A failure event waiting to be taken (R392). -/
structure Failure where
  child : Nat
  name : Word
  reason : BitVec 8
  detail : Word
  deriving DecidableEq, Repr

/-- What the installation of a child has come to: its name, a refusal of its placement (R397), or a failure with its
detail. -/
inductive Installed where
  | done (name : Word)
  | refused
  | failed (d : BitVec 16)
  /-- The child stands there, but its own link table had no room for its supervisor (R377). -/
  | noLink (name : Word)
  deriving DecidableEq, Repr

/-- A restart request: none is out, or one is at another package, or it has been answered from there (R396). -/
inductive Request where
  | idle | out
  | answered (r : Installed)
  deriving DecidableEq, Repr

/-- A supervisor record (R389, R391). -/
structure Sup where
  name : Word
  pid : Pid
  maxr : Nat
  notify : Bool
  allForOne : Bool
  window : Word
  parent : Word
  children : List Child
  st : SupSt
  failures : List Failure
  /-- Timeline values at which counted rounds started. -/
  rounds : List Word
  /-- Children still to restart in the round, names replaced by it, and siblings whose signal it awaits. -/
  todo : List Nat
  replaced : List Word
  awaited : List Word
  counted : Nat
  /-- Names that earlier rounds replaced: a late signal from one is dropped (R392). -/
  past : List Word := []
  /-- PLACE has refused the child that is restarted now, and STANDBY is tried (R397). -/
  toStandby : Bool := false
  request : Request := .idle
  deriving DecidableEq, Repr

structure Actors where
  table : Tab Actor
  /-- Owner of a tile slot by core × 64 + slot (R356). -/
  slotOwner : Tab Word
  links : List LinkEntry
  sups : List Sup
  stamp : Nat
  deriving DecidableEq, Repr

/-! ## Transfers and collectives -/

inductive TransferSt where
  | active | gated | paused
  deriving DecidableEq, Repr

/-- A transfer of this core's engine (R343); ended ones leave the list. -/
structure Transfer where
  id : Nat
  snap : Vector Word 12
  actor : Word
  pid : Pid
  st : TransferSt
  /-- Rows or steps completed (R363); elements done of a REDUCE row. -/
  step : Nat
  elem : Nat
  pause : Bool
  /-- The job that a tmov answers, or none for a launch. -/
  reply : Option Nat
  /-- Its actor has died: it stops at its next aligned 64-byte boundary (R362). -/
  stop : Bool
  /-- The bytes of the current row or element that have been read, or the result of a move to another package (R406: its
  landing buffer), how many bytes of the destination row are written, and whether a request to another package is out. -/
  buf : List Byte
  done : Nat
  busy : Bool
  /-- Where the element of a REDUCE lies in another package while its update is out there. -/
  key : Option Nat
  /-- The done add is out at a counter of another package. -/
  adding : Bool
  deriving DecidableEq, Repr

inductive CollSt where
  | waiting | active | done | failed
  deriving DecidableEq, Repr

/-- A destination of a collective: cluster of the pod, whether its send has been acknowledged, and whether it has been
answered with retry (R371). -/
structure CollDest where
  cluster : Nat
  acked : Bool
  retried : Bool := false
  deriving DecidableEq, Repr

/-- A collective entry (R366, R368). -/
structure Coll where
  cluster : Nat
  pid : Pid
  colid : BitVec 32
  owner : Word
  core : Nat
  group : BitVec 16
  own : BitVec 6
  self : Bool
  skip : Bool
  op : Nat
  fmt : Nat
  expect : Nat
  lines : Nat
  cnt : Nat
  res : Nat
  src : Nat
  arm : Word
  thresh : Word
  donec : Word
  dests : List CollDest
  st : CollSt
  bitmap : BitVec 64
  /-- The bytes of SRC as read at the firing (R371). -/
  sent : List Byte
  /-- Elements of RES that are still absent (R373). -/
  absent : List Bool
  first : Bool
  /-- A `colclr` or its owner's death clears it: no done add follows (R370). -/
  clearing : Bool
  /-- Its done add is out at a counter of another package. -/
  adding : Bool
  deriving DecidableEq, Repr

/-! ## The host and the fabric -/

/-- A record of an error log (R431). -/
structure LogRecord where
  word0 : Word
  time : Word
  deriving DecidableEq, Repr

/-- A host queue (R339): state 0 disabled, 1 active, 2 stalled, 3 stopped. -/
structure HostQueue where
  base : Nat
  state : Nat
  err : Nat
  cap : Nat
  actor : Word
  tail : Nat
  head : Nat
  deriving DecidableEq, Repr

/-- A completion returned to the host (R274, R419, R432). -/
inductive HostAnswer where
  | data (b : List Byte)
  | unsupported
  | retry
  deriving DecidableEq, Repr

/-- Why the boot ROM rejects a firmware image (R435). -/
inductive RomReject where
  | signature | rootKey | version
  deriving DecidableEq, Repr

/-- What the management interface reports (R21, R435 to R437). -/
inductive MgmtReport where
  | answer (b : List Byte)
  | rejected (why : RomReject)
  | thermal (die : BitVec 2) (celsius : BitVec 16)
  | clock (units : Nat)
  | error (r : LogRecord)
  deriving DecidableEq, Repr

/-- Why the boot ROM rejects the image that it finds, if it does (R435): a bad signature, a public key whose digest differs
from the fuses, or a version below the fused number. -/
def romRejects : Option RomReject :=
  if Config.signatureBad then some .signature
  else if (List.range 32).any fun i => Config.imageKeyDigest i != Config.rootKeyDigest i then some .rootKey
  else if Config.imageVersion < Config.securityVersion.toNat then some .version
  else none

structure HostLink where
  queues : Tab HostQueue
  /-- Answers returned to the host, newest last, each with the request's tag. -/
  answers : List (Nat × HostAnswer)
  /-- MSI-X vectors sent, newest last (R421). -/
  msix : List Nat
  /-- Doorbells rung for other cores of the package: their mip.SEIP (R420). -/
  seip : Tab Bool
  /-- Reports at the management interface, newest last (R21). -/
  mgmt : List MgmtReport
  up : Bool
  ready : Bool
  deriving DecidableEq, Repr

/-- What the answer to a packet carries (R405): where it goes at the packet's source, and what it says. -/
abbrev PacketAnswer := ReplyTo × Response

/-- A flit (R404): header, trailer, and the number of its payload among the model's free values. -/
structure Flit where
  header : Word
  trailer : Word
  payload : Nat
  deriving DecidableEq, Repr

/-- A packet on the fabric (R404, R408): its source, destination, channel and RID,
the KIND and PID of its header, its flits as they were received where it comes from outside this package, and, of an
answer or a wake, what it answers and with what. -/
structure Arrival where
  src : BitVec 12
  dst : BitVec 12
  channel : Channel
  rid : Nat
  kind : BitVec 6
  pid : Pid
  flits : List Flit
  answers : Option (Channel × Nat)
  answer : Option PacketAnswer
  deriving DecidableEq, Repr

/-- A packet that has not been answered (R408, R411): what it carries, whether it has left its source, its flits handed
to a port, and the timeline value at which it was last sent (R410). -/
structure Packet where
  via : Arrival
  ev : Instr
  left : Bool
  sent : Word
  deriving DecidableEq, Repr

/-- The streams of one channel towards a peer or from it (R408). `next` is the RID of the next packet, `packets` those
that are not answered, oldest first, `expect` the RID that the destination applies next, and `applied` the last 256
identifiers that it has applied, each with its answer (R264, R410). -/
structure Stream where
  next : Nat
  packets : List Packet
  expect : Nat
  applied : List (Nat × Option PacketAnswer)
  deriving DecidableEq, Repr

/-- A fabric port (R403, R405, R409): the flits that wait, by channel, the flits that are not acknowledged, oldest first,
the SEQ of the next one sent, and the SEQ expected from the other side. -/
structure Port where
  trained : Bool
  lanesLost : Nat
  resent : Nat
  queue : Vector (List Flit) 4
  unacked : List Flit
  seq : BitVec 12
  expect : BitVec 12
  deriving DecidableEq, Repr

/-- A peer as this package sees it. -/
structure Peer where
  known : Bool
  lost : Bool
  /-- This package's permits for it, and its permits for this package: MEM, ATOM, CNT, ACT, COL from bit 0 (R412). -/
  permits : BitVec 5
  grants : BitVec 5
  /-- The timeline value at which its loss timer last started, while flits are unacknowledged (R413). -/
  timer : Option Word
  out : Vector Stream 4
  inn : Vector Stream 4
  deriving DecidableEq, Repr

structure Fabric where
  peers : Tab Peer
  ports : Vector Port 32
  deriving DecidableEq, Repr

/-! ## Errors, power and identity -/

/-- One scrub level (R429) with its error counts (R430). -/
structure Level where
  ie : Bool
  tie : Bool
  passes : BitVec 16
  period : BitVec 32
  lasting : BitVec 16
  transient : BitVec 16
  corrected : BitVec 32
  /-- The scrubber has begun a pass. -/
  begun : Bool
  deriving DecidableEq, Repr

/-- An error waiting in a register file (R121): correctable, or not. -/
structure RegError where
  reg : RegName
  correctable : Bool
  deriving DecidableEq, Repr

structure Ras where
  levels : Vector Level 8
  mlogPkg : Bool
  mlog1 : Word
  clusterLog : List LogRecord
  clusterOvf : Bool
  packageLog : List LogRecord
  packageOvf : Bool
  /-- Location keys of poisoned 8-byte words (R426). -/
  poison : List Nat
  /-- HBM channels of this package that have failed with their stack's spare channels used (R426). -/
  deadChannels : List Nat
  regErrors : List RegError
  /-- Spares used, by level × 2^40 + element. -/
  spares : Tab Nat
  /-- How often a spare has taken over what an element stands in, by level × 2^40 + row, channel or port (R426). -/
  moved : Tab Nat
  /-- Logical core numbers being retired, vacant ones, and clusters whose standby is in use (R428). -/
  sparing : List Nat
  vacant : List Nat
  standbyUsed : List Nat
  /-- Logical core numbers that a standby core holds (R17). -/
  adopted : List Nat
  gated : List Nat
  /-- mpkg (R433). -/
  pkgSet : Bool
  pkg : BitVec 12
  /-- The clock in units of 100 MHz (R20). -/
  clock : Nat
  stopped : Bool
  /-- The cores have power (R1, R434). -/
  corePower : Bool
  powered : Bool
  /-- The boot ROM has rejected the firmware image, and stays in ROM (R435). -/
  romHeld : Bool
  /-- The next key index (R436). -/
  keyIndex : Nat
  deriving DecidableEq, Repr

/-! ## The schedule -/

/-- A pending step of an agent, of this package or of the package `place`, with the packet that brings it. -/
structure Entry where
  ev : Instr
  via : Option Arrival
  place : Option (BitVec 12)
  deriving DecidableEq, Repr

structure Sched where
  agenda : List Entry
  /-- The order in which agents move: 0 the hart, 1 the drain queue, n + 2 entry n of the agenda. -/
  turns : List Nat
  /-- Clocks passed, events seen, and the model's counter of free values. -/
  clock : Nat
  events : Nat
  free : Nat
  /-- The package in which the current step takes place, where it is not this one. -/
  place : Option (BitVec 12)
  /-- The packet that brought the current step: the package that sent it, its channel and its RID. -/
  packet : Option (BitVec 12 × Channel × Nat)
  deriving DecidableEq, Repr

structure State where
  hart : Hart
  /-- The logical core number that this hart holds (R17). -/
  coreid : BitVec 12
  user : UserCsrs
  act : ActCsrs
  sup : SupCsrs
  mach : MachCsrs
  off : OffCore
  arr : ArrayUnit
  /-- Every location of memory, by location key, in canonical form. -/
  mem : List Host.Cell
  stn : Stations
  ctr : Counters
  actors : Actors
  transfers : List Transfer
  launches : Nat
  colls : List Coll
  host : HostLink
  fab : Fabric
  ras : Ras
  sched : Sched
  deriving DecidableEq, Repr

/-! ## Reset -/

/-- A register after reset (R43): FULL with value zero. -/
def Reg.zero (n : Nat) : Reg n := { val := 0, st := .full }

def Loop.zero : Loop := { start := 0, last := 0, count := 0 }

def Pending.zero : Pending := { f := 0, m := 0, fv := false, mv := false, first := 0 }

def Hart.reset : Hart :=
  { x := Vector.replicate 32 (Reg.zero 64), v := Vector.replicate 32 (Reg.zero 512)
    m := Vector.replicate 16 (Reg.zero 65536), pc := Config.firmwareEntry, priv := .machine, disp := false
    wait := .none, answer := .none, storesDone := 0, again := false, x0 := [], pend := Pending.zero
    loop0 := Loop.zero, loop1 := Loop.zero, resv := none, saved := false, desc := [] }

def UserCsrs.reset : UserCsrs :=
  { oft := true, rm := 0, fmt := 0, vflags := 0, tshape := Vector.replicate 16 0, aweight := 1, tcount := 0
    tbaseReg := 0, ctimeout := 0, shadow := Vector.replicate 12 0 }

def ActCsrs.zero : ActCsrs :=
  { name := 0, typ := 0, sbase := 0, slimit := 0, wbase := 0, wlimit := 0, clrbase := 0, clrlimit := 0, tslots := 0 }

def SupCsrs.reset : SupCsrs :=
  { actdeleg := 0, dfpc := 0, dfinfo := 0, spf := 0, spm := 0, spfv := false, spmv := false, dspgo := false
    dfrom := false, mdfrom := false, hangen := false, dheld := false, sctxptr := 0, reports := 0, hung := false
    hrem := 0, pid := 0, stvec := 0, scounteren := 0, sscratch := 0, sepc := 0, scause := 0, stval := 0
    spfirst := none }

def MStatus.reset : MStatus :=
  { sie := false, mie := false, spie := false, mpie := false, spp := false, mpp := .user, mprv := false
    tvm := false, tw := false, tsr := false }

/-- mideleg at reset delegates 1, 9, 16, 17 and 18 (R56). -/
def MachCsrs.reset : MachCsrs :=
  { status := MStatus.reset, medeleg := 0, mideleg := 0x70202, mie := 0, mip := 0, mtvec := 0, mcounteren := 0
    mscratch := 0, mepc := 0, mcause := 0, mtval := 0, mcycle := 0, minstret := 0 }

def OffCore.reset : OffCore :=
  { jobs := [], drain := [], parked := [], heldInfo := 0, nextId := 1, epoch := 0 }

def Lease.zero : Lease :=
  { st := .none, count := 0, mask := 0, first := 0, credit := 0, weight := 1, queued := false, order := 0, started := 0
    expired := false, grantedAt := 0 }

def ArrayUnit.reset : ArrayUnit :=
  { leases := Vector.replicate 16 Lease.zero, queue := [], running := none, hit := none, reserve := [], results := [], seq := 0
    job := none, stop := false, outOfService := 0, spareRow := 0, requests := 0, due := false }

def Counters.reset : Counters :=
  { timeline := 0, banks := [], cells := [], waiters := [], arms := [], hostArms := [], hangSince := none
    hangDone := false }

def Stream.zero : Stream := { next := 0, packets := [], expect := 0, applied := [] }

def Port.reset : Port :=
  { trained := false, lanesLost := 0, resent := 0, queue := Vector.replicate 4 [], unacked := [], seq := 0, expect := 0 }

/-- PERIOD at reset (R429); levels without a scrubber read 0. -/
def Level.reset (n : Nat) : Level :=
  { ie := true, tie := false, passes := 0
    period := if n = 5 then 3600000 else if n = 1 ∨ n = 2 ∨ n = 3 then 1000 else 0
    lasting := 0, transient := 0, corrected := 0, begun := false }

def Ras.reset : Ras :=
  { levels := #v[Level.reset 0, Level.reset 1, Level.reset 2, Level.reset 3, Level.reset 4, Level.reset 5,
      Level.reset 6, Level.reset 7]
    mlogPkg := false, mlog1 := 0, clusterLog := [], clusterOvf := false, packageLog := [], packageOvf := false
    poison := [], deadChannels := [], regErrors := [], spares := [], moved := [], sparing := [], vacant := []
    standbyUsed := [], adopted := [], gated := [], pkgSet := false, pkg := 0, clock := 30, stopped := false
    corePower := true, powered := true, romHeld := romRejects.isSome, keyIndex := 0 }

/-- The machine right after reset (R43, R432): every register FULL and zero, M-mode, no translation root, every
counter FREE, every timeline 0, nothing in memory. -/
def State.reset : State :=
  { hart := Hart.reset, coreid := 0, user := UserCsrs.reset, act := ActCsrs.zero, sup := SupCsrs.reset
    mach := MachCsrs.reset, off := OffCore.reset, arr := ArrayUnit.reset, mem := []
    stn := { roots := [], tlb := [], strand := [], icache := [], badLines := [] }
    ctr := Counters.reset
    actors := { table := [], slotOwner := [], links := [], sups := [], stamp := 0 }
    transfers := [], launches := 0, colls := []
    host := { queues := [], answers := [], msix := [], seip := [], up := true, ready := false
              mgmt := (romRejects.map MgmtReport.rejected).toList }
    fab := { peers := [], ports := Vector.replicate 32 Port.reset }
    ras := Ras.reset
    sched := { agenda := [], turns := [], clock := 0, events := 0, free := 0, place := none, packet := none } }

end Sys2Proof.Machine
end

