-- ==== Sys2Proof/Machine/Bits.lean ====
section
/-!
DEFINITION. Bit fields, byte order and sparse tables: the helpers every other file uses.
-/
namespace Sys2Proof.Machine

/-! ## Bytes (R22: little-endian) -/

/-- The low `n` bytes of a number, lowest first. -/
def bytesOf : Nat → Nat → List Byte
  | 0, _ => []
  | n + 1, v => BitVec.ofNat 8 v :: bytesOf n (v / 256)

/-- The number whose bytes these are, lowest first. -/
def natOf : List Byte → Nat
  | [] => 0
  | b :: rest => b.toNat + 256 * natOf rest

/-- The low `n` bytes of a word. -/
def wordToBytes (n : Nat) (w : Word) : List Byte := bytesOf n w.toNat

def bytesToWord (b : List Byte) : Word := BitVec.ofNat 64 (natOf b)

/-- Reads `n` bytes as a number, sign-extended to 64 bits. -/
def signedOf (n v : Nat) : Word := (BitVec.ofNat (8 * n) v).signExtend 64

/-! ## Fields -/

/-- Bits [lo + n − 1 : lo] as a number. -/
def field (w : Word) (lo n : Nat) : Nat := (w.toNat >>> lo) % 2 ^ n

/-- One bit. -/
def bit (w : Word) (n : Nat) : Bool := w.getLsbD n

/-- A number placed at bit `lo`. -/
def place (v lo : Nat) : Word := BitVec.ofNat 64 (v <<< lo)

/-- A Bool placed at bit `lo`. -/
def flag (b : Bool) (lo : Nat) : Word := if b then place 1 lo else 0

/-- The word with bit `n` set or cleared. -/
def setBit (w : Word) (n : Nat) (b : Bool) : Word :=
  if b then w ||| place 1 n else w &&& ~~~(place 1 n)

/-- An interpretation in two's complement of the low `n` bits. -/
def toSigned (n v : Nat) : Int := (BitVec.ofNat n v).toInt

def ceilDiv (a b : Nat) : Nat := (a + b - 1) / b

/-! ## Tables: sorted by number, no repeats -/

def Tab.find? {α : Type} : Tab α → Nat → Option α
  | [], _ => none
  | (k, v) :: rest, n => if k = n then some v else if n < k then none else Tab.find? rest n

def Tab.put {α : Type} : Tab α → Nat → α → Tab α
  | [], n, a => [(n, a)]
  | (k, v) :: rest, n, a =>
    if k = n then (n, a) :: rest else if n < k then (n, a) :: (k, v) :: rest else (k, v) :: Tab.put rest n a

def Tab.drop {α : Type} : Tab α → Nat → Tab α
  | [], _ => []
  | (k, v) :: rest, n => if k = n then rest else if n < k then (k, v) :: rest else (k, v) :: Tab.drop rest n

def Tab.getD {α : Type} (t : Tab α) (n : Nat) (dflt : α) : α := (Tab.find? t n).getD dflt

/-- A list entry replaced at its position. -/
def setAt {α : Type} : List α → Nat → α → List α
  | [], _, _ => []
  | _ :: rest, 0, a => a :: rest
  | b :: rest, n + 1, a => b :: setAt rest n a

/-- The first entry that satisfies `p`, replaced by `f` of it. -/
def updateFirst {α : Type} (p : α → Bool) (f : α → α) : List α → List α
  | [] => []
  | a :: rest => if p a then f a :: rest else a :: updateFirst p f rest

/-- The list without its first entry that satisfies `p`. -/
def eraseFirst {α : Type} (p : α → Bool) : List α → List α
  | [] => []
  | a :: rest => if p a then rest else a :: eraseFirst p rest

/-- The last `n` entries. -/
def lastN {α : Type} (n : Nat) (l : List α) : List α := l.drop (l.length - n)

end Sys2Proof.Machine
end

