-- ==== Sys2Proof/Machine/Memory.lean ====
section
/-!
DEFINITION. Memory: location keys, the canonical list of bytes, and the address classes of chapter 8.
Every location of the device has one key: a scratchpad byte of a core, an HBM byte of a package, a byte of the host.
An unlisted location reads 0 (assumption 2).
-/
namespace Sys2Proof.Machine

/-! ## The list -/

/-- What a location that nothing has written reads as (assumption 2: the manual gives no contents). -/
def emptyByte : Byte := 0

namespace Memory

/-- The byte at a key. -/
def get : List Host.Cell → Nat → Byte
  | [], _ => emptyByte
  | (k, b) :: rest, n => if k = n then b else if n < k then emptyByte else get rest n

/-- Writes a byte; writing what an unlisted key reads as removes the entry. -/
def put : List Host.Cell → Nat → Byte → List Host.Cell
  | [], n, b => if b = emptyByte then [] else [(n, b)]
  | (k, c) :: rest, n, b =>
    if k = n then (if b = emptyByte then rest else (n, b) :: rest)
    else if n < k then (if b = emptyByte then (k, c) :: rest else (n, b) :: (k, c) :: rest)
    else (k, c) :: put rest n b

/-- Writes bytes from a key upwards. -/
def write : List Host.Cell → Nat → List Byte → List Host.Cell
  | m, _, [] => m
  | m, n, b :: rest => write (put m n b) (n + 1) rest

/-- Reads `n` bytes from a key upwards. -/
def read (m : List Host.Cell) : Nat → Nat → List Byte
  | _, 0 => []
  | k, n + 1 => get m k :: read m (k + 1) n

/-- Canonical form: keys strictly rising from `low`, and no entry equal to what an unlisted key reads as. -/
def wfFrom : Nat → List Host.Cell → Bool
  | _, [] => true
  | low, (k, b) :: rest => decide (low ≤ k) && b != emptyByte && wfFrom (k + 1) rest

/-- Canonical form of a memory. -/
def wf (m : List Host.Cell) : Bool := wfFrom 0 m

end Memory

/-! ## Keys -/

def hostBase : Nat := 2 ^ 59
def ownBase : Nat := 2 ^ 60
def peerBase : Nat := 2 ^ 61

/-- 384 × 10^9 bytes of HBM (R237). -/
def hbmBytes : Nat := 384000000000

def scratchBytes : Nat := 0x80000

/-- A core of the pod: this package's cores keep their flat numbers. -/
def coreIndex (s : State) (pkg core : Nat) : Nat :=
  if pkg = s.ras.pkg.toNat then core else 4096 * (pkg + 1) + core

/-- A cluster of the pod. -/
def clusterIndex (s : State) (pkg cluster : Nat) : Nat :=
  if pkg = s.ras.pkg.toNat then cluster else 256 * (pkg + 1) + cluster

/-- The package of a core index, as a package number. -/
def pkgOfCore (s : State) (core : Nat) : Nat :=
  if core < 4096 then s.ras.pkg.toNat else core / 4096 - 1

def pkgOfCluster (s : State) (cluster : Nat) : Nat :=
  if cluster < 256 then s.ras.pkg.toNat else cluster / 256 - 1

/-- The key of a scratchpad byte. -/
def scratchKey (core addr : Nat) : Nat := core * scratchBytes + addr

/-- The key of an HBM byte. -/
def hbmKey (s : State) (pkg off : Nat) : Nat :=
  if pkg = s.ras.pkg.toNat then ownBase + off else peerBase + pkg * 2 ^ 45 + off

def hostKey (addr : Nat) : Nat := hostBase + addr

/-- This hart's core, cluster of the package and member number. -/
def ownCore (s : State) : Nat := s.coreid.toNat
def ownCluster (s : State) : Nat := s.coreid.toNat / 16
def ownMember (s : State) : Nat := s.coreid.toNat % 16

/-- The key of a local address of this core. -/
def localKey (s : State) (addr : Nat) : Nat := scratchKey (ownCore s) addr

/-! ## Reading and writing locations -/

/-- Whether any of the bytes lies in an own HBM channel that fails every access (R426). -/
def inDeadChannel (s : State) (key len : Nat) : Bool :=
  !s.ras.deadChannels.isEmpty && (List.range len).any fun i =>
    decide (ownBase ≤ key + i) && decide (key + i < ownBase + hbmBytes)
      && s.ras.deadChannels.contains (Config.hbmChannel (key + i - ownBase))

/-- Whether any of the bytes lies in a poisoned word or cannot be reached any more (R426). -/
def poisoned (s : State) (key len : Nat) : Bool :=
  (s.ras.poison.any fun w => decide (w < key + len) && decide (key < w + 8)) || inDeadChannel s key len

/-- Whether a write covers the whole word `w` (R426). -/
def coversWord (w key len : Nat) : Bool := decide (key ≤ w) && decide (w + 8 ≤ key + len)

/-- Whether the ranges overlap. -/
def overlaps (a la b lb : Nat) : Bool := decide (a < b + lb) && decide (b < a + la)

/-- A write ends the reservation of an overlapping word (R22, R226) and the poison of a word it replaces (R426). -/
def writeKey (s : State) (key : Nat) (data : List Byte) : State :=
  { s with
    mem := Memory.write s.mem key data
    ras := { s.ras with poison := s.ras.poison.filter fun w => !coversWord w key data.length }
    hart := { s.hart with
      resv := match s.hart.resv with
        | some (w, t) => if overlaps w 8 key data.length then none else some (w, t)
        | none => none } }

def readKey (s : State) (key len : Nat) : List Byte := Memory.read s.mem key len

/-- Eight bytes as a word. -/
def readWordKey (s : State) (key : Nat) : Word := bytesToWord (readKey s key 8)

def writeWordKey (s : State) (key : Nat) (v : Word) : State := writeKey s key (wordToBytes 8 v)

/-! ## Address classes (R208) -/

inductive AddrClass where
  | scratch | translated | reserved | group
  deriving DecidableEq, Repr

def classOf (ea : Word) : AddrClass :=
  if ea.toNat < 0x80000 then .scratch
  else if ea.toNat < 0x0100000000000000 then .translated
  else if ea.toNat < 0xFFF0000000000000 then .reserved
  else .group

/-- The tile slots that the dispatched actor owns (R104, R356): bit n for slot n of this core. -/
def ownedSlots (s : State) : BitVec 64 :=
  s.actors.slotOwner.foldl
    (fun acc (k, o) =>
      if k / 64 = ownCore s ∧ o = s.act.name then acc ||| BitVec.ofNat 64 (1 <<< (k % 64)) else acc) s.act.tslots

/-- tslots as the CSR reads: 0 with no handler dispatched (R104). -/
def tslots (s : State) : Word := if s.act.name = 0 then 0 else ownedSlots s

/-- R212: the bytes lie wholly within one range of the dispatched actor. -/
def inActorRange (s : State) (addr len : Nat) : Bool :=
  s.act.name != 0 &&
  ((decide (s.act.sbase.toNat ≤ addr) && decide (addr + len ≤ s.act.slimit.toNat))
    || (decide (s.act.wbase.toNat ≤ addr) && decide (addr + len ≤ s.act.wlimit.toNat))
    || (decide (addr / 0x2000 = (addr + len - 1) / 0x2000) && decide (addr < scratchBytes)
        && (tslots s).getLsbD (addr / 0x2000)))

/-- Whether local accesses of this hart are checked against the actor's ranges: in U-mode, and in M-mode under MPRV
with MPP = U (R111, R212). -/
def boundsChecked (s : State) : Bool :=
  match s.hart.priv with
  | .user => true
  | .supervisor => false
  | .machine => s.mach.status.mprv && s.mach.status.mpp == .user

/-- Whether a local access of this hart passes the checks of ReadLocal and WriteLocal (R53). -/
def localOk (s : State) (addr len : Nat) : Bool := !boundsChecked s || inActorRange s addr len

end Sys2Proof.Machine
end

