-- ==== Sys2Proof/Machine/Names.lean ====
section
/-!
DEFINITION. Actors' names and the table of actor slots (R10, R304 to R307).
-/
namespace Sys2Proof.Machine

/-! ## Names (R10) -/

def namePkg (n : Word) : Nat := field n 52 12
def nameCore (n : Word) : Nat := field n 40 12
def nameSlot (n : Word) : Nat := field n 30 10
def nameInc (n : Word) : BitVec 30 := n.extractLsb' 0 30

def mkName (pkg core slot : Nat) (inc : BitVec 30) : Word :=
  place pkg 52 ||| place core 40 ||| place slot 30 ||| place inc.toNat 0

def slotIndex (core slot : Nat) : Nat := core * 1024 + slot

/-- The table index of a name's slot. -/
def actorIx (s : State) (n : Word) : Nat := slotIndex (coreIndex s (namePkg n) (nameCore n)) (nameSlot n)

/-- An actor slot that has never held an actor (R304: incarnation 0 at reset). -/
def Actor.zero : Actor :=
  { st := .free, inc := 0, pid := 0, typ := 0
    snap := { handler := 0, tiles := 0, prio := 0, budget := 0, work := 0, size := 0, clrLen := 0, clrOff := 0
              mbox := 0, trapx := false }
    sbase := 0, trapExits := false, reserveIx := 0, commitIx := 0, consumeIx := 0, stamp := 0, wbase := 0, tbase := 0
    held := none, death := none, seq := 0 }

def actorAt (s : State) (ix : Nat) : Actor := Tab.getD s.actors.table ix Actor.zero

def setActor (ix : Nat) (a : Actor) (s : State) : State :=
  { s with actors := { s.actors with table := Tab.put s.actors.table ix a } }

def updateActor (ix : Nat) (f : Actor → Actor) (s : State) : State := setActor ix (f (actorAt s ix)) s

/-- Live: IDLE, RUNNABLE or RUNNING (R306, R307). -/
def ActorSt.live : ActorSt → Bool
  | .idle | .runnable | .running => true
  | .free | .exiting | .restarting => false

/-- The live actor of a name (R10: names compare as a whole). -/
def liveActor (s : State) (n : Word) : Option Actor :=
  let a := actorAt s (actorIx s n)
  if a.st.live && a.inc == nameInc n && a.inc != 0 then some a else none

def isLive (s : State) (n : Word) : Bool := (liveActor s n).isSome

/-- The name of the actor in a slot of a core. -/
def nameAt (s : State) (core slot : Nat) : Word :=
  mkName (pkgOfCore s core) (core % 4096) slot (actorAt s (slotIndex core slot)).inc

end Sys2Proof.Machine
end

