-- ==== Sys2Proof/Machine/Page.lean ====
section
/-!
DEFINITION. Pages and translation stations (chapter 9): the walk, the leaf checks of R238, the A and D bits.
-/
namespace Sys2Proof.Machine

/-- A detail code (R107). -/
abbrev Detail := BitVec 16

def dNone : Detail := 0x0000
def dPageInvalid : Detail := 0x0001
def dPagePermission : Detail := 0x0002
def dApertureReserved : Detail := 0x0003
def dRemoteAtomicDenied : Detail := 0x0004
def dAtomicAperture : Detail := 0x0005
def dMemoryUncorrectable : Detail := 0x0006
def dGroupMemberError : Detail := 0x0007
def dLostPeer : Detail := 0x0008
def dHostLink : Detail := 0x0009
def dStaleCounter : Detail := 0x000A
def dArrayUncorrectable : Detail := 0x000B
def dRegisterUncorrectable : Detail := 0x000C
def dContextFormat : Detail := 0x000D
def dContextRead : Detail := 0x000E

/-! ## Leaf fields (R234) -/

def leafV (e : Word) : Bool := bit e 0
def leafR (e : Word) : Bool := bit e 1
def leafW (e : Word) : Bool := bit e 2
def leafX (e : Word) : Bool := bit e 3
def leafA (e : Word) : Bool := bit e 4
def leafD (e : Word) : Bool := bit e 5
def leafOrd (e : Word) : Bool := bit e 6
def leafRap (e : Word) : Bool := bit e 7
def leafAperture (e : Word) : Nat := field e 8 2
def leafNrb (e : Word) : Bool := bit e 10
def leafG (e : Word) : Bool := bit e 11
def leafPage (e : Word) : Nat := field e 12 45

/-- Whether a fabric physical address names the HBM of the package whose station asks (R237). -/
def isHbmOf (pkg fpa : Nat) : Bool := decide (fpa / 2 ^ 45 = pkg) && decide (fpa % 2 ^ 45 < hbmBytes)

/-- VPN[n] of an address (R233). -/
def vpnAt (va : Nat) (level : Nat) : Nat := va / 2 ^ (12 + 9 * level) % 512

/-- The virtual page number of a page at a level. -/
def pageNumber (va level : Nat) : Nat := va / 2 ^ (12 + 9 * level)

/-- What a walk finds. -/
inductive WalkResult where
  | leaf (level : Nat) (entryKey : Nat) (e : Word)
  | failed (d : Detail)
  deriving DecidableEq, Repr

/-- Whether a leaf found at a level is well formed (R234). -/
def leafWellFormed (pkg level : Nat) (e : Word) : Bool :=
  decide (field e 57 7 = 0) && !(leafW e && !leafR e) && decide (level < 4)
    && decide (leafPage e % 2 ^ (9 * level) = 0)
    && (leafAperture e != 0 || isHbmOf pkg (leafPage e * 4096))

/-- The walk from a table at an offset of the HBM of the station's package (R233, R234, R236). -/
def walkFrom (s : State) (pkg va : Nat) : List Nat → Nat → WalkResult
  | [], _ => .failed dPageInvalid
  | level :: rest, table =>
    let key := hbmKey s pkg (table + 8 * vpnAt va level)
    if poisoned s key 8 then .failed dMemoryUncorrectable
    else
      let e := readWordKey s key
      if !leafV e then .failed dPageInvalid
      else if leafR e || leafW e || leafX e then
        if leafWellFormed pkg level e then .leaf level key e else .failed dPageInvalid
      else if field e 57 7 = 0 ∧ isHbmOf pkg (leafPage e * 4096) then
        walkFrom s pkg va rest (leafPage e * 4096 % 2 ^ 45)
      else .failed dPageInvalid

/-- The package of a station: this package's stations are 0 to 31, those of package p follow from 32 × (p + 1). -/
def stationPkg (s : State) (station : Nat) : Nat := if station < 32 then s.ras.pkg.toNat else station / 32 - 1

/-- The place of a PID's root in the process root tables of the packages. -/
def rootIndex (station : Nat) (pid : Pid) : Nat := station / 32 * 65536 + pid.toNat

/-- The walk of a PID's tables (R233, R240). -/
def walk (s : State) (station : Nat) (pid : Pid) (va : Word) : WalkResult :=
  match Tab.find? s.stn.roots (rootIndex station pid) with
  | none => .failed dPageInvalid
  | some root => walkFrom s (stationPkg s station) va.toNat [4, 3, 2, 1, 0] root

/-- A translated location: its key, the leaf, and the package of its home. -/
structure Xlat where
  key : Nat
  leaf : Word
  aperture : Nat
  pkg : Nat
  deriving DecidableEq, Repr

/-- The fabric physical address of an address under a leaf (R237). -/
def fpaOf (level : Nat) (e : Word) (va : Nat) : Nat :=
  leafPage e * 4096 + va % 2 ^ (12 + 9 * level)

/-- The FPA rule of R237. -/
def fpaOk (pkg aperture fpa : Nat) : Bool :=
  if aperture = 0 then isHbmOf pkg fpa
  else if aperture = 1 then decide (fpa / 2 ^ 45 ≠ pkg)
  else decide (fpa / 2 ^ 45 = 0)

/-- Where an FPA lies. -/
def keyOfFpa (s : State) (aperture fpa : Nat) : Nat :=
  if aperture = 2 then hostKey (fpa % 2 ^ 45) else hbmKey s (fpa / 2 ^ 45) (fpa % 2 ^ 45)

/-- The checks of R238 on a well-formed leaf. For a fetch, PAGE_INVALID stands for cause 12 and any other detail for
cause 1 (R238, R239). -/
def checkLeaf (s : State) (station : Nat) (kind : AccessKind) (level : Nat) (e : Word) (va : Word) : Except Detail Xlat :=
  let pkg := stationPkg s station
  let ap := leafAperture e
  let fpa := fpaOf level e va.toNat
  if ap = 3 then .error dApertureReserved
  else if !fpaOk pkg ap fpa then .error dPageInvalid
  else
    let ok : Except Detail Xlat :=
      .ok { key := keyOfFpa s ap fpa, leaf := e, aperture := ap
            pkg := if ap = 1 then fpa / 2 ^ 45 else pkg }
    match kind with
    | .fetch => if ap ≠ 0 then .error dApertureReserved else if !leafX e then .error dPageInvalid else ok
    | .load => if !leafR e then .error dPagePermission else ok
    | .store => if !leafW e then .error dPagePermission else ok
    | .atomic =>
      if !leafR e || !leafW e then .error dPagePermission
      else if ap = 2 then .error dAtomicAperture
      else if ap = 1 && !leafRap e then .error dRemoteAtomicDenied
      else ok

def isWriteKind : AccessKind → Bool
  | .store | .atomic => true
  | .fetch | .load => false

/-- The station that serves a core of the pod (R240). -/
def stationOf (core : Nat) : Nat := core / 4096 * 32 + core % 4096 / 512 * 4 + core / 16 % 32 / 8

def tlbMatches (t : TlbEntry) (station : Nat) (pid : Pid) (va : Word) : Bool :=
  t.station == station && (t.pid == pid || leafG t.leaf) && t.vpn == pageNumber va.toNat t.level

/-- Whether the access needs the station to set A or D first (R235). -/
def needsUpdate (kind : AccessKind) (e : Word) : Bool := !leafA e || (isWriteKind kind && !leafD e)

/-- Whether a cached leaf may serve the access: its A bit, and its D bit for a write, are set in the entry and in
memory (R235: no access is performed through a leaf whose bits are not set in memory). -/
def tlbServes (s : State) (kind : AccessKind) (t : TlbEntry) : Bool :=
  !needsUpdate kind t.leaf && !needsUpdate kind (readWordKey s t.leafKey)

/-- The package that a failure on a well-formed leaf names: the peer for a peer page, otherwise the station's
(R106, assumption 71). -/
def namedPkg (s : State) (station level : Nat) (e va : Word) : BitVec 12 :=
  if leafAperture e = 1 then BitVec.ofNat 12 (fpaOf level e va.toNat / 2 ^ 45) else BitVec.ofNat 12 (stationPkg s station)

/-- The station drops the entries that match an access (R235). -/
def dropEntries (station : Nat) (pid : Pid) (va : Word) (s : State) : State :=
  { s with stn := { s.stn with tlb := s.stn.tlb.filter fun t => !tlbMatches t station pid va } }

/-- The station keeps a leaf that it has walked to, while it has room (R240). -/
def keepEntry (entry : TlbEntry) (s : State) : State :=
  if (s.stn.tlb.filter fun t => t.station == entry.station).length < 4096 then
    { s with stn := { s.stn with tlb := entry :: s.stn.tlb } }
  else s

/-- A detail code with the package that it names. -/
abbrev Denial := Detail × BitVec 12

/-- Translation of one access (R238) with the update of A and D (R235) and the caching of the leaf (R240). An entry that
cannot serve is dropped, and the station walks again. -/
def translate (s : State) (station : Nat) (pid : Pid) (va : Word) (kind : AccessKind) : State × Except Denial Xlat :=
  match s.stn.tlb.find? (fun t => tlbMatches t station pid va && tlbServes s kind t) with
  | some t =>
    (s, (checkLeaf s station kind t.level t.leaf va).mapError fun d => (d, namedPkg s station t.level t.leaf va))
  | none =>
    let s0 := dropEntries station pid va s
    match walk s0 station pid va with
    | .failed d => (s0, .error (d, BitVec.ofNat 12 (stationPkg s0 station)))
    | .leaf level key e =>
      match checkLeaf s0 station kind level e va with
      | .error d => (s0, .error (d, namedPkg s0 station level e va))
      | .ok x =>
        let e' := setBit (if isWriteKind kind then setBit e 5 true else e) 4 true
        let s1 := if needsUpdate kind e then writeWordKey s0 key e' else s0
        let entry : TlbEntry :=
          { station := station, pid := pid, vpn := pageNumber va.toNat level, level := level, leaf := e', leafKey := key }
        (keepEntry entry s1, .ok { x with leaf := e' })

/-- The package whose memory holds a location. -/
def pkgOfKey (s : State) (key : Nat) : BitVec 12 :=
  if peerBase ≤ key then BitVec.ofNat 12 ((key - peerBase) / 2 ^ 45) else s.ras.pkg

/-- The location that an address translates to now, without any effect. -/
def peekKey (s : State) (pid : Pid) (va : Word) (kind : AccessKind) : Option Xlat :=
  match (translate s (stationOf (ownCore s)) pid va kind).2 with
  | .ok x => some x
  | .error _ => none

/-- Whether an address translates to an ORD page now. -/
def peekOrd (s : State) (pid : Pid) (va : Word) (kind : AccessKind) : Bool :=
  match peekKey s pid va kind with
  | some x => leafOrd x.leaf
  | none => false

end Sys2Proof.Machine
end

