-- ==== Sys2Proof/Machine/Agenda.lean ====
section
/-!
DEFINITION. The agenda: handing a step to another agent, packets and flits on the way to another package (R404 to R411),
error records, and answers to requests.
-/
namespace Sys2Proof.Machine

/-! ## Where a step takes place -/

/-- The package in which the current step takes place. -/
def herePkg (s : State) : Nat :=
  match s.sched.place with
  | none => s.ras.pkg.toNat
  | some p => p.toNat

/-- The package as the place of an entry: none for this one. -/
def placeOf (s : State) (pkg : Nat) : Option (BitVec 12) :=
  if pkg = s.ras.pkg.toNat then none else some (BitVec.ofNat 12 pkg)

/-- Appends an entry to the agenda. -/
def enter (e : Entry) (s : State) : State := { s with sched := { s.sched with agenda := s.sched.agenda ++ [e] } }

/-- Appends a step of an agent of the package in which the current step takes place. -/
def post (ev : Instr) (s : State) : State := enter { ev := ev, via := none, place := s.sched.place } s

/-- Appends a step of an agent of this package. -/
def postOwn (ev : Instr) (s : State) : State := enter { ev := ev, via := none, place := none } s

def postAll (evs : List Instr) (s : State) : State := evs.foldl (fun t e => post e t) s

/-! ## Error logs (R431) -/

/-- Sets a pending bit of this hart's mip. -/
def setPending (n : Nat) (s : State) : State :=
  { s with mach := { s.mach with mip := setBit s.mach.mip n true } }

/-- Whether a record of the kind and level raises interrupt 19 (R429, R431). -/
def raisesRas (s : State) (kind level : Nat) : Bool :=
  let l := s.ras.levels.getD level (Level.reset level)
  if kind = 1 then false else if kind = 9 ∨ kind = 10 then true else if kind = 2 then l.tie else l.ie

def logWord (kind level detail : Nat) (location : Nat) : Word :=
  place (kind % 256) 56 ||| place (level % 8) 53 ||| place (detail % 65536) 32 ||| place (location % 2 ^ 32) 0

/-- A record of this instant. -/
def newRecord (s : State) (kind level detail location : Nat) : LogRecord :=
  { word0 := logWord kind level detail location, time := s.ctr.timeline }

/-- A report at the management interface (R21). -/
def report (r : MgmtReport) (s : State) : State := { s with host := { s.host with mgmt := s.host.mgmt ++ [r] } }

/-- Adds a record to this cluster's log of 256 records; another package keeps its own logs. -/
def logCluster (kind level detail location : Nat) (s : State) : State :=
  if s.sched.place.isSome then s
  else if s.ras.clusterLog.length < 256 then
    let s1 := { s with ras := { s.ras with clusterLog := s.ras.clusterLog ++ [newRecord s kind level detail location] } }
    if raisesRas s kind level && ownMember s == 0 then setPending 19 s1 else s1
  else { s with ras := { s.ras with clusterOvf := true } }

/-- Adds a record to the package log of 1,024 records and reports it at the management interface; a record of level 7
sends MSI-X vector 65 (R421, R477). DESIGN CHOICE: R21 does not say which errors are reported there (assumption 105). -/
def logPackage (kind level detail location : Nat) (s : State) : State :=
  if s.sched.place.isSome then s
  else if s.ras.packageLog.length < 1024 then
    let r := newRecord s kind level detail location
    let s0 := if level = 7 then { s with host := { s.host with msix := s.host.msix ++ [65] } } else s
    let s1 := report (.error r) { s0 with ras := { s0.ras with packageLog := s0.ras.packageLog ++ [r] } }
    if raisesRas s kind level && ownCore s == 0 then setPending 19 s1 else s1
  else { s with ras := { s.ras with packageOvf := true } }

/-- A device error: an exception while the dispatcher is active (R113, R477). -/
def logDevice (cause : Nat) (s : State) : State := logPackage 11 0 cause (ownCore s) s

/-! ## Peers -/

/-- A peer that no table lists: not a package of the pod. -/
def Peer.zero : Peer :=
  { known := false, lost := false, permits := 0, grants := 0, timer := none
    out := Vector.replicate 4 Stream.zero, inn := Vector.replicate 4 Stream.zero }

def peerOf (s : State) (pkg : Nat) : Peer := Tab.getD s.fab.peers pkg Peer.zero

def setPeer (pkg : Nat) (p : Peer) (s : State) : State :=
  { s with fab := { s.fab with peers := Tab.put s.fab.peers pkg p } }

/-- Whether a further contribution to a package may leave its source: fewer than 256 are unanswered (R411). -/
def contributionFits (s : State) (pkg : Nat) : Bool :=
  decide (pkg = s.ras.pkg.toNat)
    || decide ((((peerOf s pkg).out.get 3).packets.countP fun q => q.via.kind == 24) < 256)

/-- Whether operations towards another package can be answered by it (R413, R433). -/
def reachable (s : State) (pkg : Nat) : Bool :=
  decide (pkg = s.ras.pkg.toNat) || (s.ras.pkgSet && (peerOf s pkg).known && !(peerOf s pkg).lost)

def channelNo : Channel → Fin 4
  | .request => 0 | .answer => 1 | .message => 2 | .collective => 3

def outStream (s : State) (pkg : Nat) (ch : Channel) : Stream := (peerOf s pkg).out.get (channelNo ch)
def innStream (s : State) (pkg : Nat) (ch : Channel) : Stream := (peerOf s pkg).inn.get (channelNo ch)

def setOut (pkg : Nat) (ch : Channel) (st : Stream) (s : State) : State :=
  let p := peerOf s pkg
  setPeer pkg { p with out := p.out.set (channelNo ch) st (channelNo ch).isLt } s

def setInn (pkg : Nat) (ch : Channel) (st : Stream) (s : State) : State :=
  let p := peerOf s pkg
  setPeer pkg { p with inn := p.inn.set (channelNo ch) st (channelNo ch).isLt } s

def nextRid (n : Nat) : Nat := (n + 1) % 65536

/-! ## Packets (R404, R405) -/

/-- The KIND of the packet that carries a step (R405); 63, which is not listed, for a step that no packet carries. -/
def packetKind : Instr → Nat
  | .homeRead _ _ _ => 0
  | .homeWrite _ _ _ => 1
  | .homeAtomic _ _ _ _ _ _ | .reduceElementUpdate _ => 2
  | .homeCalloc _ _ | .homeCadd _ _ _ _ | .homeCset _ _ _ _ | .homeCpoll _ _ _ | .homeCwait _ _ _ _
  | .homeCarm _ _ _ _ _ | .homeCfree _ _ _ | .waiterWithdrawal _ => 3
  | .recordAdmit _ | .move _ => 16
  | .spawnAtTarget _ | .cohortSpawnAtMember _ _ _ _ => 17
  | .armFiringArrives _ => 18
  | .linkInstall _ | .linkRemoval _ | .killRequest _ | .linkSignal _ | .directSignal _ | .childRestart _ _
  | .restartRound _ => 19
  | .contributionArrival _ => 24
  | .canswerArrival _ _ => 25
  | _ => 63

/-- The channel of a KIND, if it is listed. -/
def kindChannel (k : Nat) : Option Channel :=
  if k < 4 then some .request else if 8 ≤ k ∧ k ≤ 10 then some .answer
  else if 16 ≤ k ∧ k ≤ 19 then some .message else if k = 24 ∨ k = 25 then some .collective else none

/-- The permit bit that a packet needs: MEM 0, ATOM 1, CNT 2, ACT 3, COL 4 (R412). -/
def permitBit (k : Nat) : Option Nat :=
  if k ≤ 1 then some 0 else if k = 2 then some 1 else if k = 3 ∨ k = 18 then some 2
  else if k = 16 ∨ k = 17 ∨ k = 19 then some 3 else if k = 24 then some 4 else none

/-- What the issuer of a refused packet sees (R412). -/
def refusalDetail (permit : Nat) : Detail :=
  if permit = 0 then dPagePermission else if permit = 1 then dRemoteAtomicDenied
  else if permit = 2 then dStaleCounter else dLostPeer

/-- Where the answer to a request goes. -/
def replyToOf : Instr → ReplyTo
  | .homeRead _ _ r | .homeWrite _ _ r | .homeAtomic _ _ _ _ _ r | .stationTranslate _ _ _ r => r
  | .homeCalloc _ r | .homeCadd _ _ _ r | .homeCset _ _ _ r | .homeCpoll _ _ r | .homeCwait _ _ _ r
  | .homeCarm _ _ _ r _ | .homeCfree _ _ r | .waiterRetry _ _ _ r => r
  | .spawnAtTarget q | .cohortSpawnAtMember q _ _ _ => q.replyTo
  | .move m => m.replyTo
  | .waiterWithdrawal r => r
  | .reduceElementUpdate id => .transfer id
  | _ => .none

/-- The request with its answer going elsewhere. -/
def withReply (r : ReplyTo) : Instr → Instr
  | .homeRead k n _ => .homeRead k n r
  | .homeWrite k b _ => .homeWrite k b r
  | .homeAtomic k op n x e _ => .homeAtomic k op n x e r
  | .stationTranslate p va act _ => .stationTranslate p va act r
  | .homeCalloc i _ => .homeCalloc i r
  | .homeCadd h n i _ => .homeCadd h n i r
  | .homeCset h v i _ => .homeCset h v i r
  | .homeCpoll h i _ => .homeCpoll h i r
  | .homeCwait h t i _ => .homeCwait h t i r
  | .homeCarm h t i _ a => .homeCarm h t i r a
  | .homeCfree h i _ => .homeCfree h i r
  | .waiterRetry h t i _ => .waiterRetry h t i r
  | .spawnAtTarget q => .spawnAtTarget { q with replyTo := r }
  | .cohortSpawnAtMember q n l f => .cohortSpawnAtMember { q with replyTo := r } n l f
  | .move m => .move { m with replyTo := r }
  | .waiterWithdrawal _ => .waiterWithdrawal r
  | ev => ev

/-- The PID of a request, by who waits for its answer: of an operation or a store of the hart, the job under which it was
issued. -/
def accessPid (s : State) : ReplyTo → Pid
  | .transfer id => ((s.transfers.find? fun t => t.id == id).map fun t => t.pid).getD s.sup.pid
  | .collective _ pid _ => pid
  | .job id _ =>
    (((s.off.jobs.find? fun j => j.id == id).bind fun j => j.issued.head?).map fun p => p.pid).getD s.sup.pid
  | .drain id =>
    (s.off.drain.findSome? fun
      | .store e => if e.id = id then some e.pid else none
      | .release _ _ | .trapx _ _ _ | .atomic _ _ | .sent _ _ => none).getD s.sup.pid
  | .over o _ => o.pid
  | .none | .hart | .arm _ | .hostArm _ | .host _ => s.sup.pid

/-- The PID of a signal: of its actors' job, by the actor that it comes from, or, where that one is no more, by the one that
it goes to. -/
def signalPid (s : State) (g : Signal) : Pid :=
  let from_ := actorAt s (actorIx s g.frm)
  if from_.inc = nameInc g.frm ∧ from_.pid ≠ 0 then from_.pid else (actorAt s (actorIx s g.dst)).pid

/-- The PID of a supervisor. -/
def supPid (s : State) (sup : Word) : Pid := ((s.actors.sups.find? fun u => u.name == sup).map fun u => u.pid).getD 0

/-- The PID of a packet's header: of the job that the step belongs to. -/
def packetPid (s : State) : Instr → Pid
  | .homeCalloc i _ | .homeCadd _ _ i _ | .homeCset _ _ i _ | .homeCpoll _ i _ | .homeCwait _ _ i _
  | .homeCarm _ _ i _ _ | .homeCfree _ i _ => i.pid
  | .recordAdmit r => r.pid
  | .spawnAtTarget q | .cohortSpawnAtMember q _ _ _ => q.pid
  | .killRequest k => k.pid
  | .linkInstall r | .linkRemoval r => r.pid
  | .move m => m.pid
  | .homeRead _ _ r | .homeWrite _ _ r | .homeAtomic _ _ _ _ _ r | .waiterWithdrawal r => accessPid s r
  | .linkSignal g | .directSignal g => signalPid s g
  | .childRestart sup _ => supPid s sup
  | .reduceElementUpdate id => accessPid s (.transfer id)
  | .contributionArrival c | .canswerArrival c _ => c.pid
  | _ => s.sup.pid

/-- Bytes that a packet carries, as far as they decide how many flits it has. -/
def packetBytes (ev : Instr) (answer : Option PacketAnswer) : Nat :=
  match answer with
  | some (_, .bytes b) | some (_, .damaged b _ _) => b.length
  | some (_, .value _) | some (_, .failed _ _) => 8
  | none =>
    match ev with
    | .homeWrite _ b _ => b.length
    | .recordAdmit r => 16 + r.payload.length
    | .move _ => 0x2000
    | .contributionArrival c => c.lines * 64
    | _ => 64

/-- Flits of a packet (R404). -/
def flitCount (ev : Instr) (answer : Option PacketAnswer) : Nat := min 128 (max 1 (ceilDiv (packetBytes ev answer) 64))

/-! ## Flits (R404, R409) -/

/-- The header of every flit of a packet. -/
def flitHeader (a : Arrival) : Word :=
  place a.dst.toNat 52 ||| place a.src.toNat 40 ||| place (channelNo a.channel).val 38 ||| place a.kind.toNat 32
    ||| place (a.rid % 65536) 16 ||| place a.pid.toNat 0

def headerDst (h : Word) : Nat := field h 52 12

/-- Whether two headers are of one stream. -/
def sameStream (h g : Word) : Bool := h.toNat / 2 ^ 38 == g.toNat / 2 ^ 38

/-- One byte of CRC-32 (IEEE 802.3), low bit first. -/
def crcBits : Nat → BitVec 32 → BitVec 32
  | 0, c => c
  | n + 1, c => crcBits n (if c.getLsbD 0 then (c >>> 1) ^^^ 0xEDB88320 else c >>> 1)

def crc32 (b : List Byte) : BitVec 32 :=
  ~~~(b.foldl (fun c x => crcBits 8 (c ^^^ x.setWidth 32)) (BitVec.allOnes 32))

/-- The 64 bytes of a flit's payload: the manual does not lay them out (assumption 78). -/
def flitPayload (n : Nat) : List Byte := (List.range 8).flatMap fun i => wordToBytes 8 (Config.freeWord (n + i))

def flitCrc (header : Word) (payload : Nat) : BitVec 32 := crc32 (wordToBytes 8 header ++ flitPayload payload)

def trailerSeq (t : Word) : BitVec 12 := t.extractLsb' 52 12
def trailerIndex (t : Word) : Nat := field t 45 7
def trailerLast (t : Word) : Bool := bit t 44

/-- The flits of a packet, with SEQ still 0; their payloads are numbered from `free` up. -/
def flitsOf (header : Word) (n free : Nat) : List Flit :=
  (List.range n).map fun i =>
    { header := header, payload := free + 8 * i
      trailer := place i 45 ||| flag (i + 1 == n) 44 ||| place (flitCrc header (free + 8 * i)).toNat 0 }

/-- A flit with its SEQ. -/
def stamp (seq : BitVec 12) (f : Flit) : Flit := { f with trailer := f.trailer ||| place seq.toNat 52 }

def portAt (s : State) (k : Nat) : Port := s.fab.ports.getD k Port.reset

def setPort (k : Nat) (p : Port) (s : State) : State :=
  { s with fab := { s.fab with ports := s.fab.ports.setIfInBounds k p } }

/-- The port of R407 towards a package: the trained port with the lowest number at or above it, wrapping. -/
def portFor (s : State) (pkg : Nat) : Option Nat :=
  ((List.range 32).map fun i => (pkg + i) % 32).find? fun k => (portAt s k).trained

/-- The channel of a flit. -/
def headerChannel (h : Word) : Fin 4 := Fin.ofNat 4 (field h 38 2)

/-- Every flit that waits at a port. -/
def Port.waiting (p : Port) : List Flit := p.queue.toList.flatten

def Port.flits (p : Port) : List Flit := p.unacked ++ p.waiting

/-- Flits join the others of their channel. -/
def Port.enqueue (c : Fin 4) (fs : List Flit) (p : Port) : Port :=
  { p with queue := p.queue.set c (p.queue.get c ++ fs) c.isLt }

/-- The channels in the order in which the port serves them: from the one behind the last flit that it sent. -/
def Port.turns (p : Port) : List (Fin 4) :=
  let first := match p.unacked.getLast? with | some f => headerChannel f.header + 1 | none => 0
  (List.range 4).map fun i => first + Fin.ofNat 4 i

/-- The flits that wait in the order in which they are sent: one of each channel in turn, so that no channel waits for another
(R405). DESIGN CHOICE: the manual gives no order (assumption 98). -/
def Port.sendOrder (p : Port) : List Flit :=
  (List.range p.waiting.length).flatMap fun i => p.turns.filterMap fun c => (p.queue.get c)[i]?

/-- The flits that still wait once `now` has been sent. -/
def Port.behind (now : List Flit) (p : Port) : Vector (List Flit) 4 :=
  Vector.ofFn fun c => (p.queue.get c).drop (now.countP fun f => headerChannel f.header == c)

/-- A flit towards the package is not acknowledged (R413). -/
def unackedTo (s : State) (pkg : Nat) : Bool :=
  s.fab.ports.toList.any fun p => p.unacked.any fun f => headerDst f.header == pkg

/-- The loss timer starts where it does not run (R413). -/
def startTimer (pkg : Nat) (s : State) : State :=
  let p := peerOf s pkg
  if p.timer.isSome then s else setPeer pkg { p with timer := some s.ctr.timeline } s

/-- The loss timer restarts, or stops when nothing is left unacknowledged (R413). -/
def restartTimer (pkg : Nat) (s : State) : State :=
  let p := peerOf s pkg
  setPeer pkg { p with timer := if unackedTo s pkg then some s.ctr.timeline else none } s

/-- Flits with their SEQ numbers from `seq` up. -/
def stampAll : BitVec 12 → List Flit → List Flit
  | _, [] => []
  | seq, f :: rest => stamp seq f :: stampAll (seq + 1) rest

/-- A port sends what it may: at most 64 of its flits are unacknowledged (R409). The other side acknowledges the last. -/
def pumpPort (k : Nat) (s : State) : State :=
  let p := portAt s k
  let n := if p.trained then 64 - p.unacked.length else 0
  let now := stampAll p.seq (p.sendOrder.take n)
  match now.getLast? with
  | none => s
  | some f =>
    let s1 := setPort k
      { p with queue := p.behind now, unacked := p.unacked ++ now, seq := p.seq + BitVec.ofNat 12 now.length } s
    postOwn (.flitAcknowledgement (BitVec.ofNat 12 (headerDst f.header)) (trailerSeq f.trailer))
      (now.foldl (fun t g => startTimer (headerDst g.header) t) s1)

/-- The port of a stream's next packet: a stream that has flits on another port waits for them (R407). -/
def streamPort (s : State) (header : Word) : Option Nat :=
  let busy := (List.range 32).find? fun k => (portAt s k).flits.any fun f => sameStream f.header header
  match busy, portFor s (headerDst header) with
  | none, k => k
  | some j, some k => if j = k then some k else none
  | some _, none => none

/-- Whether a flit of the packet still waits at its port. -/
def flitsQueued (s : State) (a : Arrival) : Bool :=
  s.fab.ports.toList.any fun p => p.waiting.any fun f => f.header == flitHeader a

/-- The flits of a packet go to its port. -/
def handFlits (a : Arrival) (ev : Instr) (k : Nat) (s : State) : State :=
  let n := flitCount ev a.answer
  let p := portAt s k
  let s1 := setPort k (p.enqueue (channelNo a.channel) (flitsOf (flitHeader a) n s.sched.free)) s
  pumpPort k { s1 with sched := { s1.sched with free := s1.sched.free + 8 * n } }

/-! ## Leaving the source (R408, R411) -/

/-- The first packets of a stream that may leave do: their port is at hand, and on channels 0 and 2 the packet 256 before
has been answered. A contribution waits at its entry, so that an answer to one of the other side never waits behind it
(assumption 80). -/
def leavePackets (pkg : Nat) (ch : Channel) : Nat → State → State
  | 0, s => s
  | n + 1, s =>
    let st := outStream s pkg ch
    match st.packets.find? fun q => !q.left with
    | none => s
    | some q =>
      if (ch = .request ∨ ch = .message) ∧ (st.packets.any fun r => r.via.rid == (q.via.rid + 65280) % 65536) then s
      else
        match streamPort s (flitHeader q.via) with
        | none => s
        | some k =>
          let packets := updateFirst (fun r => !r.left) (fun r => { r with left := true, sent := s.ctr.timeline }) st.packets
          leavePackets pkg ch n (handFlits q.via q.ev k (setOut pkg ch { st with packets := packets } s))

/-- Every stream tries again. -/
def leaveAll (s : State) : State :=
  s.fab.peers.foldl (fun t (pkg, _) =>
    [Channel.request, .answer, .message, .collective].foldl
      (fun u ch => leavePackets pkg ch (outStream u pkg ch).packets.length u) t) s

/-- A packet of this package has been answered: it leaves its stream, and what waited behind it may leave (R411). -/
def settle (pkg : Nat) (ch : Channel) (rid : Nat) (s : State) : State :=
  let st := outStream s pkg ch
  let st' := { st with packets := st.packets.filter fun q => q.via.rid != rid }
  leavePackets pkg ch st'.packets.length (setOut pkg ch st' s)

/-- A packet of this package: it takes its stream's next RID, and its step waits for it to arrive. -/
def postOut (pkg : Nat) (ch : Channel) (kind : Nat) (pid : Pid) (ev : Instr) (answers : Option (Channel × Nat))
    (answer : Option PacketAnswer) (s : State) : State :=
  let st := outStream s pkg ch
  let a : Arrival :=
    { src := s.ras.pkg, dst := BitVec.ofNat 12 pkg, channel := ch, rid := st.next, kind := BitVec.ofNat 6 kind
      pid := pid, flits := [], answers := answers, answer := answer }
  let st' := { st with
    next := nextRid st.next, packets := st.packets ++ [{ via := a, ev := ev, left := false, sent := s.ctr.timeline }] }
  leavePackets pkg ch st'.packets.length
    (enter { ev := ev, via := some a, place := placeOf s pkg } (setOut pkg ch st' s))

/-- A packet of another package for this one, under the next RID of its stream. -/
def postIn (pkg : Nat) (ch : Channel) (kind : Nat) (pid : Pid) (ev : Instr) (answers : Option (Channel × Nat))
    (answer : Option PacketAnswer) (s : State) : State :=
  let st := innStream s pkg ch
  let a : Arrival :=
    { src := BitVec.ofNat 12 pkg, dst := s.ras.pkg, channel := ch, rid := st.next, kind := BitVec.ofNat 6 kind
      pid := pid, flits := [], answers := answers, answer := answer }
  enter { ev := ev, via := some a, place := none } (setInn pkg ch { st with next := nextRid st.next } s)

/-- A packet of one package for another, this package being one of the two; one for a lost peer is discarded. -/
def postBetween (src dst : Nat) (ch : Channel) (kind : Nat) (pid : Pid) (ev : Instr) (answers : Option (Channel × Nat))
    (answer : Option PacketAnswer) (s : State) : State :=
  if src = s.ras.pkg.toNat then
    if reachable s dst then postOut dst ch kind pid ev answers answer s else s
  else if dst = s.ras.pkg.toNat then postIn src ch kind pid ev answers answer s
  else s

/-! ## Signals and answers -/

/-- A direct signal to one actor about itself (R385): FROM and ORIGIN are its own name. -/
def signalSelf (name : Word) (reason : BitVec 8) (detail : Word) (s : State) : State :=
  post (.directSignal
    { dst := name, frm := name, origin := name, reason := reason, detail := detail, mon := false, cascade := false }) s

/-- A collective entry fails (R375): its owner is told, or the entry's cluster logs it when it has none (R477); another
cluster than this one keeps its own log. -/
def failColl (cl : Nat) (pid : Pid) (colid : BitVec 32) (d : Detail) (s : State) : State :=
  match s.colls.find? (fun c => c.cluster == cl && c.pid == pid && c.colid == colid) with
  | none => s
  | some c =>
    if c.st = .waiting ∨ c.st = .active then
      let s1 := { s with colls := updateFirst (fun c => c.cluster == cl && c.pid == pid && c.colid == colid)
                                    (fun c => { c with
                                      st := .failed, dests := if c.st = .waiting then [] else c.dests }) s.colls }
      if c.owner = 0 then (if cl = ownCluster s then logCluster 8 3 d.toNat colid.toNat s1 else s1)
      else signalSelf c.owner 0x0B (place colid.toNat 32 ||| place 15 20 ||| place d.toNat 0) s1
    else s

/-- An arm that ends without firing stops counting against its core's 16 (R260); a host arm slot reads refused (R275,
assumption 27). -/
def armEnds (armFor : ReplyTo) (s : State) : State :=
  match armFor with
  | .arm core => { s with ctr := { s.ctr with arms := Tab.put s.ctr.arms core (Tab.getD s.ctr.arms core 0 - 1) } }
  | .hostArm slot =>
    match Tab.find? s.ctr.hostArms slot with
    | some a => { s with ctr := { s.ctr with hostArms := Tab.put s.ctr.hostArms slot { a with state := 3 } } }
    | none => s
  | .none | .job _ _ | .hart | .transfer _ | .collective _ _ _ | .host _ | .drain _ | .over _ _ => s

/-- Whether an answer's end is an arm's. -/
def isArmEnd : ReplyTo → Bool
  | .arm _ | .hostArm _ => true
  | .none | .job _ _ | .hart | .transfer _ | .collective _ _ _ | .host _ | .drain _ | .over _ _ => false

/-- The end that a request's answer reaches at its source. -/
def replyBase : ReplyTo → ReplyTo
  | .over _ inner => inner
  | r => r

/-- Who waits for an answer: the package, and the end there. -/
def replyKey (s : State) : ReplyTo → Nat × ReplyTo
  | .over o inner => (o.src.toNat, inner)
  | r => (s.ras.pkg.toNat, r)

/-- The KIND of an answer by the KIND of what it answers (R405, R412): RESULT for a SPAWN and for the move of a tile slot,
also where it is refused, and for the value of an ATOMIC or COUNTER; DATA for what a READ returns; ACK otherwise. -/
def answerKind (kind : BitVec 6) (inner : ReplyTo) : Response → Nat
  | .bytes _ | .damaged _ _ _ => 8
  | .failed _ _ => if kind = 17 ∨ (kind = 16 ∧ inner ≠ .none) then 9 else 10
  | .value _ => if kind = 2 ∨ kind = 3 ∨ kind = 17 ∨ (kind = 16 ∧ inner ≠ .none) then 9 else 10

/-- The answer of an applied packet is kept with its identifier (R264). -/
def keepAnswer (rid : Nat) (x : PacketAnswer) (st : Stream) : Stream :=
  { st with applied := st.applied.map fun r => if r.1 = rid then (rid, some x) else r }

/-- An answer travels back to the source of the packet that it answers, on channel 1, with that packet's PID (R404, R405). -/
def answerPacket (o : Origin) (x : PacketAnswer) (s : State) : State :=
  let src := o.src.toNat
  let dst := o.dst.toNat
  postBetween dst src .answer (answerKind o.kind x.1 x.2) o.pid (.timelineTick 0) (some (o.ch, o.rid)) (some x)
    (if src = s.ras.pkg.toNat then setOut dst o.ch (keepAnswer o.rid x (outStream s dst o.ch)) s
     else setInn src o.ch (keepAnswer o.rid x (innStream s src o.ch)) s)

/-- The step in which a transfer goes on: by its mode, an element, a WALK step, or a row, a move or the end. -/
def transferEvent (t : Transfer) : Instr :=
  let mode := field t.snap[6] 0 4
  if mode = 1 ∧ !t.adding then .reduceElementUpdate t.id
  else if mode = 3 then .walkStepDone t.id
  else .transferComplete t.id

/-- An answer reaches a transfer: a gate that has opened, bytes that it has read, a write, an update or an add that has
been performed, or the result of a move. -/
def answerTransfer (id : Nat) (r : Response) (s : State) : State :=
  match s.transfers.find? fun t => t.id == id with
  | none => s
  | some t =>
    let set (t' : Transfer) : State := { s with transfers := updateFirst (fun u => u.id == id) (fun _ => t') s.transfers }
    match r with
    | .failed d _ => postOwn (.transferFailure id d) s
    | .damaged _ _ _ => postOwn (.transferFailure id dMemoryUncorrectable) s
    | .bytes b => postOwn (transferEvent t) (set { t with buf := t.buf ++ b, busy := false })
    | .value v =>
      if t.st = .gated then postOwn (.walkGateOpens id) s
      else
        let moving := t.reply.isSome || field t.snap[6] 0 4 == 4
        postOwn (transferEvent t)
          (set { t with busy := false, buf := if moving && !t.adding then wordToBytes 8 v else t.buf })

/-- Answers a request (R253, R269): the answer goes where the request said. -/
def reply (rto : ReplyTo) (r : Response) (s : State) : State :=
  match rto with
  | .none => s
  | .job id part => postOwn (.producerCompletion id part r) s
  | .hart => postOwn (.counterResponseArrival r) s
  | .transfer id => answerTransfer id r s
  | .collective cl pid colid =>
    match r with
    | .failed d _ => failColl cl pid colid d s
    | .value _ | .bytes _ | .damaged _ _ _ => postOwn (.collectiveFire cl pid colid) s
  | .arm core => postOwn (.armFiringArrives (.arm core)) s
  | .hostArm slot => postOwn (.armFiringArrives (.hostArm slot)) s
  | .host tag =>
    let a : HostAnswer :=
      match r with
      | .value v => .data (wordToBytes 8 v)
      | .bytes b => .data b
      | .damaged _ _ _ | .failed _ _ => .unsupported
    { s with host := { s.host with answers := s.host.answers ++ [(tag, a)] } }
  | .drain id => postOwn (.producerCompletion id 0 r) s
  | .over o inner => answerPacket o (inner, r) s

/-- The packages of a waiter or an arm: the counter's, and the one that is woken. -/
def wokenPkg (s : State) : ReplyTo → Nat
  | .over o _ => o.src.toNat
  | .arm core => pkgOfCore s core
  | .none | .job _ _ | .hart | .transfer _ | .collective _ _ _ | .hostArm _ | .host _ | .drain _ => s.ras.pkg.toNat

/-- Wakes a waiter, or fires an arm, of a counter of package `pkg` for a job: across packages as a WAKE on channel 2 (R276,
R405). -/
def wakeUp (pkg : Nat) (pid : Pid) (rto : ReplyTo) (r : Response) (s : State) : State :=
  let to_ := wokenPkg s rto
  if to_ = pkg then reply (replyBase rto) r s
  else postBetween pkg to_ .message 18 pid (.timelineTick 0) none (some ((replyBase rto), r)) s

/-- A request that needs no value back is acknowledged. -/
def acknowledge (rto : ReplyTo) (s : State) : State :=
  match rto with
  | .over o _ => reply (.over o .none) (.value 0) s
  | .none | .hart | .job _ _ | .transfer _ | .collective _ _ _ | .arm _ | .hostArm _ | .host _ | .drain _ => s

/-- A packet that its destination does not answer, because it is lost: what its issuer sees (R413). -/
def failOutbound (ev : Instr) (d : Detail) (pkg : Nat) (s : State) : State :=
  match ev with
  | .homeCarm _ _ _ rto armFor => reply rto (.failed d (BitVec.ofNat 12 pkg)) (armEnds armFor s)
  | ev => reply (replyToOf ev) (.failed d (BitVec.ofNat 12 pkg)) s

/-- Hands a step to an agent of a package: as it is within the package of the current step, and as a packet of its stream
between this package and another (R405, R408). -/
def postTo (pkg : Nat) (ch : Channel) (ev : Instr) (s : State) : State :=
  let here := herePkg s
  if pkg = here then post ev s
  else if here = s.ras.pkg.toNat then
    if reachable s pkg then postOut pkg ch (packetKind ev) (packetPid s ev) ev none none s
    else failOutbound ev dLostPeer pkg s
  else if pkg = s.ras.pkg.toNat then postIn here ch (packetKind ev) (packetPid s ev) ev none none s
  else enter { ev := ev, via := none, place := placeOf s pkg } s

/-- Hands a step to the agent of its package. -/
def sendEffect (e : Effect) (s : State) : State := postTo e.pkg e.ch e.ev s

def sendAll (es : List Effect) (s : State) : State := es.foldl (fun t e => sendEffect e t) s

end Sys2Proof.Machine
end

