-- ==== Sys2Proof/Machine/Regs.lean ====
section
/-!
DEFINITION. Registers and their states (R43 to R48): reading, writing, marking EMPTY and FAULTED.
-/
namespace Sys2Proof.Machine

/-! ## Registers -/

def getX (s : State) (n : Nat) : XReg := if n = 0 then Reg.zero 64 else s.hart.x.getD n (Reg.zero 64)
def getV (s : State) (n : Nat) : VReg := s.hart.v.getD n (Reg.zero 512)
def getM (s : State) (n : Nat) : MReg := s.hart.m.getD n (Reg.zero 65536)

/-- The value of an x register: x0 reads as zero (R43). -/
def xval (s : State) (r : RegIdx) : Word := (getX s r.toNat).val

def putX (n : Nat) (r : XReg) (s : State) : State :=
  if n = 0 then s else { s with hart := { s.hart with x := s.hart.x.setIfInBounds n r } }
def putV (n : Nat) (r : VReg) (s : State) : State :=
  { s with hart := { s.hart with v := s.hart.v.setIfInBounds n r } }
def putM (n : Nat) (r : MReg) (s : State) : State :=
  { s with hart := { s.hart with m := s.hart.m.setIfInBounds n r } }

/-- Writes an x register FULL; a write to x0 is discarded (R43, R44). -/
def writeX (n : Nat) (v : Word) (s : State) : State := putX n { val := v, st := .full } s

def setX (r : RegIdx) (v : Word) (s : State) : State := writeX r.toNat v s

def writeV (n : Nat) (v : BitVec 512) (s : State) : State := putV n { val := v, st := .full } s

def writeM (n : Nat) (v : BitVec 65536) (s : State) : State := putM n { val := v, st := .full } s

def regState (s : State) : RegName → RegState
  | .x n => (getX s n).st
  | .v n => (getV s n).st
  | .m n => (getM s n).st

def setRegState (r : RegName) (st : RegState) (s : State) : State :=
  match r with
  | .x n => putX n { getX s n with st := st } s
  | .v n => putV n { getV s n with st := st } s
  | .m n => putM n { getM s n with st := st } s

def RegState.isEmpty : RegState → Bool
  | .empty _ => true
  | .full | .faulted _ _ => false

def RegState.isFaulted : RegState → Bool
  | .faulted _ _ => true
  | .full | .empty _ => false

/-- RegId (R53). -/
def regId : RegName → Word
  | .x n => place n 0
  | .v n => place (32 + n) 0
  | .m n => place (64 + n) 0

def vGroup (base count : Nat) : List RegName := (List.range count).map fun i => .v (base + i)
def mGroup (base count : Nat) : List RegName := (List.range count).map fun i => .m (base + i)

def Dest.regs : Dest → List RegName
  | .nothing => []
  | .x n => if n = 0 then [] else [.x n]
  | .v base count => vGroup base count
  | .m base count => mGroup base count

/-- SetEmpty (R53): every register EMPTY, with the producer's PC. -/
def setEmpty (d : Dest) (pc : Word) (s : State) : State :=
  d.regs.foldl (fun t r => setRegState r (.empty pc) t) s

/-- Fail (R53): every register FAULTED with the PC recorded and the detail. -/
def failDest (d : Dest) (pc info : Word) (s : State) : State :=
  d.regs.foldl (fun t r => setRegState r (.faulted pc info) t) s

/-- The vector group as one number, first register lowest (R134). -/
def groupValue (s : State) (base : Nat) : Nat → Nat
  | 0 => 0
  | n + 1 => (getV s base).val.toNat + 2 ^ 512 * groupValue s (base + 1) n

/-- Writes a vector group FULL from one number. -/
def writeGroup (base : Nat) : Nat → Nat → State → State
  | 0, _, s => s
  | n + 1, v, s => writeGroup (base + 1) n (v / 2 ^ 512) (writeV base (BitVec.ofNat 512 v) s)

/-- A tile group as one number, first register lowest (R174). -/
def tileValue (s : State) (base : Nat) : Nat → Nat
  | 0 => 0
  | n + 1 => (getM s base).val.toNat + 2 ^ 65536 * tileValue s (base + 1) n

def writeTile (base : Nat) : Nat → Nat → State → State
  | 0, _, s => s
  | n + 1, v, s => writeTile (base + 1) n (v / 2 ^ 65536) (writeM base (BitVec.ofNat 65536 v) s)

/-- Complete (R53) for a destination whose value is a number. -/
def completeDest (d : Dest) (v : Nat) (s : State) : State :=
  match d with
  | .nothing => s
  | .x n => writeX n (BitVec.ofNat 64 v) s
  | .v base count => writeGroup base count v s
  | .m base count => writeTile base count v s

/-- The dfinfo word (R106). -/
def dfinfoWord (pkg core index : Nat) (cls : BitVec 8) (d : Detail) : Word :=
  place (pkg % 4096) 52 ||| place (core % 4096) 40 ||| place (index % 4096) 28 ||| place cls.toNat 16 ||| place d.toNat 0

/-- The next free value of the model's own counter (assumption 3). -/
def freshFree (s : State) : Word × State :=
  (Config.freeWord s.sched.free, { s with sched := { s.sched with free := s.sched.free + 1 } })

end Sys2Proof.Machine
end

