-- ==== Sys2Proof/Machine/OffCore.lean ====
section
/-!
DEFINITION. Off-core operations: the limits of R49 and R119, requests and their answers, the drain queue (R116 to
R118, R165), releases (R221), and what a later access waits for (R220, R226, R227).
-/
namespace Sys2Proof.Machine

/-! ## Accounting (R119) -/

def drainStores (s : State) : List StoreEntry :=
  s.off.drain.filterMap fun | .store e => some e | .release _ _ | .trapx _ _ _ | .atomic _ _ | .sent _ _ => none

/-- Requests outstanding; a part that reserves no slot is no request. -/
def issuedParts (s : State) : Nat :=
  (s.off.jobs.map fun j => (j.issued.filter fun p => p.slots != 0).length).foldl (· + ·) 0

/-- The operation, and the slot, of a `cfree` or `carm` whose response is out. -/
def responseOut (s : State) : Nat := if s.hart.wait = .response ∧ s.hart.answer = .none then 1 else 0

/-- outreq.OPS: requests outstanding and off-core store entries. -/
def opsUsed (s : State) : Nat := issuedParts s + ((drainStores s).filter fun e => !e.scratch).length + responseOut s

/-- outreq.SLOTS. -/
def slotsUsed (s : State) : Nat :=
  (s.off.jobs.map fun j => (j.issued.map fun p => p.slots).foldl (· + ·) 0).foldl (· + ·) 0 + responseOut s

def drainCount (s : State) : Nat := (drainStores s).length

/-- Whether a new request finds an operation and a slot, and no earlier load still has requests to issue (R120). -/
def canIssue (s : State) : Bool :=
  decide (opsUsed s < 64) && decide (slotsUsed s < 32) && s.off.jobs.all fun j => j.waiting.isEmpty

/-! ## The strand buffer (R214 to R216) -/

def strandTag (pid : Pid) (va : Word) : Nat := pid.toNat * 2 ^ 50 + va.toNat / 128

/-- An acquire invalidates every line; fills in flight are not installed (R216, R220). -/
def invalidateStrand (s : State) : State :=
  { s with stn := { s.stn with strand := [] }, off := { s.off with epoch := s.off.epoch + 1 } }

/-- A line is invalidated: it leaves the buffer, and a fill of it in flight is not installed (R216). -/
def dropLine (tag : Nat) (s : State) : State :=
  let keep (p : Part) : Part := if p.fill.any fun f => f.1 == tag then { p with fill := none } else p
  { s with
    stn := { s.stn with strand := Tab.drop s.stn.strand tag }
    off := { s.off with jobs := s.off.jobs.map fun j => { j with issued := j.issued.map keep } } }

/-- Overwrites bytes of a list from a position. -/
def patch (l : List Byte) (pos : Nat) (b : List Byte) : List Byte :=
  l.take pos ++ b ++ l.drop (pos + b.length)

/-- A store by a hart of the cluster updates a matching line when it is performed (R215). -/
def updateLine (pid : Pid) (va : Word) (b : List Byte) (s : State) : State :=
  match Tab.find? s.stn.strand (strandTag pid va) with
  | none => s
  | some line =>
    { s with stn := { s.stn with
        strand := Tab.put s.stn.strand (strandTag pid va) ((patch line (va.toNat % 128) b).take 128) } }

/-! ## The drain queue -/

/-- The contiguous runs of an entry's bytes. -/
def runsOf : List (Nat × Byte) → List (Nat × List Byte)
  | [] => []
  | (o, b) :: rest =>
    match runsOf rest with
    | (o', bs) :: more => if o' = o + 1 then (o, b :: bs) :: more else (o, [b]) :: (o', bs) :: more
    | [] => [(o, [b])]

def writeRuns (key : Nat) (runs : List (Nat × List Byte)) (s : State) : State :=
  runs.foldl (fun t (o, b) => writeKey t (key + o) b) s

/-- Whether a home answers an access to it, or the detail of its failure (R412, R413, R422). -/
def homeAnswers (s : State) (x : Xlat) : Option Detail :=
  if x.aperture = 2 then (if s.host.up then none else some dHostLink)
  else if x.aperture = 1 then
    if !reachable s x.pkg then some dLostPeer
    else if !(peerOf s x.pkg).grants.getLsbD 0 then some dPagePermission
    else none
  else none

/-- What becomes of a store entry that is tried: performed, its next run in flight to a peer as a WRITE under the key
(R405), or failed with a detail and a package (R116). The state holds what the station has done (R235). -/
inductive StoreTry where
  | done (s : State)
  | sent (key : Nat) (s : State)
  | failed (d : Detail) (pkg : Nat) (s : State)

/-- A store that has been performed updates matching lines of the strand buffer (R215). -/
def updateLines (e : StoreEntry) (runs : List (Nat × List Byte)) (s : State) : State :=
  runs.foldl (fun t (o, b) => updateLine e.pid (e.addr + BitVec.ofNat 64 o) b t) s

/-- Performs a store entry at its home (R213, R215, R224), or sends it there. -/
def performStore (e : StoreEntry) (s : State) : StoreTry :=
  let runs := runsOf e.bytes
  if e.lost then .failed dMemoryUncorrectable s.ras.pkg.toNat s
  else if e.scratch then .done (writeRuns (localKey s e.addr.toNat) runs s)
  else
    match translate s (stationOf (ownCore s)) e.pid e.addr .store with
    | (s1, .error (d, pkg)) => .failed d pkg.toNat s1
    | (s1, .ok x) =>
      if x.aperture = 1 then
        if !reachable s1 x.pkg then .failed dLostPeer x.pkg s1
        else
          match runs with
          | [] => .done s1
          | (o, b) :: _ => .sent x.key (postTo x.pkg .request (.homeWrite (x.key + o) b (.drain e.id)) s1)
      else
        match homeAnswers s1 x with
        | some d => .failed d x.pkg s1
        | none =>
          let s2 := writeRuns x.key runs s1
          if runs.any fun (o, b) => inDeadChannel s1 (x.key + o) b.length then .failed dMemoryUncorrectable x.pkg s2
          else .done (updateLines e runs s2)

/-- The dfinfo value of a failed entry (R116, R165). -/
def storeInfo (e : StoreEntry) (d : Detail) (pkg : Nat) : Word := dfinfoWord pkg 0 e.elem 1 d

/-- The flag of `trapx` for its actor (R321). -/
def setTrapExits (name : Word) (on : Bool) (s : State) : State :=
  updateActor (actorIx s name) (fun b => { b with trapExits := on }) s

/-- The stores of the queue are discarded, and none is held; what waits behind them is not a store and goes on (R102 step
4, R118). -/
def discardStores (s : State) : State :=
  { s with
    sup := { s.sup with dheld := false }
    off := { s.off with drain := s.off.drain.filter fun
      | .store _ => false
      | .release _ _ | .trapx _ _ _ | .atomic _ _ | .sent _ _ => true } }

/-- Where an entry's bytes lie, if its address translates now. -/
def entryKey (s : State) (e : StoreEntry) : Option Nat :=
  if e.scratch then some (localKey s e.addr.toNat)
  else (peekKey s e.pid e.addr .store).map (·.key)

/-- Where a load of the hart finds an entry's bytes: also on a page that the store may not write (R225). -/
def entryPlace (s : State) (e : StoreEntry) : Option Nat :=
  (entryKey s e).orElse fun _ => (peekKey s e.pid e.addr .load).map (·.key)

/-- The bytes of an entry that no home has: all but those of a WRITE that a peer has performed. -/
def bytesLeft (e : StoreEntry) : List (Nat × Byte) :=
  if e.landed then (match runsOf e.bytes with | run :: _ => e.bytes.drop run.2.length | [] => e.bytes) else e.bytes

/-- The hart's own bytes for a range of locations, of the entries issued before number `before`, latest last (R213,
R225). -/
def ownBytes (s : State) (before key len : Nat) : List (Nat × Byte) :=
  ((drainStores s).filter fun e => decide (e.id < before)).flatMap fun e =>
    match entryPlace s e with
    | none => []
    | some k => (bytesLeft e).filterMap fun (o, b) =>
        if key ≤ k + o ∧ k + o < key + len then some (k + o - key, b) else none

def applyOwn (own : List (Nat × Byte)) (b : List Byte) : List Byte :=
  own.foldl (fun acc (o, v) => setAt acc o v) b

/-- Bytes of this core's scratchpad as the hart's own load returns them (R213). -/
def readLocal (s : State) (addr len : Nat) : List Byte :=
  applyOwn (ownBytes s s.off.nextId (localKey s addr) len) (readKey s (localKey s addr) len)

/-! ## What a later access waits for -/

/-- An acquire that has not completed (R220). -/
def acquirePending (s : State) : Bool := s.off.jobs.any fun j => j.aq

/-- An access to an ORD page that has not completed, one that has not issued yet among them (R227). -/
def ordPending (s : State) : Bool :=
  (s.off.jobs.any fun j => j.ord || j.waiting.any fun p => classOf p.va == .translated && peekOrd s p.pid p.va .load)
    || (drainStores s).any fun e => !e.scratch && peekOrd s e.pid e.addr .store

/-- Whether a memory or counter access of the hart may issue now (R220, R227). -/
def accessBlocked (s : State) : Bool := acquirePending s || ordPending s

/-- Outstanding atomics' locations: a later load of an overlapping aligned 8-byte word waits (R226). -/
def atomicOverlap (s : State) (key len : Nat) : Bool :=
  s.off.jobs.any fun j => j.atomic && j.issued.any fun p =>
    match p.key with
    | some (k, _) => overlaps (k / 8 * 8) 8 key len
    | none => false

/-- Every earlier load and atomic has completed or failed (R220): the jobs other than cwait, cwaitt and lease. -/
def loadsOutstanding (s : State) : Bool :=
  s.off.jobs.any fun j => j.wait.isNone && (j.atomic || j.cls.toNat == 0 || j.cls.toNat == 2 || j.cls.toNat == 4
    || j.cls.toNat == 5 || j.cls.toNat == 6)

def atomicsOutstanding (s : State) : Bool := s.off.jobs.any fun j => j.atomic

/-- The bounded producers still out (R119). -/
def boundedOutstanding (s : State) : Bool := s.off.jobs.any fun j => j.wait.isNone

/-- Earlier stores and atomics have all been performed (R221). -/
def writesOutstanding (s : State) : Bool := !s.off.drain.isEmpty || atomicsOutstanding s

/-- Whether a step is a release whose effect lies behind its sending (R221): one that is answered, or a record on its way
to the mailbox agent. A kill, link or monitor request has taken effect when it is sent. -/
def effectLater (ev : Instr) : Bool :=
  match replyToOf ev with
  | .job _ _ => true
  | .none | .hart | .transfer _ | .collective _ _ _ | .arm _ | .hostArm _ | .host _ | .drain _ | .over _ _ =>
    match ev with
    | .recordAdmit _ => true
    | _ => false

/-- Whether the request of a wait has not come to its waiter table yet. -/
def waitOnItsWay (s : State) (id : Nat) : Bool :=
  s.sched.agenda.any fun e => match e.ev with
    | .homeCwait _ _ _ r | .waiterRetry _ _ _ r => replyKey s r == (s.ras.pkg.toNat, .job id 0)
    | _ => false

/-- Whether a release that has been sent has not taken effect yet (R221): a producer has not been answered, a wait is not
registered, or a record is not with its mailbox agent. -/
def effectPending (s : State) (ev : Instr) : Bool :=
  match replyToOf ev with
  | .job id _ => (s.off.jobs.find? fun j => j.id == id).any fun j => j.wait.isNone || waitOnItsWay s id
  | .none | .hart | .transfer _ | .collective _ _ _ | .arm _ | .hostArm _ | .host _ | .drain _ | .over _ _ =>
    effectLater ev && s.sched.agenda.any fun e => e.ev == ev

/-- Later stores wait for the effects of a release that has been sent (R221). -/
def awaitEffects (id : Nat) (es : List Effect) (s : State) : State :=
  if es.any fun e => effectLater e.ev then { s with off := { s.off with drain := .sent id es :: s.off.drain } } else s

/-- A release (R221), taken before the job that it belongs to starts: it is sent at once when nothing is outstanding, and
otherwise waits behind the drain queue. -/
def release (es : List Effect) (s : State) : State :=
  if writesOutstanding s then
    { s with off := { s.off with drain := s.off.drain ++ [.release s.off.nextId es] } }
  else awaitEffects s.off.nextId es (sendAll es s)

/-- An atomic without release, which no earlier store of the hart waits for any more, is performed after the hart's
earlier atomics and releases (R224, assumption 22). -/
def afterWrites (e : Effect) (s : State) : State :=
  if writesOutstanding s then
    { s with off := { s.off with drain := s.off.drain ++ [.atomic s.off.nextId e] } }
  else sendEffect e s

/-! ## Requests -/

def updateJob (id : Nat) (f : Job → Job) (s : State) : State :=
  { s with off := { s.off with jobs := updateFirst (fun j => j.id == id) f s.off.jobs } }

def dropJob (id : Nat) (s : State) : State :=
  { s with off := { s.off with jobs := s.off.jobs.filter fun j => j.id != id } }

/-- The cores of a group (R279): the first one and their number. -/
def groupCores (ea : Word) : Nat × Nat :=
  let inst := field ea 41 8
  if field ea 49 3 = 1 then (16 * inst, 16) else if field ea 49 3 = 2 then (512 * inst, 512) else (0, 4096)

/-- The members that a group load reads: all of the group, or the picked one (R287, R291). -/
def groupMembers (ea : Word) : List Nat :=
  if field ea 37 4 = 9 then [field ea 29 4] else List.range (groupCores ea).2

/-- The place of this core's own clearing that a group request reads, if the group has this member with an actor in the
slot: the location key of its first byte (R284). -/
def ownClearing (s : State) (p : Part) : Option Nat :=
  let a := actorAt s (slotIndex (ownCore s) (field p.va 19 10))
  if (groupMembers p.va).any (fun m => (groupCores p.va).1 + m == ownCore s) then
    some (localKey s (a.sbase + a.snap.clrOff + field p.va 0 19))
  else none

/-- Whether this core's own member has still to read its clearing for a group request (R292). -/
def ownUnread (s : State) (p : Part) : Bool := !p.leaves.any fun x => (groupCores p.va).1 + x.1 == ownCore s

/-- Issues a request to group space: every member is asked (R292). -/
def issueGroup (id : Nat) (p : Part) (s : State) : State :=
  postAll ((groupMembers p.va).map fun m => .groupMemberRead id p.no m)
    (updateJob id (fun j => { j with issued := j.issued ++ [p] }) s)

/-- Whether a read that waits for the host was issued 450 µs ago (R422). -/
def hostReadLate (s : State) (rto : ReplyTo) : Bool :=
  match rto with
  | .job id part =>
    s.off.jobs.any fun j => j.id == id && j.issued.any fun p =>
      p.no == part && decide (p.since.toNat + 450000 ≤ s.ctr.timeline.toNat)
  | .none | .hart | .transfer _ | .collective _ _ _ | .arm _ | .hostArm _ | .host _ | .drain _ | .over _ _ => false

/-- Whether a step is a read of host memory for one of the answers. -/
def hostReadOf (p : ReplyTo → Bool) : Instr → Bool
  | .homeRead key _ r => decide (hostBase ≤ key) && decide (key < ownBase) && p r
  | _ => false

/-- Issues one translated load request (R210, R215): translated now, served from the strand buffer or sent to its
home. -/
def issueTranslated (id : Nat) (p : Part) (s : State) : State :=
  match translate s (stationOf (ownCore s)) p.pid p.va .load with
  | (s1, .error (d, pkg)) =>
    reply (.job id p.no) (.failed d pkg) (updateJob id (fun j => { j with issued := j.issued ++ [p] }) s1)
  | (s1, .ok x) =>
    let bypass := leafOrd x.leaf || leafNrb x.leaf || x.aperture == 2
    let tag := strandTag p.pid p.va
    let p' : Part :=
      { p with key := some (x.key, p.len), since := s1.ctr.timeline, fill := if bypass then none else some (tag, s1.off.epoch) }
    let s2 := updateJob id (fun j => { j with issued := j.issued ++ [p'], ord := j.ord || leafOrd x.leaf }) s1
    if x.aperture = 2 ∧ !s2.host.up then reply (.job id p.no) (.failed dHostLink (BitVec.ofNat 12 x.pkg)) s2
    else
      match (if bypass then none else Tab.find? s2.stn.strand tag) with
      | some line =>
        let b := (line.drop (p.va.toNat % 128)).take p.len
        reply (.job id p.no) (.bytes (applyOwn (ownBytes s2 id x.key p.len) b)) s2
      | none => postTo x.pkg .request (.homeRead x.key p.len (.job id p.no)) s2

/-- Issues one request. -/
def issueLoad (id : Nat) (p : Part) (s : State) : State :=
  if classOf p.va = .group then issueGroup id p s else issueTranslated id p s

/-- Issues waiting requests in order while an operation and a slot are free (R120). -/
def pump : Nat → State → State
  | 0, s => s
  | n + 1, s =>
    match s.off.jobs.find? fun j => !j.waiting.isEmpty with
    | none => s
    | some j =>
      match j.waiting with
      | [] => s
      | p :: rest =>
        if opsUsed s < 64 ∧ slotsUsed s + p.slots ≤ 32 then
          pump n (issueLoad j.id p (updateJob j.id (fun k => { k with waiting := rest }) s))
        else s

/-- A new off-core operation with its destination marked EMPTY (R44, R47). With destination x0 the hart waits for it
before the instruction at `next` (R48). -/
def startJob (j : Job) (next : Word) (s : State) : State :=
  let s1 := setEmpty j.dest j.pc s
  let s2 := { s1 with off := { s1.off with jobs := s1.off.jobs ++ [j], nextId := s1.off.nextId + 1 } }
  match j.dest with
  | .x 0 => { s2 with hart := { s2.hart with
                x0 := s2.hart.x0 ++ [{ job := j.id, pc := j.pc, next := next, atReturn := false, failed := none }] } }
  | .nothing | .x _ | .v _ _ | .m _ _ => s2

/-- A request for `len` bytes at an address. -/
def mkPart (no : Nat) (va : Word) (pid : Pid) (len : Nat) (pieces : List Piece) : Part :=
  { no := no, va := va, pid := pid, len := len, pieces := pieces, fill := none, key := none, slots := 1
    leaves := [] }

/-- A part of an operation that reads no memory, such as a counter operation. -/
def plainPart (no : Nat) : Part := mkPart no 0 0 0 []

/-- A new operation that reads memory, with its requests waiting to issue. -/
def loadJob (s : State) (dest : Dest) (cls : BitVec 8) (f : Finish) (image : List Byte) (parts : List Part) : Job :=
  { id := s.off.nextId, dest := dest, pc := s.hart.pc, cls := cls, finish := f, waiting := parts, issued := []
    image := image, failure := none, aq := false, ord := false, atomic := false, wait := none }

/-- A job with one request that is issued at once. -/
def simpleJob (s : State) (dest : Dest) (cls : BitVec 8) (aq : Bool) : Job :=
  { id := s.off.nextId, dest := dest, pc := s.hart.pc, cls := cls, finish := .value, waiting := []
    issued := [plainPart 0], image := [], failure := none, aq := aq, ord := false, atomic := false, wait := none }

/-! ## Completion (R44, R115, R119) -/

/-- Places the pieces of an answer into the image. -/
def gather (image : List Byte) (pieces : List Piece) (b : List Byte) : List Byte :=
  pieces.foldl (fun img p => patch img p.dst ((b.drop p.src).take p.len)) image

/-- The value that a completed operation writes. -/
def finishValue (f : Finish) (image : List Byte) : Nat :=
  match f with
  | .scalar n signed => if signed then (signedOf n (natOf (image.take n))).toNat else natOf (image.take n)
  | .atomic n => (signedOf n (natOf (image.take n))).toNat
  | .value => natOf (image.take 8)
  | .image => natOf image
  | .group n signed skip =>
    if skip then natOf (image.take 4) % 2 ^ (8 * n) + 2 ^ 32 * natOf ((image.drop 4).take 4)
    else if signed then (signedOf n (natOf (image.take n))).toNat else natOf (image.take n)

/-- The flags that a floating-point atomic's answer carries above its 32 bits (R416). -/
def finishFlags (f : Finish) (image : List Byte) : BitVec 5 :=
  match f with
  | .atomic 4 => BitVec.ofNat 5 (natOf ((image.drop 4).take 1))
  | .atomic _ | .scalar _ _ | .value | .image | .group _ _ _ => 0

/-- Installs the line of a completed request, unless an invalidation intervened (R216). -/
def fillLine (p : Part) (s : State) : State :=
  match p.fill, p.key with
  | some (tag, epoch), some (key, _) =>
    let lineKey := key / 128 * 128
    if epoch = s.off.epoch ∧ !poisoned s lineKey 128 ∧ (Tab.find? s.stn.strand tag).isNone ∧ s.stn.strand.length < 2048
    then { s with stn := { s.stn with strand := Tab.put s.stn.strand tag (readKey s lineKey 128) } }
    else s
  | _, _ => s

/-- A failure: element, detail, package and core. -/
abbrev Failed := Nat × BitVec 16 × BitVec 12 × BitVec 12

/-- Whether a failure is reported rather than another: the lower element, and for a group load the lower core before
it (R163, R290). -/
def reportsBefore (group : Bool) (a b : Failed) : Bool :=
  if group && a.2.2.2 != b.2.2.2 then decide (a.2.2.2.toNat < b.2.2.2.toNat) else decide (a.1 ≤ b.1)

def lowerFailure (group : Bool) (a : Option Failed) (b : Failed) : Option Failed :=
  match a with
  | none => some b
  | some x => if reportsBefore group x b then some x else some b

/-- The end of an operation: its destination becomes FULL or FAULTED, an acquire invalidates the strand buffer, and
a failed producer with destination x0 is remembered for R48. -/
def finishJob (j : Job) (s : State) : State :=
  let s1 := dropJob j.id s
  let s2 := if j.aq then invalidateStrand s1 else s1
  match j.failure with
  | some (elem, d, pkg, core) =>
    let info := dfinfoWord pkg.toNat core.toNat elem j.cls d
    let s3 := failDest j.dest j.pc info s2
    { s3 with hart := { s3.hart with
        x0 := s3.hart.x0.map fun w => if w.job = j.id then { w with failed := some info } else w } }
  | none =>
    let s3 := completeDest j.dest (finishValue j.finish j.image) s2
    { s3 with
      user := { s3.user with vflags := s3.user.vflags ||| finishFlags j.finish j.image }
      hart := { s3.hart with x0 := s3.hart.x0.filter fun w => w.job != j.id } }

/-- The lowest of some elements. -/
def lowestElem (ps : List Piece) : Option Nat :=
  match ps with
  | [] => none
  | q :: rest => some (rest.foldl (fun m r => min m r.elem) q.elem)

/-- The element that a failed request reports (R163, R198). -/
def partElem (p : Part) : Nat := (lowestElem p.pieces).getD 0

/-- The lowest element of a request with a byte that could not be read. -/
def badElem (p : Part) (bad : List Nat) : Option Nat :=
  lowestElem (p.pieces.filter fun q => bad.any fun o => decide (q.src ≤ o) && decide (o < q.src + q.len))

/-- A job with one of its answers taken (R44, R163). -/
def takeAnswer (core : BitVec 12) (p : Part) (r : Response) (j : Job) : Job :=
  let left := j.issued.filter fun q => q.no != p.no
  let group := j.cls.toNat == 5
  match r with
  | .failed d pkg => { j with issued := left, failure := lowerFailure group j.failure (partElem p, d, pkg, core) }
  | .value v => { j with issued := left, image := wordToBytes 8 v }
  | .bytes b => { j with issued := left, image := gather j.image p.pieces b }
  | .damaged b bad pkg =>
    match badElem p bad with
    | some i => { j with issued := left, failure := lowerFailure group j.failure (i, dMemoryUncorrectable, pkg, core) }
    | none => { j with issued := left, image := gather j.image p.pieces b }

/-- One answer to a request of an outstanding operation (R119), with the core that a failure names (R106). An answer
that nothing waits for is discarded. -/
def completeFrom (core : BitVec 12) (id no : Nat) (r : Response) (s : State) : State :=
  match s.off.jobs.find? (fun j => j.id == id) with
  | none => s
  | some j =>
    match j.issued.find? (fun p => p.no == no) with
    | none => s
    | some p =>
      let j' := takeAnswer core p r j
      let s1 := updateJob id (fun _ => j') s
      let s2 := match r with
        | .bytes _ => fillLine p s1
        | .value _ | .failed _ _ | .damaged _ _ _ => if j.atomic then dropLine (strandTag p.pid p.va) s1 else s1
      if j'.issued.isEmpty ∧ j'.waiting.isEmpty then pump 64 (finishJob j' s2) else pump 64 s2

def completePart (id no : Nat) (r : Response) (s : State) : State := completeFrom 0 id no r s

/-! ## The two events of the drain queue -/

/-- Whether an operation still reads bytes of this core's clearing that lie in a range of its scratchpad (R225, R292): of the
actor that is in the slot now, as long as this core's own member has not read. -/
def readsLocal (s : State) (key len : Nat) (j : Job) : Bool :=
  (j.issued ++ j.waiting).any fun p =>
    classOf p.va == .group && ownUnread s p && (ownClearing s p).any fun k => overlaps k p.len key len

/-- Whether an earlier load still reads a location that an entry writes (R225). -/
def readsEntry (s : State) (e : StoreEntry) (j : Job) : Bool :=
  match entryKey s e with
  | none => !j.waiting.isEmpty
  | some ek =>
    if e.scratch then e.bytes.any fun b => readsLocal s (ek + b.1) 1 j
    else !j.waiting.isEmpty || j.issued.any fun p => p.key.any fun k => overlaps k.1 k.2 ek 64

/-- Whether the head of the drain queue can move: no failed store is held, the hart's earlier atomics are done (R224), no
earlier load still reads a location that the store writes (R225), and it is not in flight. -/
def drainReady (s : State) : Bool :=
  !s.sup.dheld &&
  match s.off.drain with
  | [] => false
  | .store e :: _ =>
    e.out.isNone && s.off.jobs.all fun j => decide (e.id < j.id) || (!j.atomic && !readsEntry s e j)
  | .release id _ :: _ | .trapx id _ _ :: _ | .atomic id _ :: _ =>
    s.off.jobs.all fun j => !j.atomic || decide (id ≤ j.id)
  | .sent _ es :: _ => es.all fun e => !effectPending s e.ev

/-- The store at the head of the queue has failed: it is held, with those behind it (R116); of a run that has ended, it and
every store behind it are discarded without report (R102 step 4). -/
def holdStore (e : StoreEntry) (d : Detail) (pkg : Nat) (s : State) : State :=
  match s.hart.wait with
  | .runEnd _ => pump 64 (discardStores s)
  | .none | .source _ | .dest _ | .issue _ _ | .csr _ | .response | .registration | .wfi =>
    let items := match s.off.drain with
      | .store f :: rest => .store { f with out := none, landed := false } :: rest
      | items => items
    { s with sup := { s.sup with dheld := true }, off := { s.off with heldInfo := storeInfo e d pkg, drain := items } }

/-- The store at the head of the drain queue is performed, is sent, or fails and is held (R116). -/
def drainStore (s : State) : State :=
  if drainReady s then
    match s.off.drain with
    | .store e :: rest =>
      match performStore e s with
      | .done s1 => pump 64 { s1 with off := { s1.off with drain := rest } }
      | .sent key s1 => { s1 with off := { s1.off with drain := .store { e with out := some key } :: rest } }
      | .failed d pkg s1 => holdStore e d pkg s1
    | .release _ _ :: _ | .trapx _ _ _ :: _ | .atomic _ _ :: _ | .sent _ _ :: _ | [] => s
  else s

/-- The WRITE of the store at the head of the queue is performed at its peer: the bytes that it carried are updated in
matching lines (R215). -/
def storeLands (id : Nat) (s : State) : State :=
  match s.off.drain with
  | .store e :: rest =>
    if e.id = id ∧ e.out.isSome ∧ !e.landed then
      updateLines e ((runsOf e.bytes).take 1) { s with off := { s.off with drain := .store { e with landed := true } :: rest } }
    else s
  | _ => s

/-- A WRITE of the store at the head of the queue is answered: the run that it carried has been performed, or the entry
fails and is held (R116, R412, R413). -/
def drainAnswered (id : Nat) (r : Response) (s : State) : State :=
  match s.off.drain with
  | .store e :: rest =>
    match e.out, runsOf e.bytes with
    | some _, run :: more =>
      if e.id ≠ id then s
      else
        match r with
        | .failed d pkg => holdStore e d pkg.toNat s
        | .value _ | .bytes _ | .damaged _ _ _ =>
          let left := e.bytes.drop run.2.length
          let items := if more.isEmpty then rest else .store { e with out := none, landed := false, bytes := left } :: rest
          pump 64 { s with off := { s.off with drain := items } }
    | _, _ => s
  | _ => s

/-- The release or atomic at the head of the drain queue is sent, or has taken effect (R221, R224). -/
def drainRelease (s : State) : State :=
  if drainReady s then
    match s.off.drain with
    | .release id es :: rest => awaitEffects id es (sendAll es { s with off := { s.off with drain := rest } })
    | .trapx _ name on :: rest => setTrapExits name on { s with off := { s.off with drain := rest } }
    | .atomic _ e :: rest => sendEffect e { s with off := { s.off with drain := rest } }
    | .sent _ _ :: rest => { s with off := { s.off with drain := rest } }
    | .store _ :: _ | [] => s
  else s

end Sys2Proof.Machine
end

