-- ==== Sys2Proof/Machine/Life.lean ====
section
/-!
DEFINITION. Actors as every other part of the machine meets them: becoming RUNNABLE and entering EXITING (R306), the
end of a handler run (R102) and a death (R476).
-/
namespace Sys2Proof.Machine

/-- S-mode holds no handler run in the hart's context: it came from the dispatcher, or the context is SAVED (R56). -/
def managerIdle (s : State) : Bool := s.hart.priv == .supervisor && (s.act.name == 0 || s.hart.saved)

/-- An actor becomes RUNNABLE at the tail of its level (R306). -/
def enqueue (ix : Nat) (s : State) : State :=
  let s1 := updateActor ix (fun a => { a with st := .runnable, stamp := s.actors.stamp }) s
  { s1 with actors := { s1.actors with stamp := s1.actors.stamp + 1 } }

/-- The mailbox agent makes an actor RUNNABLE; interrupt 16 tells S-mode on this core when it holds no run (R56). -/
def makeRunnable (ix : Nat) (s : State) : State :=
  let s1 := enqueue ix s
  if ix / 1024 = ownCore s ∧ managerIdle s then setPending 16 s1 else s1

/-! ## Supervisor records (R389 to R391) -/

def findSup (s : State) (name : Word) : Option Sup := s.actors.sups.find? fun u => u.name == name

/-- The slot that a placement names with FIXED = 1, by table index (R390). -/
def fixedSlot (s : State) (p : Word) : Option Nat := if bit p 29 then some (actorIx s p) else none

/-- The package of an entry. -/
def entryPkg (s : State) (e : Entry) : Nat :=
  match e.place with
  | none => s.ras.pkg.toNat
  | some p => p.toNat

/-- Where a child is restarted: at STANDBY when PLACE's package cannot be reached, or PLACE has refused (R397). -/
def childPlace (s : State) (u : Sup) (c : Child) : Word :=
  if u.toStandby || !reachable s (namePkg c.place) then c.standby else c.place

/-- The slot that a restart request takes, where it is at that slot's package and names it (R306, R396). -/
def restartSlot (s : State) (e : Entry) : Option Nat :=
  match e.via, e.ev with
  | none, .childRestart sup i =>
    (findSup s sup).bind fun u => (u.children[i]?).bind fun c =>
      let p := childPlace s u c
      if namePkg p = entryPkg s e then fixedSlot s p else none
  | _, _ => none

/-! ### Link tables (R377) -/

/-- The core whose link table holds an owner's entries. -/
def ownerCore (s : State) (owner : Word) : Nat := coreIndex s (namePkg owner) (nameCore owner)

def tableFull (s : State) (owner : Word) : Bool :=
  decide (8192 ≤ (s.actors.links.filter fun l => ownerCore s l.owner == ownerCore s owner).length)

def hasEntry (s : State) (kind : LinkKind) (owner named : Word) : Bool :=
  s.actors.links.any fun l => l.kind == kind && l.owner == owner && l.named == named

def addEntry (kind : LinkKind) (owner named : Word) (s : State) : State :=
  if hasEntry s kind owner named then s
  else { s with actors := { s.actors with links := s.actors.links ++ [{ kind := kind, owner := owner, named := named }] } }

/-- An entry of a link table, or none where the table has no room for it. -/
def addIfRoom (kind : LinkKind) (owner named : Word) (s : State) : Option State :=
  if tableFull s owner && !hasEntry s kind owner named then none else some (addEntry kind owner named s)

/-- A child that cannot be linked to its supervisor is killed by the restart engine (R397). -/
def refuseChild (sup : Word) (pid : Pid) (i : Nat) (child : Word) (s : State) : State :=
  postTo (namePkg child) .message
    (.killRequest { target := child, reason := 0x0C, detail := place i 0, origin := child, cascade := false, pid := pid
                    jobOnly := false, near := sup }) s

/-- A child that has been installed at another package stays when its round is abandoned, and is linked to its supervisor
(R391, R396, R397). -/
def keepInstalled (u : Sup) (s : State) : State :=
  match u.request, u.todo with
  | .answered (.done n), i :: _ => (addIfRoom .link u.name n s).getD (refuseChild u.name u.pid i n s)
  | _, _ => s

/-- A supervisor record becomes FREE; the slot that its round held RESTARTING is FREE again. -/
def dropSup (name : Word) (s : State) : State :=
  match findSup s name with
  | none => s
  | some u =>
    let s1 := keepInstalled u
      { s with actors := { s.actors with sups := s.actors.sups.filter fun v => v.name != name } }
    match (u.todo.head?.bind fun i => u.children[i]?).bind fun c => fixedSlot s (childPlace s u c) with
    | some ix => if (actorAt s1 ix).st = .restarting then updateActor ix (fun a => { a with st := .free }) s1 else s1
    | none => s1

/-! ## Entering EXITING -/

/-- A bound actor that leaves IDLE, RUNNABLE and RUNNING stops its host queues (R340). -/
def stopQueues (name : Word) (s : State) : State :=
  s.host.queues.foldl (fun t (q, h) =>
    if h.actor = name ∧ (h.state = 1 ∨ h.state = 2) then
      let t1 := { t with host := { t.host with
        queues := Tab.put t.host.queues q { h with state := 3, err := 1 }, msix := t.host.msix ++ [64] } }
      logPackage 12 7 0x11 (2 ^ 31 + q) t1
    else t) s

/-- The actor enters EXITING with its death fixed, and its core's exit engine takes it (R306, R379); a supervisor's record
is FREE (R391). -/
def enterExiting (name : Word) (d : Death) (s : State) : State :=
  let s1 := updateActor (actorIx s name) (fun a => { a with st := .exiting, death := some d, held := none }) s
  post (.exitWalk name) (stopQueues name (dropSup name s1))

/-! ## The end of a run (R102) -/

def leaseOf (s : State) (m : Nat) : Lease := s.arr.leases.getD m Lease.zero

def setLease (m : Nat) (l : Lease) (s : State) : State :=
  { s with arr := { s.arr with leases := s.arr.leases.setIfInBounds m l } }

/-- Whether the core has commands waiting or executing. -/
def hasCommands (s : State) (m : Nat) : Bool :=
  if m = ownMember s then !s.arr.queue.isEmpty || s.arr.running.isSome else (leaseOf s m).queued

/-- Whether a core contends for lane groups (R185). -/
def contends (s : State) (m : Nat) : Bool :=
  match (leaseOf s m).st with
  | .requested => true
  | .yielded => hasCommands s m
  | .none | .held => false

def contenders (s : State) : List Nat := (List.range 16).filter (contends s)

/-- The lease of this core ends: its lane groups are free and its credit is 0 (R182); who contends is looked at. -/
def releaseLease (s : State) : State :=
  let own := ownMember s
  let s1 := setLease own { Lease.zero with weight := (leaseOf s own).weight } s
  let s2 := { s1 with arr := { s1.arr with
    job := none, due := true, reserve := s1.arr.reserve.filter fun r => r.1 != own } }
  if (contenders s2).isEmpty then s2 else post .leaseGrant s2

/-- Whether a pending step brings the answer. -/
def isCompletionFor (rto : ReplyTo) : Instr → Bool
  | .producerCompletion id part _ => rto == .job id part
  | .counterResponseArrival _ => rto == .hart
  | .collectiveFire cl pid colid => rto == .collective cl pid colid
  | .armFiringArrives armFor => rto == armFor
  | _ => false

/-- Whether a pending step is the registration of a waiter or an arm for this answer, or the answer itself. -/
def isRequestFor (rto : ReplyTo) (ev : Instr) : Bool :=
  isCompletionFor rto ev ||
  match ev with
  | .homeCwait _ _ _ r | .waiterRetry _ _ _ r | .homeCarm _ _ _ _ r => r == rto
  | _ => false

/-- Whether a step at another package still tries to register a waiter for this answer. -/
def isRetryFor (s : State) (rto : ReplyTo) : Instr → Bool
  | .waiterRetry _ _ _ r => replyKey s r == (s.ras.pkg.toNat, rto)
  | _ => false

/-- A pending step whose request is withdrawn: one on its way in a packet arrives as a withdrawal of nothing, and an answer
on its way reaches nobody. -/
def withdrawEntry (s : State) (rto : ReplyTo) (e : Entry) : Option Entry :=
  match e.via with
  | none => if isRequestFor rto e.ev || isRetryFor s rto e.ev then none else some e
  | some a =>
    some { e with
      ev := if isRequestFor rto e.ev then .waiterWithdrawal .none else e.ev
      via := some { a with answer := a.answer.map fun x => if x.1 = rto then (.none, x.2) else x } }

/-- The same of a packet that may be sent again. -/
def withdrawPacket (rto : ReplyTo) (q : Packet) : Packet :=
  if isRequestFor rto q.ev then { q with ev := .waiterWithdrawal .none } else q

/-- A wait is withdrawn everywhere: its registered waiter, its request on the way or behind a release, its answer. -/
def cancelRequest (rto : ReplyTo) (s : State) : State :=
  { s with
    sched := { s.sched with agenda := s.sched.agenda.filterMap (withdrawEntry s rto) }
    fab := { s.fab with peers := s.fab.peers.map fun (n, p) =>
      (n, { p with out := p.out.map fun st => { st with packets := st.packets.map (withdrawPacket rto) } }) }
    ctr := { s.ctr with waiters := s.ctr.waiters.filter fun w => replyKey s w.replyTo != (s.ras.pkg.toNat, rto) }
    off := { s.off with drain := s.off.drain.map fun
      | .release id es => .release id (es.filter fun e => !isRequestFor rto e.ev)
      | .store e => .store e
      | .trapx id name on => .trapx id name on
      | .atomic id e => .atomic id e
      | .sent id es => .sent id es } }

/-- The waits that can be withdrawn are withdrawn at their homes (R102 step 2). -/
def withdrawWaits (s : State) : State :=
  let waits := s.off.jobs.filter fun j => j.wait.isSome
  let s1 := { s with off := { s.off with jobs := s.off.jobs.filter fun j => j.wait.isNone } }
  waits.foldl (fun t j => cancelRequest (.job j.id 0) t) s1

/-- The results of the bounded producers still out are discarded when they come (R102 step 2). -/
def detachJobs (s : State) : State :=
  { s with
    off := { s.off with jobs := s.off.jobs.map fun j => { j with dest := .nothing } }
    hart := { s.hart with x0 := [] } }

/-- The Array gives up this core's commands, results and lease (R102 step 3). -/
def clearArray (s : State) : State :=
  releaseLease { s with arr := { s.arr with queue := [], running := none, hit := none, stop := false, results := [], seq := 0 } }

/-- The registers of the run become FULL with value zero (R102 step 5, R152, R180). -/
def clearRegs (s : State) : State :=
  let base := s.user.tbaseReg.toNat
  let count := s.user.tcount.toNat
  let s1 := (List.range count).foldl (fun t i => writeM (base + i) 0 t) s
  { s1 with
    hart := { s1.hart with
      x := Vector.replicate 32 (Reg.zero 64), v := Vector.replicate 32 (Reg.zero 512)
      pend := { s1.hart.pend with fv := false, mv := false }
      loop0 := { s1.hart.loop0 with count := 0 }, loop1 := { s1.hart.loop1 with count := 0 } }
    user := { s1.user with tcount := 0, tbaseReg := 0 } }

/-- An entry of the store that the hart has not retired (R165). -/
def unretired (s : State) (e : StoreEntry) : Bool := decide (s.off.nextId - s.hart.storesDone ≤ e.id)

/-- The entries of an instruction that has not retired leave the queue (R102 step 1, R165). -/
def dropUnretired (s : State) : State :=
  if s.hart.storesDone = 0 then s
  else
    { s with off := { s.off with drain := s.off.drain.filter fun
        | .store e => !unretired s e
        | .release _ _ | .trapx _ _ _ | .atomic _ _ | .sent _ _ => true } }

/-- Whether the parts of R102 that take time are not over: producers of the run are out, or its drain queue is not empty. -/
def runEnding (s : State) : Bool :=
  match s.hart.wait with
  | .runEnd _ => boundedOutstanding s || !s.off.drain.isEmpty
  | .none | .source _ | .dest _ | .issue _ _ | .csr _ | .response | .registration | .wfi => false

/-- R102 on this hart: while a failed store is held, it and every store behind it are discarded; the drain queue then goes
on, and the dispatcher has control when it is empty. No handler is dispatched (R100, R104). -/
def endRun (s : State) : State :=
  let s0 := if s.hart.wait = .registration then cancelRequest .hart s else s
  let s1 := clearRegs (clearArray (detachJobs (withdrawWaits (dropUnretired s0))))
  let s2 := if s1.sup.dheld then discardStores s1 else s1
  { s2 with
    act := ActCsrs.zero
    hart := { s2.hart with disp := true, priv := .user, wait := .runEnd s.act.name, answer := .none, storesDone := 0
                           again := false, resv := none } }

/-! ## Deaths -/

/-- Whether this hart's context runs the actor in U-mode (R476). -/
def runsHere (s : State) (name : Word) : Bool :=
  s.act.name == name && s.hart.priv == .user && !s.hart.disp

/-- The hart is at an instruction boundary: no instruction waits for a response that cannot be interrupted (R268), and none
has made a part of its store entries (R165). -/
def hartAtBoundary (s : State) : Bool := s.hart.wait != .response && s.hart.storesDone == 0

/-- A death of a live actor (R306): held while its context is not in U-mode (R476) or the hart is not at a boundary (R102
step 1), and otherwise taken at once, with the end of a run in progress on this hart. A name that is not live has no
effect. -/
def killActor (name : Word) (d : Death) (s : State) : State :=
  match liveActor s name with
  | none => s
  | some a =>
    if a.st = .running ∧ coreIndex s (namePkg name) (nameCore name) = ownCore s then
      if runsHere s name && hartAtBoundary s then enterExiting name d (endRun s)
      else updateActor (actorIx s name) (fun b => { b with held := some (b.held.getD d) }) s
    else enterExiting name d s

/-- A death that begins at the actor itself (R379). -/
def deathOf (name : Word) (reason : BitVec 8) (detail : Word) : Death :=
  { reason := reason, detail := detail, origin := name, cascade := false }

end Sys2Proof.Machine
end

