-- ==== Sys2Proof/Machine/Ops.lean ====
section
/-!
DEFINITION. What every instruction shares: the checks before it, taking an exception or an interrupt and returning
from one (R54 to R56, R100, R111, R113), stalls, retirement and the loop end test (R154).
-/
namespace Sys2Proof.Machine

abbrev Out := Host.Outcome State Fault Refusal

/-! ## Checks -/

/-- A condition that keeps an instruction from its effect: the state in which the hart then goes on (a trap taken, or
the hart held at the instruction), or none when the condition does not hold. -/
abbrev Check := State → Option State

/-- The first check that stops the instruction (R55: checks stand in the order of priority). -/
def firstStop : List Check → State → Option State
  | [], _ => none
  | c :: rest, s =>
    match c s with
    | some t => some t
    | none => firstStop rest s

/-- An instruction: its checks in order, then its effect. -/
def instr (checks : List Check) (effect : State → State) (s : State) : Out :=
  match firstStop checks s with
  | some t => .next t
  | none => .next (effect s)

/-- A check that stops with `f` where `p` holds. -/
def stopIf (p : State → Bool) (f : State → State) : Check := fun s => if p s then some (f s) else none

/-! ## Pending prefixes -/

def prefixPending (s : State) : Bool := s.hart.pend.fv || s.hart.pend.mv

/-- The address that an exception of this instruction reports: the first prefix word when one is pending (R40). -/
def faultPc (s : State) : Word := if prefixPending s then s.hart.pend.first else s.hart.pc

def clearPrefix (s : State) : State :=
  { s with hart := { s.hart with pend := { s.hart.pend with fv := false, mv := false } } }

/-! ## Traps -/

def privCode : Priv → Nat
  | .user => 0 | .supervisor => 1 | .machine => 3

/-- A `ctxsave` or `ctxload` that is left lets the Array go on with the queue. -/
def letArrayStart (s : State) : State :=
  if s.arr.stop then post .arrayCommandStart { s with arr := { s.arr with stop := false } } else s

/-- What every trap does to the hart: the reservation is lost (R22), the hart is not held, no prefix is pending. A
waiter registration that colset waits for is withdrawn (R369). -/
def leaveContext (s : State) : State :=
  let s0 := if s.hart.wait = .registration then cancelRequest .hart s else s
  let s1 := clearPrefix (letArrayStart s0)
  { s1 with hart := { s1.hart with resv := none, wait := .none, answer := .none, storesDone := 0, again := false } }

/-- Entry to S-mode (R111): sepc, scause and stval are written, SPP, SPIE and SIE change, the pc goes to stvec. -/
def enterS (epc cause tval target : Word) (spp dfrom : Bool) (s : State) : State :=
  let s1 := leaveContext s
  let st := s1.mach.status
  { s1 with
    mach := { s1.mach with status := { st with spp := spp, spie := st.sie, sie := false } }
    sup := { s1.sup with sepc := epc, scause := cause, stval := tval, dfrom := dfrom }
    hart := { s1.hart with priv := .supervisor, pc := target, disp := false } }

/-- Entry to M-mode (R111). -/
def enterM (epc cause tval target : Word) (mpp : Priv) (mdfrom : Bool) (s : State) : State :=
  let s1 := leaveContext s
  let st := s1.mach.status
  { s1 with
    mach := { s1.mach with
      status := { st with mpp := mpp, mpie := st.mie, mie := false }, mepc := epc, mcause := cause, mtval := tval }
    sup := { s1.sup with mdfrom := mdfrom }
    hart := { s1.hart with priv := .machine, pc := target, disp := false } }

/-- The base of a trap vector; an exception always goes to it. -/
def vectorBase (tvec : Word) : Word := tvec &&& ~~~(3 : Word)

/-- Whether an exception is delegated to the exit engine (R113). -/
def delegatedToExit (s : State) (cause : Nat) : Bool := s.hart.priv == .user && bit s.sup.actdeleg cause

/-- Whether an exception traps to S-mode (R113). -/
def delegatedToS (s : State) (cause : Nat) : Bool := s.hart.priv != .machine && bit s.mach.medeleg cause

/-- Taking a precise synchronous exception (R53, R111, R113): the exit engine, S-mode or M-mode, with the epc of R40.
The saved state is that before the instruction. While the dispatcher is active it is a device error, which is logged. -/
def trap (cause : Nat) (tval : Word) (s : State) : State :=
  let epc := faultPc s
  if s.hart.disp then logDevice cause s
  else if delegatedToExit s cause then
    let detail := place cause 32 ||| (tval &&& 0xFFFFFFFF)
    let name := s.act.name
    let s1 := endRun s
    if isLive s name then enterExiting name (deathOf name 0x02 detail) s1 else s1
  else if delegatedToS s cause then
    enterS epc (place cause 0) tval (vectorBase s.sup.stvec) (s.hart.priv == .supervisor) false s
  else
    enterM epc (place cause 0) tval (vectorBase s.mach.mtvec) s.hart.priv false s

/-- DEFERRED_LOAD on a register: its record goes to dfpc and dfinfo (R45, R115). -/
def trapDeferredLoad (r : RegName) (s : State) : State :=
  match regState s r with
  | .faulted pc info => trap 25 (regId r) { s with sup := { s.sup with dfpc := pc, dfinfo := info } }
  | .full | .empty _ => s

/-- DEFERRED_STORE for the held entry at the head of the drain queue (R116). -/
def trapDeferredStore (s : State) : State :=
  match drainStores s with
  | e :: _ => trap 26 e.addr { s with sup := { s.sup with dfpc := e.pc, dfinfo := s.off.heldInfo } }
  | [] => s

/-- Trap(ILLEGAL, word). -/
def trapIllegal (i : Instr) : State → State := trap 2 (wordOf i)

/-! ## Stalls -/

def hold (w : Wait) (s : State) : State := { s with hart := { s.hart with wait := w } }

/-- An interruptible stall at the instruction: it is tried again after the next event. -/
def stall (s : State) : State := hold (.issue s.sched.events false) s

/-- A stall at issue on a resource of R49, which counts as BLOCKED_EMPTY (R98). -/
def stallBlocked (s : State) : State := hold (.issue s.sched.events true) s

/-- A blocking CSR read (R52). -/
def stallCsr (s : State) : State := hold (.csr s.sched.events) s

/-! ## Common checks -/

/-- No prefix is pending before an instruction that accepts none (R39). -/
def noPrefix (i : Instr) : Check := stopIf prefixPending (trapIllegal i)

/-- A source operand: its registers, and its E bit (R27). -/
abbrev Source := List RegName × Bool

def srcX (r : RegIdx) (e : Bool) : Source := (if r = 0 then [] else [.x r.toNat], e)

/-- The lowest-numbered register of an operand that is FAULTED. -/
def faultedReg (s : State) (src : Source) : Option RegName := src.1.find? fun r => (regState s r).isFaulted

def emptyReg (s : State) (src : Source) : Option RegName := src.1.find? fun r => (regState s r).isEmpty

/-- The level of a register's file (R429). -/
def regLevel : RegName → Nat
  | .x _ | .v _ => 0
  | .m _ => 1

/-- Changes a level's counts (R430). -/
def updateLevel (n : Nat) (f : Level → Level) (s : State) : State :=
  { s with ras := { s.ras with levels := s.ras.levels.setIfInBounds n (f (s.ras.levels.getD n (Level.reset n))) } }

/-- A count that saturates at its maximum. -/
def satInc {n : Nat} (v : BitVec n) : BitVec n := if v = BitVec.allOnes n then v else v + 1

def countCorrected (n : Nat) : State → State := updateLevel n fun l => { l with corrected := satInc l.corrected }

/-- The keys by which a visit of level 1 names an Array row of a lane group, and not a tile register. -/
def arrayRowKey : Nat := 0x10000

/-- The keys by which a visit of level 3 names an entry of a buffer of this core or of a table of its cluster, and not a
counter: the structure from bit 20, and the entry. DESIGN CHOICE (assumption 94): R429 gives the buffers no level. -/
def bufferKey : Nat := 2 ^ 40

/-- The core that has an element, where a core has it. -/
def elementCore (s : State) (n key : Nat) : Option Nat :=
  if n = 0 ∨ n = 4 ∨ (n = 1 ∧ key < arrayRowKey) ∨ (n = 3 ∧ bufferKey ≤ key) then some (ownCore s)
  else if n = 2 then some (key / scratchBytes)
  else none

/-- What a spare takes over with an element (R426): its scratchpad row, its HBM channel, the Array row, the port's lane. -/
def spareUnit (n key : Nat) : Nat :=
  n * 2 ^ 40 + (if n = 2 then key / 64 else if n = 5 then Config.hbmChannel key else key)

/-- What holds an element now: the standby core that has adopted the number of its core, and the last of its spares (R16). -/
def holderOf (s : State) (n key : Nat) : Nat :=
  2 * Tab.getD s.ras.moved (spareUnit n key) 0
    + (if (elementCore s n key).any fun c => s.ras.adopted.contains c then 1 else 0)

/-- A spare takes over what an element stands in. -/
def takenOver (n key : Nat) (s : State) : State :=
  { s with ras := { s.ras with
      moved := Tab.put s.ras.moved (spareUnit n key) (Tab.getD s.ras.moved (spareUnit n key) 0 + 1) } }

/-- A record of kinds 1 to 5 about an element of a level, with the physical location that the element has now (R16, R431,
R477). -/
def logLevel (kind n : Nat) (d : Detail) (where_ : Nat) (s : State) : State :=
  let loc := (Config.errorLocation n where_ (holderOf s n where_)).toNat
  if n ≤ 4 then logCluster kind n d.toNat loc s else logPackage kind n d.toNat loc s

/-- A lasting error of a level is counted and recorded (R425, R430, R431). -/
def lastingError (n : Nat) (d : Detail) (where_ : Nat) (s : State) : State :=
  logLevel 3 n d where_ (updateLevel n (fun l => { l with lasting := satInc l.lasting }) s)

/-- The retirement of a core is asked for, once (R426, R428). -/
def askRetirement (core : BitVec 12) (cause : BitVec 2) (s : State) : State :=
  let asked (ev : Instr) : Bool := match ev with | .coreRetirement c _ => c == core | _ => false
  if s.ras.sparing.contains core.toNat || s.sched.agenda.any fun e => asked e.ev then s
  else post (.coreRetirement core (.begins cause)) s

/-- An error that waits in a FULL register among those read. -/
def regErrorIn (s : State) (regs : List RegName) : Option RegError :=
  s.ras.regErrors.find? fun e => regs.contains e.reg && regState s e.reg == .full

/-- A register file read meets an error (R121): a corrected one counts, and an uncorrectable one leaves the register
FAULTED and retires the core (R426). The instruction then looks at its sources again. -/
def meetRegError (e : RegError) (s : State) : State :=
  let s1 := { s with ras := { s.ras with regErrors := s.ras.regErrors.filter fun r => r != e } }
  if e.correctable then countCorrected (regLevel e.reg) s1
  else
    let info := dfinfoWord s.ras.pkg.toNat 0 0 11 dRegisterUncorrectable
    askRetirement s.coreid 1
      (lastingError (regLevel e.reg) dRegisterUncorrectable (regId e.reg).toNat
        (setRegState e.reg (.faulted s.hart.pc info) s1))

/-- CheckSources (R50, R53): FAULTED first, then EMPTY with its E bit, then the hart blocks. A read that meets an error
of the register file is made again (R121). -/
def checkSources (srcs : List Source) : Check := fun s =>
  match regErrorIn s (srcs.flatMap fun src => src.1) with
  | some e => some (meetRegError e s)
  | none =>
  match srcs.findSome? (faultedReg s) with
  | some r => some (trapDeferredLoad r s)
  | none =>
    match srcs.findSome? (fun src => if src.2 then emptyReg s src else none) with
    | some r => some (trap 24 (regId r) s)
    | none =>
      match srcs.findSome? (emptyReg s) with
      | some _ => some (hold (.source (srcs.flatMap fun src => src.1)) s)
      | none => none

/-- WriteDst's wait (R51): the hart stalls while a destination register is EMPTY. -/
def checkDest (regs : List RegName) : Check := fun s =>
  if regs.any fun r => (regState s r).isEmpty then some (hold (.dest regs) s) else none

def dstX (r : RegIdx) : List RegName := if r = 0 then [] else [.x r.toNat]

/-- R55 item 3: a release does not execute while a failed store is held. -/
def checkHeld : Check := stopIf (fun s => s.sup.dheld) trapDeferredStore

/-- A later access waits for an acquire or an ORD access (R220, R227). -/
def checkAccess : Check := stopIf accessBlocked stall

/-- An acquire waits for every earlier load and atomic (R220). -/
def checkAcquire (aq : Bool) : Check := stopIf (fun s => aq && loadsOutstanding s) stall

/-- A request finds an operation and a response slot (R49). -/
def checkResources : Check := stopIf (fun s => !canIssue s) stallBlocked

/-! ## Retirement -/

/-- EndTest (R154). -/
def endTest (next : Word) (s : State) : Word × State :=
  let level1 (t : State) : Word × State :=
    if t.hart.loop1.count ≠ 0 ∧ t.hart.pc = t.hart.loop1.last then
      let c := t.hart.loop1.count - 1
      let t1 := { t with hart := { t.hart with loop1 := { t.hart.loop1 with count := c } } }
      (if c ≠ 0 then t.hart.loop1.start else next, t1)
    else (next, t)
  if s.hart.loop0.count ≠ 0 ∧ s.hart.pc = s.hart.loop0.last then
    let c := s.hart.loop0.count - 1
    let s1 := { s with hart := { s.hart with loop0 := { s.hart.loop0 with count := c } } }
    if c ≠ 0 then (s.hart.loop0.start, s1) else level1 s1
  else level1 s

/-- The instruction retires and control goes to `target` without an end test. -/
def goTo (target : Word) (s : State) : State :=
  let s1 := clearPrefix s
  { s1 with
    mach := { s1.mach with minstret := s1.mach.minstret + 1 }
    hart := { s1.hart with pc := target, wait := .none, answer := .none, storesDone := 0 } }

/-- The instruction retires: the end test chooses the next address (R154). -/
def retireTo (next : Word) (s : State) : State :=
  let r := endTest next s
  goTo r.1 r.2

/-- The instruction retires in sequence. -/
def retire (s : State) : State := retireTo (s.hart.pc + 4) s

/-- The address at which the hart waits for a producer whose destination is x0 (R48): where it goes at retirement. -/
def nextPc (s : State) : Word := (endTest (s.hart.pc + 4) s).1

/-! ## Interrupts (R56, R41, R100) -/

/-- The interrupts in the order of R56. -/
def interruptOrder : List Nat := [19, 11, 3, 9, 18, 17, 16, 1]

/-- Pending and enabled, whatever the mode. -/
def pendingEnabled (s : State) : Word := s.mach.mip &&& s.mach.mie

/-- Whether an interrupt is for S-mode. -/
def toS (s : State) (n : Nat) : Bool := bit s.mach.mideleg n

def mEnabled (s : State) : Bool := s.hart.priv != .machine || s.mach.status.mie

def sEnabled (s : State) : Bool :=
  match s.hart.priv with
  | .user => true
  | .supervisor => s.mach.status.sie
  | .machine => false

/-- Whether the hart is held where an interrupt reports the address of R40 (R40, R50, R52). -/
def heldAtInstr (s : State) : Bool :=
  match s.hart.wait with
  | .none | .wfi | .runEnd _ => false
  | .source _ | .dest _ | .issue _ _ | .csr _ | .response | .registration => true

/-- The interrupt the hart takes now: M-mode's before S-mode's, each in the order of R56. An interrupt for M-mode is
not taken between a prefix and its instruction (R41), and none while a response is awaited without interruption
(R268), a vector store has made some of its entries (R165) or a run is ending (R102); a hart in wfi wakes first, so that
the wfi retires. -/
def interruptToTake (s : State) : Option Nat :=
  if s.hart.wait = .response ∨ s.hart.wait = .wfi ∨ s.hart.storesDone ≠ 0 ∨ runEnding s then none
  else
    let en := pendingEnabled s
    let m := if mEnabled s && (!prefixPending s || heldAtInstr s) then
        interruptOrder.find? fun n => bit en n && !toS s n
      else none
    match m with
    | some n => some n
    | none => if sEnabled s then interruptOrder.find? fun n => bit en n && toS s n else none

/-- The target of an interrupt under direct and vectored mode. -/
def vectorTarget (tvec : Word) (n : Nat) : Word :=
  if field tvec 0 2 = 1 then vectorBase tvec + place (4 * n) 0 else vectorBase tvec

/-- Taking an interrupt: from the dispatcher the epc is 0 (R100); at a prefix boundary S-mode keeps the pending words
in spfx* (R41); while the instruction is held the epc follows R40. -/
def takeInterrupt (n : Nat) (s : State) : State :=
  let cause := place 1 63 ||| place n 0
  let epc := if s.hart.disp then 0 else if heldAtInstr s then faultPc s else s.hart.pc
  if toS s n then
    let boundary := prefixPending s && !heldAtInstr s
    let s1 :=
      { s with sup := { s.sup with
          spf := s.hart.pend.f, spm := s.hart.pend.m
          spfv := boundary && s.hart.pend.fv, spmv := boundary && s.hart.pend.mv
          spfirst := if boundary then some (epc, s.hart.pend.first) else none } }
    enterS epc cause 0 (vectorTarget s.sup.stvec n) (s.hart.priv == .supervisor) s.hart.disp s1
  else enterM epc cause 0 (vectorTarget s.mach.mtvec n) s.hart.priv s.hart.disp s

/-! ## Returning from a trap (R100, R111) -/

/-- The dispatcher takes control at U privilege; no handler is dispatched (R100, R104). -/
def enterDispatcher (s : State) : State :=
  { s with act := ActCsrs.zero, hart := { s.hart with disp := true, priv := .user, wait := .none, saved := false } }

/-- The hart goes on at an address in a mode; in U-mode the context is no longer SAVED (R98), and DFROM and MDFROM are 0
while a handler runs (R100). A producer with destination x0 that `ctxload` reissued is waited for there (R130). -/
def resume (p : Priv) (pc : Word) (s : State) : State :=
  { s with
    sup := { s.sup with dfrom := s.sup.dfrom && p != .user, mdfrom := s.sup.mdfrom && p != .user }
    hart := { s.hart with
      priv := p, pc := pc, saved := s.hart.saved && p != .user
      x0 := s.hart.x0.map fun w => if w.atReturn then { w with next := pc, atReturn := false } else w } }

/-- mret: MPIE goes back to MIE, the mode to MPP, the pc to mepc; with MDFROM = 1 the dispatcher resumes at U privilege
whatever MPP says (R100). The end of a loop is tested as at any retirement (R154, assumption 82). -/
def returnM (s : State) : State :=
  let st := s.mach.status
  let st' : MStatus :=
    { st with mie := st.mpie, mpie := true, mpp := .user, mprv := st.mprv && st.mpp == .machine && !s.sup.mdfrom }
  let r := endTest s.mach.mepc s
  let s1 := { r.2 with mach := { s.mach with status := st', minstret := s.mach.minstret + 1 } }
  if s.sup.mdfrom then enterDispatcher { s1 with sup := { s1.sup with mdfrom := false } }
  else resume st.mpp r.1 s1

/-- The address of the first prefix word of a resumed instruction (R40): the one kept when the interrupt was taken, and
where S-mode has put another epc or other prefixes there, that of words in front of the instruction (assumption 21). -/
def firstPrefix (kept : Option (Word × Word)) (epc : Word) (fv mv : Bool) : Word :=
  match kept with
  | some (e, first) => if e = epc then first else epc - (if fv then 4 else 0) - (if mv then 4 else 0)
  | none => epc - (if fv then 4 else 0) - (if mv then 4 else 0)

/-- sret: SPIE goes back to SIE, the mode to SPP, the pc to sepc, and spfx* becomes the pending prefix (R41); with
DSPGO = 1 the dispatcher is entered instead (R100). The end of a loop is tested as at any retirement (R154, assumption
82). -/
def returnS (s : State) : State :=
  let st := s.mach.status
  let st' : MStatus := { st with sie := st.spie, spie := true, spp := false, mprv := false }
  let pend : Pending :=
    { f := s.sup.spf, m := s.sup.spm, fv := s.sup.spfv, mv := s.sup.spmv
      first := firstPrefix s.sup.spfirst s.sup.sepc s.sup.spfv s.sup.spmv }
  let r := endTest s.sup.sepc s
  let s1 :=
    { r.2 with
      mach := { s.mach with status := st', minstret := s.mach.minstret + 1 }
      sup := { s.sup with spfv := false, spmv := false, spfirst := none }
      hart := { r.2.hart with pend := pend } }
  if s.sup.dspgo then enterDispatcher { s1 with sup := { s1.sup with dspgo := false } }
  else resume (if st.spp then .supervisor else .user) r.1 s1

end Sys2Proof.Machine
end

