-- ==== Sys2Proof/Machine/Fabric.lean ====
section
/-!
DEFINITION. Packets between packages at the end where they arrive: the order and the duplicates of a stream (R408, R410),
the check of their flits (R409), permits and refusals (R412), answers, and lost peers (R413).
-/
namespace Sys2Proof.Machine

/-! ## Records -/

/-- LOCATION of a fabric record (R477). -/
def fabricLocation (s : State) (pkg kind : Nat) : Nat :=
  pkg % 4096 * 2 ^ 20 + (portFor s pkg).getD 0 * 2 ^ 15 + kind * 2 ^ 9

def logFabric (detail pkg kind : Nat) (s : State) : State := logPackage 13 6 detail (fabricLocation s pkg kind) s

/-! ## Arrival (R408, R410) -/

/-- Whether this package is the source of a packet. -/
def isOutbound (s : State) (a : Arrival) : Bool := a.src == s.ras.pkg

/-- The stream of a packet, by its other package. -/
def streamOf (s : State) (a : Arrival) : Stream :=
  if isOutbound s a then outStream s a.dst.toNat a.channel else innStream s a.src.toNat a.channel

def setStream (a : Arrival) (st : Stream) (s : State) : State :=
  if isOutbound s a then setOut a.dst.toNat a.channel st s else setInn a.src.toNat a.channel st s

/-- A RID that the destination has passed. -/
def ridPassed (st : Stream) (rid : Nat) : Bool :=
  decide (rid ≠ st.expect) && decide ((st.expect + 65536 - rid) % 65536 < 32768)

/-- Whether a KIND is that of an answer to a contribution. -/
def isCanswer (a : Arrival) : Bool := a.kind == 25

/-- Whether a KIND may be sent on the packet's channel (R405). -/
def kindListed (a : Arrival) : Bool := kindChannel a.kind.toNat == some a.channel

/-- A packet of this package has left it, and no flit of it waits at a port. -/
def hasLeft (s : State) (a : Arrival) : Bool :=
  (streamOf s a).packets.all (fun q => q.via.rid != a.rid || q.left) && !flitsQueued s a

/-- Whether a packet may be applied now: it has arrived, and its predecessors in the stream have been applied; a
duplicate, and a packet that its destination discards, does not wait (R405, R408, R410). -/
def streamReady (s : State) (e : Entry) : Bool :=
  match e.via with
  | none => true
  | some a =>
    let st := streamOf s a
    let inOrder := st.expect == a.rid || ridPassed st a.rid
    if isOutbound s a then hasLeft s a && inOrder
    else (portFor s a.src.toNat).isSome
      && (!s.ras.pkgSet || (peerOf s a.src.toNat).lost || !kindListed a || inOrder)

/-- The identifier of an applied packet is kept among the stream's last 256, and its successor is next (R264, R408). -/
def markApplied (a : Arrival) (s : State) : State :=
  let st := streamOf s a
  if ridPassed st a.rid then s
  else setStream a { st with expect := nextRid a.rid, applied := lastN 256 (st.applied ++ [(a.rid, none)]) } s

/-- A packet that was applied before: its RID is among the last 256, or older (R410). -/
def isDuplicate (s : State) (a : Arrival) : Bool := ridPassed (streamOf s a) a.rid

/-! ## Flits (R409) -/

/-- Whether the flits of a packet are good: in SEQ order from `seq`, numbered, the last one marked, with their CRC. -/
def flitsGood (a : Arrival) (n : Nat) (seq : BitVec 12) : Nat → List Flit → Bool
  | i, [] => decide (i = n)
  | i, f :: rest =>
    f.header == flitHeader a && trailerSeq f.trailer == seq + BitVec.ofNat 12 i && trailerIndex f.trailer == i
      && trailerLast f.trailer == decide (i + 1 = n) && field f.trailer 32 12 == 0
      && f.trailer.extractLsb' 0 32 == flitCrc f.header f.payload && flitsGood a n seq (i + 1) rest

/-- The port on which the packets of another package come in (assumption 78). -/
def inPort (s : State) (a : Arrival) : Nat := (portFor s a.src.toNat).getD 0

/-- Whether a packet has flits that its port discards, so that the other side sends them again. -/
def flitsBad (s : State) (e : Entry) (a : Arrival) : Bool :=
  !a.flits.isEmpty && !flitsGood a (flitCount e.ev a.answer) (portAt s (inPort s a)).expect 0 a.flits

/-- The port takes the flits of a packet, or has had those sent again that it discarded: the SEQ behind them is next. -/
def takeFlits (e : Entry) (a : Arrival) (s : State) : State :=
  let p := portAt s (inPort s a)
  setPort (inPort s a) { p with expect := p.expect + BitVec.ofNat 12 (flitCount e.ev a.answer) } s

/-- A package from which something comes, or which the fabric manager names, is one of the pod; its own permits for this
package are what its table says (assumption 18). -/
def meetPeer (pkg : Nat) (s : State) : State :=
  let p := peerOf s pkg
  if p.known then s else setPeer pkg { p with known := true, grants := Config.peerGrants (BitVec.ofNat 12 pkg) } s

/-! ## Applying a packet -/

/-- What an answer to the packet answers. -/
def originOf (a : Arrival) : Origin :=
  { src := a.src, dst := a.dst, ch := a.channel, rid := a.rid, kind := a.kind, pid := a.pid }

/-- The step that a packet brings, with its answer going back over the fabric. -/
def carried (a : Arrival) (ev : Instr) : Instr := withReply (.over (originOf a) (replyToOf ev)) ev

/-- Whether the step that a packet brings answers it itself (R405): COUNTER, READ, WRITE, ATOMIC, SPAWN and the move of
a tile slot do; the other packets of channel 2 are acknowledged as they are applied. -/
def answersItself (a : Arrival) (ev : Instr) : Bool :=
  match ev with
  | .move _ => true
  | _ => decide (a.kind.toNat < 4) || a.kind == 17

/-- An answer to a packet goes back. -/
def answerArrival (a : Arrival) (x : PacketAnswer) (s : State) : State := answerPacket (originOf a) x s

/-- The answer to a contribution goes back to the sending entry: within the package as it is, and otherwise as a CANSWER,
a packet of channel 3 as any other, whose failure says that the permit refused the contribution (R372, R405, R408, R412). -/
def answerContribution (c : Contribution) (accepted refused : Bool) (s : State) : State :=
  let ev : Instr := .canswerArrival c accepted
  match s.sched.packet with
  | none => post ev s
  | some (src, _, rid) =>
    let here := herePkg s
    postBetween here src.toNat .collective 25 c.pid ev (some (.collective, rid))
      (if refused then some (.none, .failed dLostPeer (BitVec.ofNat 12 here)) else none) s

/-- A refused packet is answered (R412): an arm that it asked for ends; a refused WAKE fails the wait that it would have
ended. -/
def refusePacket (e : Entry) (a : Arrival) (permit : Nat) (s : State) : State :=
  let here := BitVec.ofNat 12 (herePkg s)
  let d := refusalDetail permit
  let s1 := markApplied a s
  match e.ev with
  | .contributionArrival c => answerContribution c true true s1
  | .homeCarm _ _ _ r armFor => answerArrival a (r, .failed d here) (armEnds armFor s1)
  | ev =>
    match a.answer with
    | some (inner, _) =>
      let s2 := answerArrival a (.none, .failed d here) s1
      if s.sched.place.isNone then reply inner (.failed d here) s2 else s2
    | none => answerArrival a (replyToOf ev, .failed d here) s1

/-- A packet that is applied: the step that it brings, or none where it only carries a wake. -/
def applyPacket (e : Entry) (a : Arrival) (s : State) : Option Instr × State :=
  let s1 := markApplied a s
  match a.answer with
  | some (inner, r) =>
    let s2 := answerArrival a (.none, .value 0) s1
    (none, if s.sched.place.isNone then reply inner r s2 else s2)
  | none =>
    if a.kind = 24 then (some e.ev, s1)
    else if answersItself a e.ev then (some (carried a e.ev), s1)
    else (some e.ev, answerArrival a (.none, .value 0) s1)

/-- A packet that was applied before (R410): a READ is performed again, the entry's bitmap catches a CONTRIB, and the
original answer to another one is sent again. -/
def applyAgain (e : Entry) (a : Arrival) (s : State) : Option Instr × State :=
  if a.kind = 0 then (some (carried a e.ev), s)
  else if a.kind = 24 then (some e.ev, s)
  else
    match (streamOf s a).applied.findSome? fun r => if r.1 = a.rid then r.2 else none with
    | some x => (none, answerArrival a x s)
    | none => (none, s)

/-- Whether a duplicate of a packet is told by its RID alone (R410): not that of a READ or a CONTRIB. -/
def keptAnswer (a : Arrival) : Bool := a.kind != 0 && a.kind != 24

/-- A request or a message at its destination, with the permits that the destination's table gives its source. A duplicate
gets the original answer, whatever the table says now (R410). -/
def deliverPacket (permits : BitVec 5) (e : Entry) (a : Arrival) (s : State) : Option Instr × State :=
  match permitBit a.kind.toNat with
  | none => (none, s)
  | some b =>
    if isDuplicate s a && keptAnswer a then applyAgain e a s
    else if !permits.getLsbD b then
      (none, refusePacket e a b (if s.sched.place.isNone then logFabric 3 a.src.toNat a.kind.toNat s else s))
    else if isDuplicate s a then applyAgain e a s
    else applyPacket e a s

/-- The record of a contribution that a permit refused, in the log of the sending entry's cluster, which is this one or keeps
its own (R412, R477). -/
def logRefused (c : Contribution) (s : State) : State :=
  if c.src = ownCluster s then logCluster 7 3 (4 * 256 + c.own.toNat) c.colid.toNat s else s

/-- A restart request that its target's permits refuse counts as refused by the placement (R397, R412): the engine of its
supervisor goes on. -/
def restartRefused (s0 : State) (pkg : Nat) (ch : Channel) (rid : Nat) (r : Response) (s : State) : State :=
  match r, (outStream s0 pkg ch).packets.find? fun q => q.via.rid == rid with
  | .failed _ _, some q =>
    match q.ev with
    | .childRestart sup i =>
      let mine (u : Sup) : Bool := u.name == sup && u.request == .out
      let refused (u : Sup) : Sup := { u with request := .answered .refused }
      postOwn (.childRestart sup i) { s with actors := { s.actors with sups := updateFirst mine refused s.actors.sups } }
    | _ => s
  | _, _ => s

/-- An answer at its destination: the first one settles its packet and reaches whoever waits, and a later one is
discarded (R410). -/
def deliverAnswer (e : Entry) (a : Arrival) (s : State) : Option Instr × State :=
  let s1 := markApplied a s
  match a.answers with
  | none => (none, s1)
  | some (ch, rid) =>
    if s.sched.place.isSome then (if isCanswer a then some e.ev else none, s1)
    else if (outStream s1 a.src.toNat ch).packets.any fun q => q.via.rid == rid then
      let s2 := settle a.src.toNat ch rid s1
      if isCanswer a then
        (some e.ev,
          match e.ev, a.answer with
          | .canswerArrival c _, some (_, .failed _ _) => logRefused c s2
          | _, _ => s2)
      else
        match a.answer with
        | some (inner, r) => (none, reply inner r (restartRefused s1 a.src.toNat ch rid r s2))
        | none => (none, s2)
    else (none, s1)

/-- Whether a packet is an answer (R405). -/
def isAnswer (a : Arrival) : Bool := a.channel == .answer || isCanswer a

/-- A packet of this package at its peer. -/
def deliverOut (e : Entry) (a : Arrival) (s : State) : Option Instr × State :=
  let p := a.dst.toNat
  if !reachable s p then (none, s)
  else if isAnswer a then
    let r := deliverAnswer e a s
    (r.1, settle p a.channel a.rid r.2)
  else deliverPacket (peerOf s p).grants e a s

/-- A packet of another package at this one (R405, R409, R413, R433). One with a flit that its port discards is sent again,
which counts as a corrected error (R423, R424). -/
def deliverIn (e : Entry) (a : Arrival) (s : State) : Option Instr × State :=
  let p := a.src.toNat
  if !s.ras.pkgSet then (none, s)
  else if flitsBad s e a then (none, countCorrected 6 (enter { e with via := some { a with flits := [] } } s))
  else
    let s1 := meetPeer p (takeFlits e a s)
    if (peerOf s p).lost then (none, logFabric 5 p a.kind.toNat s1)
    else if !kindListed a then (none, logFabric 4 p a.kind.toNat s1)
    else if isAnswer a then deliverAnswer e a s1
    else deliverPacket (peerOf s p).permits e a s1

/-- An entry of the agenda that moves: the step to take, or none when the packet ends here. -/
def deliver (e : Entry) (s : State) : Option Instr × State :=
  match e.via with
  | none => (some e.ev, s)
  | some a =>
    let s1 := { s with sched := { s.sched with packet := some (a.src, a.channel, a.rid) } }
    if isOutbound s a then deliverOut e a s1 else deliverIn e a s1

end Sys2Proof.Machine
end

