-- ==== Sys2Proof/Machine/Kernel.lean ====
section
/-!
DEFINITION. What a core knows of a job's actors (chapter 12): the placement directory, the type table, the pools, and
the choice of the dispatcher.
-/
namespace Sys2Proof.Machine

/-! ## The placement directory (R299, R300) -/

structure Placement where
  types : Word
  quota : Nat
  slotHi : Nat
  slotLo : Nat
  ntypes : Nat
  slimit : Nat
  sbase : Nat
  wlimit : Nat
  wbase : Nat
  tslots : Word
  deriving DecidableEq, Repr

/-- Word n of directory entry j of a core. DEDUCED: the directory is plain scratchpad memory, and its reserved fields keep what
is stored there (R4, R299; assumption 115). -/
def dirWord (s : State) (core j n : Nat) : Word := readWordKey s (scratchKey core (0x40 * j + 8 * n))

/-- A word of the directory of a core cannot be read (R423, R426). -/
def dirPoisoned (s : State) (core : Nat) : Bool := poisoned s (scratchKey core 0) 0x100

def placementOf (w1 w2 w3 w4 w5 : Word) : Placement :=
  { types := w1, quota := field w2 48 11, slotHi := field w2 32 10, slotLo := field w2 16 10, ntypes := field w2 0 9
    slimit := field w3 32 20, sbase := field w3 0 20, wlimit := field w4 32 20, wbase := field w4 0 20, tslots := w5 }

/-- The entry of the job on a core, as it stands. -/
def placement (s : State) (core : Nat) (pid : Pid) : Option Placement :=
  ((List.range 4).find? fun j =>
    bit (dirWord s core j 0) 16 && field (dirWord s core j 0) 0 16 == pid.toNat).map fun j =>
      placementOf (dirWord s core j 1) (dirWord s core j 2) (dirWord s core j 3) (dirWord s core j 4)
        (dirWord s core j 5)

/-! ## The actor type table (R301, R302) -/

/-- The fields of a type entry. -/
def typeSnap (w0 w1 w2 w3 : Word) : TypeSnap :=
  { handler := w0, tiles := field w1 56 5, prio := field w1 54 2, budget := field w1 48 6, work := field w1 20 20
    size := field w1 0 20, clrLen := field w2 42 19, clrOff := field w2 23 19, mbox := field w2 0 20, trapx := bit w3 0 }

/-- R302. -/
def typeMalformed (w0 w1 w2 w3 : Word) (workPool : Nat) : Bool :=
  let t := typeSnap w0 w1 w2 w3
  field w1 61 3 != 0 || field w1 40 8 != 0 || field w2 61 3 != 0 || field w2 20 3 != 0 || field w3 1 63 != 0
    || w0.toNat % 4 != 0 || t.size % 64 != 0 || t.work % 64 != 0 || t.mbox % 16 != 0 || decide (t.mbox < 32)
    || decide (t.size < t.mbox + 192) || decide (16 < t.tiles)
    || (t.budget != 0 && (decide (t.budget < 10) || decide (48 < t.budget)))
    || decide (workPool < t.work)
    || (t.clrLen != 0 && (t.clrOff % 8 != 0 || t.clrLen % 8 != 0 || decide (t.clrOff < t.mbox + 192)
        || decide (t.size < t.clrOff + t.clrLen)))

/-- Whether a home answers an access that a station of package `pkg` sends it: homeAnswers for this package; this package
answers another by its own permit table (R412). -/
def homeAnswersFor (s : State) (pkg : Nat) (x : Xlat) : Option Detail :=
  if pkg = s.ras.pkg.toNat then homeAnswers s x
  else if x.aperture = 1 ∧ x.pkg = s.ras.pkg.toNat then
    if !reachable s pkg then some dLostPeer
    else if (peerOf s pkg).permits.getLsbD 0 then none else some dPagePermission
  else none

/-- Bytes in the job's pages, read through the station of a core. The state holds what the station has done (R235). -/
def readJob (s : State) (core : Nat) (pid : Pid) (va : Word) (len : Nat) : State × Except Detail (List Byte) :=
  match translate s (stationOf core) pid va .load with
  | (s1, .error (d, _)) => (s1, .error d)
  | (s1, .ok x) =>
    match homeAnswersFor s1 (stationPkg s1 (stationOf core)) x with
    | some d => (s1, .error d)
    | none => (s1, if poisoned s1 x.key len then .error dMemoryUncorrectable else .ok (readKey s1 x.key len))

/-- Bytes of any length, page by page (assumption 28: pages of 4 KiB at the least). -/
def readJobBytes (core : Nat) (pid : Pid) : Nat → Word → Nat → State → State × Except Detail (List Byte)
  | 0, _, _, s => (s, .ok [])
  | fuel + 1, va, len, s =>
    if len = 0 then (s, .ok [])
    else
      let n := min len (4096 - va.toNat % 4096)
      match readJob s core pid va n with
      | (s1, .error d) => (s1, .error d)
      | (s1, .ok b) =>
        let r := readJobBytes core pid fuel (va + BitVec.ofNat 64 n) (len - n) s1
        (r.1, r.2.map fun rest => b ++ rest)

/-- A type entry as it stands, or why it cannot be used: a detail, NONE for a malformed entry (R313). -/
def readType (s : State) (core : Nat) (pid : Pid) (e : Placement) (typ : Nat) : State × Except Detail TypeSnap :=
  match readJob s core pid (e.types + BitVec.ofNat 64 (32 * typ)) 32 with
  | (s1, .error d) => (s1, .error d)
  | (s1, .ok b) =>
    let w (n : Nat) : Word := bytesToWord ((b.drop (8 * n)).take 8)
    (s1, if typeMalformed (w 0) (w 1) (w 2) (w 3) (e.wlimit - e.wbase) then .error dNone
         else .ok (typeSnap (w 0) (w 1) (w 2) (w 3)))

/-! ## Pools -/

/-- The lowest of the candidate bases at which `len` bytes of a pool are in none of the ranges taken. -/
def firstFit (base limit len : Nat) (taken : List (Nat × Nat)) : Option Nat :=
  let free (w : Nat) : Bool := decide (base ≤ w) && decide (w + len ≤ limit)
    && taken.all fun (b, e) => decide (w + len ≤ b) || decide (e ≤ w)
  let cands := (base :: taken.map fun r => r.2).filter free
  if len = 0 then some base
  else cands.foldl (fun m w => some (match m with | some v => min v w | none => w)) none

/-- Actors of a core whose slots are not FREE. -/
def actorsOn (s : State) (core : Nat) : List (Nat × Actor) :=
  s.actors.table.filter fun (ix, a) => ix / 1024 == core && a.st != .free

/-- Actors of a core with a handler run in progress. -/
def runsOn (s : State) (core : Nat) : List Actor :=
  ((actorsOn s core).map fun (_, a) => a).filter fun a => a.st == .running

/-- Working-pool bytes held on a core (R308). -/
def workHeld (s : State) (core : Nat) : List (Nat × Nat) :=
  ((runsOn s core).filter fun a => a.snap.work != 0).map fun a => (a.wbase, a.wbase + a.snap.work)

/-- Tile registers held on a core (R308). -/
def tilesHeld (s : State) (core : Nat) : List (Nat × Nat) :=
  ((runsOn s core).filter fun a => a.snap.tiles != 0).map fun a => (a.tbase, a.tbase + a.snap.tiles)

/-- The allotment of a run: working range and tile run, where both fit (R308). TILES = 0 always fits, with BASE = 0. -/
def allotment (s : State) (core : Nat) (e : Placement) (a : Actor) : Option (Nat × Nat) :=
  match firstFit e.wbase e.wlimit a.snap.work (workHeld s core) with
  | none => none
  | some w =>
    if a.snap.tiles = 0 then some (w, 0)
    else (firstFit 0 16 a.snap.tiles (tilesHeld s core)).map fun t => (w, t)

/-! ## The head of the run queue (R308, R309) -/

def aheadOf (x y : Nat × Actor) : Bool :=
  decide (x.2.snap.prio < y.2.snap.prio) || (x.2.snap.prio == y.2.snap.prio && decide (x.2.stamp < y.2.stamp))

/-- The RUNNABLE actor of the job that the dispatcher looks at: lowest level, then longest wait. -/
def headActor (s : State) : Option (Nat × Actor) :=
  (s.actors.table.filter fun (ix, a) => ix / 1024 == ownCore s && a.st == .runnable && a.pid == s.sup.pid).foldl
    (fun m x => match m with | some y => if aheadOf x y then some x else some y | none => some x) none

/-! ## Mailboxes (R327) -/

/-- The key of a mailbox counter of a core. -/
def mailboxKey (core ix : Nat) : Nat := core / 16 * 16384 + ix

/-- The value of a mailbox counter. -/
def mailboxValue (s : State) (core ix : Nat) : Nat :=
  match Tab.find? s.ctr.cells (mailboxKey core ix) with
  | some c => c.value.toNat
  | none => 0

/-- commit > consume (R330). -/
def holding (s : State) (core : Nat) (a : Actor) : Bool :=
  decide (mailboxValue s core a.consumeIx < mailboxValue s core a.commitIx)

/-- The mailbox's region (R327). -/
def ringBytes (a : Actor) : Nat := a.snap.mbox + 192

/-- The key of the record at the consumer position. -/
def headRecord (s : State) (core : Nat) (a : Actor) : Nat :=
  scratchKey core (a.sbase + mailboxValue s core a.consumeIx % ringBytes a)

/-- KIND and LEN of a record. -/
def recordKind (s : State) (key : Nat) : Nat := field (readWordKey s key) 16 8
def recordLen (s : State) (key : Nat) : Nat := field (readWordKey s key) 0 16

/-- The record that waits is a SKIP. -/
def headIsSkip (s : State) (core : Nat) (a : Actor) : Bool := recordKind s (headRecord s core a) == 3

/-- Whether DISPATCH has something to do: a SKIP to consume, or a head that fits (R308). -/
def dispatchReady (s : State) : Bool :=
  match headActor s with
  | none => false
  | some (_, a) =>
    !holding s (ownCore s) a || headIsSkip s (ownCore s) a ||
      (match placement s (ownCore s) s.sup.pid with
        | none => false
        | some e => (allotment s (ownCore s) e a).isSome)

end Sys2Proof.Machine
end

