-- ==== Sys2Proof/Machine/Numbers.lean ====
section
/-!
DEFINITION. Number formats and arithmetic (chapter 3): exact values, rounding, conversion, block formats, reductions.
An exact value is a dyadic number; the functions of R148 whose value is not dyadic are given as a dyadic number with
so many bits that every rounding to a format is the rounding of the exact value (assumption 24).
-/
namespace Sys2Proof.Machine

/-! ## Formats (R65, R68, R70) -/

/-- Element width in bits of a format code. -/
def fmtWidth (f : Nat) : Nat :=
  if f = 0 ∨ f = 12 ∨ f = 13 then 32
  else if f = 1 ∨ f = 2 ∨ f = 10 ∨ f = 11 then 16
  else if f = 14 ∨ f = 15 then 64
  else if f = 5 ∨ f = 7 ∨ f = 16 then 4
  else 8

def isFloatFmt (f : Nat) : Bool := decide (f ≤ 5)
def isTidal (f : Nat) : Bool := f == 6 || f == 7
def isMx (f : Nat) : Bool := f == 3 || f == 4 || f == 5
def isBlockFmt (f : Nat) : Bool := decide (3 ≤ f) && decide (f ≤ 7)
def isIntFmt (f : Nat) : Bool := decide (8 ≤ f) && decide (f ≤ 16)
def isSignedFmt (f : Nat) : Bool := f == 8 || f == 10 || f == 12 || f == 14 || f == 16
def hasInfinity (f : Nat) : Bool := f == 0 || f == 1 || f == 2 || f == 4
def hasNaN (f : Nat) : Bool := decide (f ≤ 4) || isTidal f

/-- Exponent bits, fraction bits and bias of a floating format. -/
def fmtExp (f : Nat) : Nat := if f = 0 ∨ f = 1 then 8 else if f = 2 ∨ f = 4 then 5 else if f = 3 then 4 else 2
def fmtFrac (f : Nat) : Nat :=
  if f = 0 then 23 else if f = 1 then 7 else if f = 2 then 10 else if f = 3 then 3 else if f = 4 then 2 else 1
def fmtBias (f : Nat) : Nat := if f = 0 ∨ f = 1 then 127 else if f = 2 ∨ f = 4 then 15 else if f = 3 then 7 else 1

/-! ## Values -/

/-- NaN, an infinity, or (−1)^neg × m × 2^e; a zero keeps its sign. -/
inductive Num where
  | nan (signalling : Bool)
  | inf (neg : Bool)
  | fin (neg : Bool) (m : Nat) (e : Int)
  deriving DecidableEq, Repr

/-- Rounding modes (R71). -/
inductive Rm where
  | rne | rtz | rdn | rup
  deriving DecidableEq, Repr

/-- The flags NV, DZ, OF, UF, NX from bit 4 (R73). -/
abbrev Flags := BitVec 5

def fNV : Flags := 16
def fDZ : Flags := 8
def fOF : Flags := 4
def fUF : Flags := 2
def fNX : Flags := 1

def Num.isNaN : Num → Bool
  | .nan _ => true
  | .inf _ | .fin _ _ _ => false

def Num.isSNaN : Num → Bool
  | .nan s => s
  | .inf _ | .fin _ _ _ => false

def Num.neg : Num → Num
  | .nan s => .nan s
  | .inf n => .inf !n
  | .fin n m e => .fin (!n) m e

def Num.sign : Num → Bool
  | .nan _ => false
  | .inf n => n
  | .fin n _ _ => n

def Num.isZero : Num → Bool
  | .fin _ 0 _ => true
  | .nan _ | .inf _ | .fin _ (_ + 1) _ => false

/-- The integer v as a value. -/
def Num.ofInt (v : Int) : Num := .fin (decide (v < 0)) v.natAbs 0

/-- ⌊log2 m⌋ + 1 bits; 0 for 0. -/
def bitLen (m : Nat) : Nat := if m = 0 then 0 else m.log2 + 1

/-- m × 2^e shifted to exponent `q ≤ e`. -/
def alignTo (m : Nat) (e q : Int) : Nat := m <<< (e - q).toNat

/-- Compares magnitudes m × 2^e. -/
def magLt (m1 : Nat) (e1 : Int) (m2 : Nat) (e2 : Int) : Bool :=
  let q := min e1 e2
  decide (alignTo m1 e1 q < alignTo m2 e2 q)

def magEq (m1 : Nat) (e1 : Int) (m2 : Nat) (e2 : Int) : Bool :=
  let q := min e1 e2
  decide (alignTo m1 e1 q = alignTo m2 e2 q)

/-- a < b for values that are not NaN. -/
def Num.lt : Num → Num → Bool
  | .inf n, .inf n' => n && !n'
  | .inf n, .fin _ _ _ => n
  | .fin _ _ _, .inf n => !n
  | .fin n m e, .fin n' m' e' =>
    if m = 0 ∧ m' = 0 then false
    else if m = 0 then !n'
    else if m' = 0 then n
    else if n && !n' then true
    else if !n && n' then false
    else if n then magLt m' e' m e else magLt m e m' e'
  | .nan _, _ => false
  | _, .nan _ => false

/-- a = b for values that are not NaN; −0 equals +0. -/
def Num.eqv : Num → Num → Bool
  | .inf n, .inf n' => n == n'
  | .fin n m e, .fin n' m' e' => if m = 0 ∧ m' = 0 then true else n == n' && magEq m e m' e'
  | _, _ => false

/-! ## Decoding and encoding -/

/-- The value of a floating code (R68, R69). -/
def decodeFloat (f v : Nat) : Num :=
  let fb := fmtFrac f
  let eb := fmtExp f
  let neg := (v >>> (fb + eb)) % 2 == 1
  let ex := (v >>> fb) % 2 ^ eb
  let fr := v % 2 ^ fb
  if f = 3 ∧ ex = 15 ∧ fr = 7 then .nan false
  else if hasInfinity f ∧ ex = 2 ^ eb - 1 then
    if fr = 0 then .inf neg else .nan (fr < 2 ^ (fb - 1))
  else if ex = 0 then .fin neg fr (1 - (fmtBias f : Int) - fb)
  else .fin neg (2 ^ fb + fr) ((ex : Int) - fmtBias f - fb)

/-- The value of an element of a non-tidal format (R68, R70). -/
def decodeElem (f v : Nat) : Num :=
  if isFloatFmt f then decodeFloat f v
  else if isSignedFmt f then Num.ofInt (toSigned (fmtWidth f) v)
  else .fin false (v % 2 ^ fmtWidth f) 0

/-- The canonical NaN (R68, R79, R85). -/
def canonicalNaN (f : Nat) : Nat :=
  if f = 0 then 0x7FC00000 else if f = 1 then 0x7FC0 else if f = 2 then 0x7E00 else if f = 3 then 0x7F
  else if f = 4 then 0x7E else if f = 6 then 0x80 else if f = 7 then 0x8 else 0

/-- The largest finite value of a format (R68, R79). -/
def maxFinite (f : Nat) : Nat × Int :=
  if f = 0 then (2 ^ 24 - 1, 104) else if f = 1 then (255, 120) else if f = 2 then (2047, 5)
  else if f = 3 then (14, 5) else if f = 4 then (7, 13) else if f = 5 then (3, 1)
  else if isSignedFmt f then (2 ^ (fmtWidth f - 1) - 1, 0) else (2 ^ fmtWidth f - 1, 0)

/-- Limit (R79): for s negative, −MaxFinite, −2^(N−1) or 0. -/
def limitOf (f : Nat) (neg : Bool) : Num :=
  if neg then
    if isFloatFmt f then .fin true (maxFinite f).1 (maxFinite f).2
    else if isSignedFmt f then .fin true (2 ^ (fmtWidth f - 1)) 0
    else .fin false 0 0
  else .fin false (maxFinite f).1 (maxFinite f).2

/-- InRange (R79). -/
def inRange (y : Num) (f : Nat) : Bool :=
  match y with
  | .nan _ | .inf _ => false
  | .fin _ _ _ => !y.lt (limitOf f true) && !(limitOf f false).lt y

/-- The value of an integer-valued number. -/
def Num.toInt : Num → Int
  | .fin n m e => let v : Int := if 0 ≤ e then (m <<< e.toNat : Nat) else (m >>> (-e).toNat : Nat); if n then -v else v
  | .nan _ | .inf _ => 0

/-- An integer modulo 2^n. -/
def wrapInt (n : Nat) (v : Int) : Nat := (BitVec.ofInt n v).toNat

/-- The code of a value that the format holds exactly. -/
def encodeElem (f : Nat) (y : Num) : Nat :=
  match y with
  | .nan _ => canonicalNaN f
  | .inf n =>
    if hasInfinity f then (if n then 2 ^ (fmtWidth f - 1) else 0) + (2 ^ fmtExp f - 1) * 2 ^ fmtFrac f else canonicalNaN f
  | .fin n m e =>
    if isFloatFmt f then
      let fb := fmtFrac f
      let s := if n then 2 ^ (fmtWidth f - 1) else 0
      let qmin : Int := 1 - (fmtBias f : Int) - fb
      if m = 0 then s
      else
        let top : Int := e + bitLen m - 1
        if top < 1 - (fmtBias f : Int) then
          s + (if qmin ≤ e then alignTo m e qmin else m >>> (qmin - e).toNat)
        else
          let q := top - fb
          let sig := if q ≤ e then alignTo m e q else m >>> (q - e).toNat
          s + (top + fmtBias f).toNat * 2 ^ fb + (sig - 2 ^ fb)
    else wrapInt (fmtWidth f) y.toInt

/-! ## Rounding (R71, R72, R79) -/

/-- m × 2^e rounded to a multiple of 2^q in a mode. -/
def roundMag (neg : Bool) (m : Nat) (e q : Int) (rm : Rm) : Nat :=
  if q ≤ e then alignTo m e q
  else
    let sh := (q - e).toNat
    let hi := m >>> sh
    let rem := m % 2 ^ sh
    let half := 2 ^ (sh - 1)
    let up : Bool :=
      match rm with
      | .rne => decide (half < rem) || (rem == half && hi % 2 == 1)
      | .rtz => false
      | .rdn => neg && rem != 0
      | .rup => !neg && rem != 0
    if up then hi + 1 else hi

/-- The exponent of the last place that rounding keeps. -/
def lastPlace (f : Nat) (m : Nat) (e : Int) : Int :=
  if isFloatFmt f then max (e + bitLen m - (fmtFrac f + 1)) (1 - (fmtBias f : Int) - fmtFrac f) else 0

/-- Round (R79). -/
def roundTo (v : Num) (f : Nat) (rm : Rm) : Num :=
  match v with
  | .nan s => .nan s
  | .inf n => .inf n
  | .fin n m e => if m = 0 then .fin n 0 0 else let q := lastPlace f m e; .fin n (roundMag n m e q rm) q

/-- R72: rounded with the exponent unbounded below, non-zero and below the smallest normal. -/
def isTiny (v : Num) (f : Nat) (rm : Rm) : Bool :=
  match v with
  | .nan _ | .inf _ => false
  | .fin n m e =>
    if m = 0 then false
    else
      let q := e + bitLen m - (fmtFrac f + 1)
      magLt (roundMag n m e q rm) q 1 (1 - (fmtBias f : Int))

/-- The OFT = 0 result of an overflow with its flags (R76). -/
def overflowResult (f : Nat) (neg : Bool) (rm : Rm) : Num × Flags :=
  if isIntFmt f then (limitOf f neg, fNV)
  else if f = 3 then (.nan false, fOF ||| fNX)
  else if f = 5 then (limitOf f neg, fOF ||| fNX)
  else
    let big := limitOf f neg
    let y : Num :=
      match rm with
      | .rne => .inf neg
      | .rtz => big
      | .rdn => if neg then .inf true else big
      | .rup => if neg then big else .inf false
    (y, fOF ||| fNX)

/-- The flags of a rounding in range (R73). -/
def roundFlags (v y : Num) (f : Nat) (rm : Rm) : Flags :=
  if v.eqv y then 0 else if isFloatFmt f && isTiny v f rm then fNX ||| fUF else fNX

/-! ## The MOD prefix (R38) -/

/-- The fields of a MOD prefix; `Mods.none` when none is pending. -/
structure Mods where
  abs : Bool
  neg : Bool
  clamp : Bool
  sat : Bool
  k : Int
  deriving DecidableEq, Repr

def Mods.none : Mods := { abs := false, neg := false, clamp := false, sat := false, k := 0 }

/-- Steps 1 to 4 of R38, exactly. NEG gives a zero the other sign, also one that comes from an integer element and goes to a
floating-point format: DEDUCED (assumption 95). -/
def modSteps (md : Mods) (v : Num) : Num :=
  let abs (w : Num) : Num :=
    match w with
    | .nan s => .nan s
    | .inf n => .inf (n && !md.abs)
    | .fin n m e => .fin (n && !md.abs) m e
  let scaled : Num :=
    match v with
    | .nan s => .nan s
    | .inf n => .inf n
    | .fin n m e => .fin n m (e + md.k)
  let w := abs scaled
  let w := if md.neg then w.neg else w
  match w with
  | .nan s => .nan s
  | .inf n => if md.clamp && n then .fin false 0 0 else .inf n
  | .fin n m e => if md.clamp && n then .fin false 0 0 else .fin n m e

/-- The result of a non-converting floating operation: R38 and one rounding (R77). -/
def finishFloat (md : Mods) (v : Num) (f : Nat) (rm : Rm) : Num × Flags :=
  let w := modSteps md v
  match w with
  | .nan s => (.nan s, 0)
  | .inf n => if md.sat then (limitOf f n, fNX) else (.inf n, 0)
  | .fin n _ _ =>
    let y := roundTo w f rm
    if inRange y f then (y, roundFlags w y f rm)
    else if md.sat then (limitOf f n, fNX)
    else overflowResult f n rm

/-- The result of an integer operation: R38, then the wrap or the saturation (R77). A division by 2^-k that rounds and a result
that saturates are inexact (R73); a wrap is the operation's own result, and raises nothing (assumption 51). -/
def finishInt (md : Mods) (v : Num) (f : Nat) : Num × Flags :=
  let w := modSteps md v
  let y := roundTo w f .rne
  if md.sat && !inRange y f then (limitOf f y.sign, fNX) else (y, roundFlags w y f .rne)

/-- A finished element: its code and its flags. -/
def finishElem (md : Mods) (v : Num) (f : Nat) (rm : Rm) : Nat × Flags :=
  if isFloatFmt f then
    let r := finishFloat md v f rm
    (encodeElem f r.1, r.2)
  else
    let r := finishInt md v f
    (encodeElem f r.1, r.2)

/-! ## Sums and products (R79) -/

/-- A product, exact, and whether it is 0 × ∞. -/
def mulNum : Num → Num → Num × Bool
  | .nan s, .nan t => (.nan (s || t), false)
  | .nan s, _ => (.nan s, false)
  | _, .nan s => (.nan s, false)
  | .inf n, .inf n' => (.inf (n != n'), false)
  | .inf n, .fin n' m _ => if m = 0 then (.nan false, true) else (.inf (n != n'), false)
  | .fin n m _, .inf n' => if m = 0 then (.nan false, true) else (.inf (n != n'), false)
  | .fin n m e, .fin n' m' e' => (.fin (n != n') (m * m') (e + e'), false)

/-- The least exponent of the finite terms. -/
def minExp : List Num → Int → Int
  | [], q => q
  | .fin _ m e :: rest, q => minExp rest (if m = 0 then q else min e q)
  | .nan _ :: rest, q => minExp rest q
  | .inf _ :: rest, q => minExp rest q

def Num.scaledInt (q : Int) : Num → Int
  | .fin n m e => if m = 0 then 0 else let v : Int := (alignTo m e q : Nat); if n then -v else v
  | .nan _ | .inf _ => 0

/-- ExactSum (R79), and whether both infinities occur; the sum of no terms is +0. -/
def exactSum (l : List Num) : Num × Bool :=
  if l.any Num.isNaN then (.nan (l.any Num.isSNaN), false)
  else
    let pos := l.any fun v => v == .inf false
    let neg := l.any fun v => v == .inf true
    if pos && neg then (.nan false, true)
    else if pos then (.inf false, false)
    else if neg then (.inf true, false)
    else
      let q := minExp l 4096
      let t := (l.map (Num.scaledInt q)).foldl (· + ·) 0
      if t = 0 then (.fin (!l.isEmpty && l.all fun v => v.isZero && v.sign) 0 0, false)
      else (.fin (decide (t < 0)) t.natAbs q, false)

def nvIf (b : Bool) : Flags := if b then fNV else 0

/-! ## Minimum and maximum (R89) -/

/-- Whether a is taken for a minimum: −0 is less than +0. -/
def minTakesLeft (a b : Num) : Bool :=
  if a.lt b then true else if b.lt a then false else a.sign || !b.sign

/-- FMin and FMax (R89), and their flags. -/
def fMinMax (isMax : Bool) (a b : Num) : Num × Flags :=
  let nv := nvIf (a.isSNaN || b.isSNaN)
  if a.isNaN && b.isNaN then (.nan false, nv)
  else if a.isNaN then (b, nv)
  else if b.isNaN then (a, nv)
  else if isMax then (if minTakesLeft a b then b else a, 0)
  else (if minTakesLeft a b then a else b, 0)

/-! ## Conversion (R75 to R79) -/

/-- One converted element; none for a CONVERT_OVERFLOW trap. -/
def convertElem (oft sat : Bool) (v : Num) (f : Nat) (rm : Rm) : Option (Nat × Flags) :=
  match v with
  | .nan s => if hasNaN f then some (canonicalNaN f, nvIf s) else some (0, fNV)
  | .inf _ | .fin _ _ _ =>
    let isInf := match v with | .inf _ => true | .nan _ | .fin _ _ _ => false
    if isInf && hasInfinity f && !sat then some (encodeElem f v, 0)
    else
      let y := roundTo v f rm
      if inRange y f then some (encodeElem f y, roundFlags v y f rm)
      else if sat then some (encodeElem f (limitOf f v.sign), fNX)
      else if oft then none
      else
        let r := overflowResult f v.sign rm
        some (encodeElem f r.1, r.2)

/-! ## Reductions (R91) -/

/-- The operations of reductions: sum, min, max, and, or, xor (R285, R346). -/
inductive RedOp where
  | sum | min | max | and | or | xor
  deriving DecidableEq, Repr

/-- Node (R91) on codes of format f; the bitwise operations act on the codes. -/
def node (op : RedOp) (f : Nat) (rm : Rm) (md : Mods) (a b : Nat) : Nat × Flags :=
  let x := decodeElem f a
  let y := decodeElem f b
  match op with
  | .sum =>
    let r := exactSum [x, y]
    let q := finishElem md r.1 f rm
    (q.1, q.2 ||| nvIf (r.2 || (isFloatFmt f && (x.isSNaN || y.isSNaN))))
  | .min =>
    if isFloatFmt f then let r := fMinMax false x y; (encodeElem f r.1, r.2) else (if y.lt x then b else a, 0)
  | .max =>
    if isFloatFmt f then let r := fMinMax true x y; (encodeElem f r.1, r.2) else (if x.lt y then b else a, 0)
  | .and => (a &&& b, 0)
  | .or => (a ||| b, 0)
  | .xor => (a ^^^ b, 0)

/-- Identity (R91, R285). -/
def identityOf (op : RedOp) (f : Nat) : Nat :=
  match op with
  | .sum => if isFloatFmt f then 2 ^ (fmtWidth f - 1) else 0
  | .min => if isFloatFmt f then encodeElem f (.inf false) else encodeElem f (limitOf f false)
  | .max => if isFloatFmt f then encodeElem f (.inf true) else encodeElem f (limitOf f true)
  | .and => 2 ^ fmtWidth f - 1
  | .or | .xor => 0

/-- One level of the tree: pairs of neighbours. -/
def reduceLevel (op : RedOp) (f : Nat) (rm : Rm) (md : Mods) : List (Option Nat) → List (Option Nat) × Flags
  | a :: b :: rest =>
    let r := reduceLevel op f rm md rest
    match a, b with
    | some x, some y => let q := node op f rm md x y; (some q.1 :: r.1, q.2 ||| r.2)
    | some x, none => (some x :: r.1, r.2)
    | none, some y => (some y :: r.1, r.2)
    | none, none => (none :: r.1, r.2)
  | l => (l, 0)

/-- The levels of the tree above the given leaves, down to at most two. -/
def reduceTo2 (op : RedOp) (f : Nat) (rm : Rm) : Nat → List (Option Nat) → List (Option Nat) × Flags
  | 0, l => (l, 0)
  | n + 1, l =>
    if l.length ≤ 2 then (l, 0)
    else
      let r := reduceLevel op f rm Mods.none l
      let q := reduceTo2 op f rm n r.1
      (q.1, r.2 ||| q.2)

/-- A NaN that reaches the root becomes the canonical NaN (R150, R288). -/
def canonicalise (f v : Nat) : Nat :=
  if isFloatFmt f && (decodeElem f v).isNaN then canonicalNaN f else v

/-- TreeReduce (R91) with the MOD prefix at the root (R150); a present signalling NaN raises NV (R150). -/
def treeReduce (op : RedOp) (f : Nat) (rm : Rm) (md : Mods) (leaves : List (Option Nat)) : Nat × Flags :=
  let nv := match op with
    | .sum | .min | .max => nvIf (isFloatFmt f && leaves.any fun l =>
        match l with | some v => (decodeElem f v).isSNaN | none => false)
    | .and | .or | .xor => 0
  let r := reduceTo2 op f rm 16 leaves
  let root : Nat × Flags :=
    match r.1 with
    | [some a, some b] => node op f rm md a b
    | [some a, none] | [none, some a] | [some a] =>
      if md = Mods.none then (a, 0) else finishElem md (decodeElem f a) f rm
    | _ => if md = Mods.none then (identityOf op f, 0) else finishElem md (decodeElem f (identityOf op f)) f rm
  (match op with
    | .sum | .min | .max => canonicalise f root.1
    | .and | .or | .xor => root.1, root.2 ||| r.2 ||| nv)

/-! ## Functions (R148, R149) -/

/-- ⌊√n⌋, for n below 4^fuel. -/
def isqrt : Nat → Nat → Nat
  | 0, _ => 0
  | k + 1, n =>
    let r := 2 * isqrt k (n / 4)
    if (r + 1) * (r + 1) ≤ n then r + 1 else r

/-- m is a power of two. -/
def isPow2 (m : Nat) : Bool := m != 0 && m == 2 ^ m.log2

/-- An inexact positive value given by its floor at 2^q: half a unit more stands for the rest. -/
def inexact (neg : Bool) (fl : Nat) (q : Int) : Num := .fin neg (2 * fl + 1) (q - 1)

/-- 1 / (m × 2^e), m > 0. -/
def recipNum (neg : Bool) (m : Nat) (e : Int) : Num :=
  if isPow2 m then .fin neg 1 (-e - m.log2)
  else let k := m.log2 + 80; inexact neg (2 ^ k / m) (-e - k)

/-- 1 / √(m × 2^e), m > 0. -/
def rsqrtNum (m : Nat) (e : Int) : Num :=
  let odd := e % 2 = 1
  let m' := if odd then 2 * m else m
  let t := (if odd then e - 1 else e) / 2
  if isPow2 m' ∧ m'.log2 % 2 = 0 then .fin false 1 (-t - (m'.log2 / 2 : Nat))
  else inexact false (isqrt 128 (2 ^ 200 / m')) (-t - 100)

/-- Working bits of the series below. -/
def workBits : Nat := 340

/-- ln 2 × 2^workBits from Σ 1 / (k 2^k). -/
def ln2Sum : Nat → Nat
  | 0 => 0
  | k + 1 => 2 ^ workBits / ((k + 1) * 2 ^ (k + 1)) + ln2Sum k

/-- Σ y^j / j! from the term `t` on, all with workBits fraction bits. -/
def expSum (y : Nat) : Nat → Nat → Nat → Nat
  | 0, _, _ => 0
  | n + 1, j, t => t + expSum y n (j + 1) (t * y / 2 ^ workBits / (j + 1))

/-- 2^(m × 2^e), the sign apart. -/
def exp2Num (neg : Bool) (m : Nat) (e : Int) : Num :=
  if m = 0 then .fin false 1 0
  else if 15 < e + bitLen m then (if neg then .fin false 1 (-40000) else .fin false 3 40000)
  else
    let mag := if 0 ≤ e then (m <<< e.toNat) <<< workBits else (m <<< workBits) >>> (-e).toNat
    let x : Int := if neg then -(mag : Int) else mag
    let n := x / (2 ^ workBits : Nat)
    let fr := (x % (2 ^ workBits : Nat)).toNat
    if fr = 0 then .fin false 1 n
    else inexact false (expSum (fr * ln2Sum workBits / 2 ^ workBits) 100 0 (2 ^ workBits)) (n - workBits)

/-- Bits of the binary logarithm of a mantissa in [1, 2) held with workBits fraction bits. -/
def log2Bits : Nat → Nat → Nat → Nat
  | 0, _, acc => acc
  | n + 1, x, acc =>
    let y := x * x / 2 ^ workBits
    if 2 ^ (workBits + 1) ≤ y then log2Bits n (y / 2) (2 * acc + 1) else log2Bits n y (2 * acc)

/-- log2 (m × 2^e), m > 0. -/
def log2Num (m : Nat) (e : Int) : Num :=
  let ex := e + (m.log2 : Int)
  if isPow2 m then Num.ofInt ex
  else
    let mant := (m <<< workBits) >>> m.log2
    let v : Int := 2 * (ex * (2 ^ 160 : Nat) + log2Bits 160 mant 0) + 1
    .fin (decide (v < 0)) v.natAbs (-161)

/-- The functions of R148. -/
inductive FuncOp where
  | rcp | rsq | exp2 | log2
  deriving DecidableEq, Repr

/-- R149 and R148: the exact value, or one that every rounding takes for it, and the operation's own flags. -/
def funcValue (op : FuncOp) (x : Num) : Num × Flags :=
  match op, x with
  | _, .nan s => (.nan false, nvIf s)
  | .rcp, .inf n => (.fin n 0 0, 0)
  | .rcp, .fin n m e => if m = 0 then (.inf n, fDZ) else (recipNum n m e, 0)
  | .rsq, .inf n => if n then (.nan false, fNV) else (.fin false 0 0, 0)
  | .rsq, .fin n m e =>
    if m = 0 then (.inf n, fDZ) else if n then (.nan false, fNV) else (rsqrtNum m e, 0)
  | .exp2, .inf n => if n then (.fin false 0 0, 0) else (.inf false, 0)
  | .exp2, .fin n m e => (exp2Num n m e, 0)
  | .log2, .inf n => if n then (.nan false, fNV) else (.inf false, 0)
  | .log2, .fin n m e =>
    if m = 0 then (.inf true, fDZ) else if n then (.nan false, fNV) else (log2Num m e, 0)

/-! ## Block formats (R80 to R87) -/

/-- An MX element with its E8M0 scale (R81). Scale 255 makes every element a quiet NaN, also a signalling e5m2 one, which
therefore raises no NV: DEDUCED (assumption 93). -/
def decodeMx (f code scale : Nat) : Num :=
  if scale = 255 then .nan false
  else
    match decodeFloat f code with
    | .nan s => .nan s
    | .inf n => .inf n
    | .fin n m e => .fin n m (e + scale - 127)

/-- A tidal element with its scale word (R84, R85). -/
def decodeTidal (f code scale : Nat) : Num :=
  let w := fmtWidth f
  let mb := w - 2
  let neg := (code >>> (w - 1)) % 2 == 1
  let hi := (code >>> mb) % 2 == 1
  let m := code % 2 ^ mb
  let ex := if hi then scale % 4096 else (scale >>> 12) % 4096
  let bias : Int := if f = 6 then 2052 else 2048
  if neg && m == 0 then .nan false
  else if ex = 4095 then .nan false
  else if ex = 0 then .fin neg 0 0
  else .fin neg m ((ex : Int) - bias)

/-- A quantised block: the scale, the codes and the flags; or the element that traps. -/
inductive QuantResult where
  | ok (scale : Nat) (codes : List Nat) (flags : Flags)
  | trap (i : Nat)
  deriving DecidableEq, Repr

def firstInf (xs : List Num) : Option Nat :=
  xs.findIdx? fun x => match x with | .inf _ => true | .nan _ | .fin _ _ _ => false

/-- ⌊log2⌋ of the largest finite magnitude; none when every finite value is zero. -/
def maxLog2 (xs : List Num) : Option (Nat × Int) :=
  xs.foldl (fun acc x =>
    match x with
    | .fin _ m e =>
      if m = 0 then acc
      else match acc with
        | none => some (m, e)
        | some (m', e') => if magLt m' e' m e then some (m, e) else acc
    | .nan _ | .inf _ => acc) none

/-- One element of QuantMX's last loop (R82). -/
def quantMxElem (f : Nat) (scaleExp : Int) (x : Num) : Nat × Flags :=
  match x with
  | .nan s => (canonicalNaN f, nvIf s)
  | .inf n => (encodeElem f (.inf n), 0)
  | .fin n m e =>
    let v : Num := .fin n m (e - scaleExp)
    let y0 := roundTo v f .rne
    let isOver := !inRange y0 f
    let y := if isOver then limitOf f n else y0
    let small := match y with
      | .fin _ ym ye => magLt ym ye 1 (1 - (fmtBias f : Int))
      | .nan _ | .inf _ => false
    let nx := if isOver || !v.eqv y then fNX else 0
    let uf := if m ≠ 0 && small && !v.eqv y then fUF else 0
    (encodeElem f (match y with | .fin _ ym ye => .fin n ym ye | .nan s => .nan s | .inf k => .inf k), nx ||| uf)

/-- QuantMX (R82) on values that have passed steps 1 to 4 of R38. -/
def quantMx (oft sat : Bool) (f : Nat) (xs : List Num) : QuantResult :=
  let emax : Int := if f = 3 then 8 else if f = 4 then 15 else 2
  match (if sat || hasInfinity f || !oft then none else firstInf xs) with
  | some i => .trap i
  | none =>
    let infs := (firstInf xs).isSome
    let ys := xs.map fun x =>
      match x with
      | .inf n => if sat then limitOf 0 n else if hasInfinity f then .inf n else .nan false
      | .nan s => .nan s
      | .fin n m e => .fin n m e
    let fl0 : Flags := if infs && !sat && !hasInfinity f then fOF ||| fNX else 0
    if f = 5 ∧ ys.any Num.isNaN then
      .ok 255 (List.replicate 32 0) (fl0 ||| nvIf (ys.any Num.isSNaN))
    else
      let ex : Int :=
        match maxLog2 ys with
        | none => -127
        | some (m, e) => min (max (e + m.log2 - emax) (-127)) 127
      let rs := ys.map (quantMxElem f ex)
      .ok (ex + 127).toNat (rs.map (·.1)) (rs.foldl (fun a r => a ||| r.2) fl0)

/-- One element of QuantTidal's last loop (R86). -/
def quantTidalElem (f : Nat) (sat : Bool) (mMax : Nat) (bias : Int) (eh el : Nat) (x : Num) : Nat × Flags :=
  let w := fmtWidth f
  let code (s : Bool) (sel m : Nat) : Nat := (if s then 2 ^ (w - 1) else 0) + sel * 2 ^ (w - 2) + m
  match x with
  | .nan s => (code true 0 0, nvIf s)
  | .inf n => if sat then (code n 1 mMax, fNX) else (code true 0 0, 0)
  | .fin n m e =>
    let lo := roundMag false m e ((el : Int) - bias) .rne
    let (sel, q) := if lo ≤ mMax ∧ el < eh then (0, lo)
      else (1, min (roundMag false m e ((eh : Int) - bias) .rne) mMax)
    let ex : Int := (if sel = 1 then (eh : Int) else el) - bias
    let nx := if magEq q ex m e then 0 else fNX
    let uf := if m ≠ 0 ∧ q = 0 then fUF else 0
    (code (n && q != 0) sel q, nx ||| uf)

/-- QuantTidal (R86) on values that have passed steps 1 to 4 of R38. -/
def quantTidal (oft sat : Bool) (f : Nat) (xs : List Num) : QuantResult :=
  let (mMax, g, bias) := if f = 6 then (63, 6, (2052 : Int)) else (3, 2, 2048)
  match (if sat || !oft then none else firstInf xs) with
  | some i => .trap i
  | none =>
    let infs := (firstInf xs).isSome
    let fl0 : Flags := if infs && !sat then fOF ||| fNX else 0
    let finish (eh : Nat) : QuantResult :=
      let el := max (eh - g) 1
      let rs := xs.map (quantTidalElem f sat mMax bias eh el)
      .ok (el * 4096 + eh) (rs.map (·.1)) (rs.foldl (fun a r => a ||| r.2) fl0)
    if infs && sat then finish 4094
    else
      match maxLog2 xs with
      | none =>
        let nanCode := 2 ^ (fmtWidth f - 1)
        .ok 0 (xs.map fun x => match x with | .fin _ _ _ => 0 | .nan _ | .inf _ => nanCode)
          (fl0 ||| nvIf (xs.any Num.isSNaN))
      | some (m, e) =>
        let eh0 : Int := e + m.log2 + 2047
        let eh1 := if mMax < roundMag false m e (eh0 - bias) .rne then eh0 + 1 else eh0
        finish (min (max eh1 1) 4094).toNat

/-! ## The Array's dot product (R92 to R95) -/

/-- What a rounding of R92 reports to mmaq (R192): NV, OF, NX. -/
structure DotFlags where
  nv : Bool
  of : Bool
  nx : Bool
  deriving DecidableEq, Repr

/-- RNE to f32 with its flags. -/
def roundF32 (v : Num) : Num × Flags := finishFloat Mods.none v 0 .rne

/-- One chunk of ArrayDot (R92, R94): the products given, the accumulator before it. -/
def dotChunk (d : Num) (products : List (Num × Bool)) : Num × Flags :=
  let s := exactSum (products.map (·.1))
  let nv := nvIf (products.any (fun p => p.2 || p.1.isSNaN) || d.isSNaN || s.2)
  let r := roundF32 s.1
  let t := exactSum [d, r.1]
  let q := roundF32 t.1
  (if q.1.isNaN then .nan false else q.1, nv ||| nvIf t.2 ||| r.2 ||| q.2)

end Sys2Proof.Machine
end

