-- ==== Sys2Proof/Machine/Operands.lean ====
section
/-!
DEFINITION. Operand forms: prefixes and effective formats (R37 to R42, R135), vector groups, elements and masks
(R134, R136), tile operands, shapes and companions (R174 to R179).
-/
namespace Sys2Proof.Machine

/-! ## Prefixes (R37 to R42) -/

/-- The fields of the pending prefixes; 31 and 0 stand for no override. -/
structure Prefixes where
  d : Nat
  a : Nat
  b : Nat
  rm : Nat
  mods : Mods
  hasMod : Bool
  deriving DecidableEq, Repr

def Prefixes.none : Prefixes := { d := 31, a := 31, b := 31, rm := 0, mods := Mods.none, hasMod := false }

/-- The pending FMT word read as a prefix (R42: a word that is no valid prefix of its kind is none). -/
def fmtPrefix (s : State) (p : Prefixes) : Option Prefixes :=
  if s.hart.pend.fv then
    match decode s.hart.pend.f with
    | .ok (.fmt rm b a d) => some { p with d := d.toNat, a := a.toNat, b := b.toNat, rm := rm.toNat }
    | _ => Option.none
  else some p

/-- The pending MOD word read as a prefix. -/
def modPrefix (s : State) (p : Prefixes) : Option Prefixes :=
  if s.hart.pend.mv then
    match decode s.hart.pend.m with
    | .ok (.mod ab ng cl sa k) =>
      some { p with mods := { abs := ab, neg := ng, clamp := cl, sat := sa, k := k.toInt }, hasMod := true }
    | _ => Option.none
  else some p

/-- The pending prefixes, or none when a pending word is not valid. -/
def prefixes (s : State) : Option Prefixes := (fmtPrefix s Prefixes.none).bind (modPrefix s)

def rmOfBits (v : BitVec 2) : Rm :=
  if v = 0 then .rne else if v = 1 then .rtz else if v = 2 then .rdn else .rup

/-- Effective formats and rounding mode (R135). -/
structure Eff where
  d : Nat
  a : Nat
  b : Nat
  rm : Rm
  mods : Mods
  /-- The prefix's own fields, for the rules on fields without meaning (R37). -/
  p : Prefixes
  deriving DecidableEq, Repr

def effective (s : State) (p : Prefixes) : Eff :=
  let dflt := s.user.fmt.toNat
  { d := if p.d = 31 then dflt else p.d
    a := if p.a = 31 then dflt else p.a
    b := if p.b = 31 then dflt else p.b
    rm := if p.rm = 0 then rmOfBits s.user.rm else rmOfBits (BitVec.ofNat 2 p.rm)
    mods := p.mods, p := p }

/-- The effective formats of the instruction that the pending prefixes precede. -/
def effOf (s : State) : Eff := effective s ((prefixes s).getD Prefixes.none)

/-- The instruction accepts the pending prefixes: FMT always, MOD where `mods` (R39), with the formats `legal`. -/
def prefixOk (mods : Bool) (legal : Eff → Bool) (s : State) : Bool :=
  match prefixes s with
  | some p => (mods || !p.hasMod) && legal (effective s p)
  | none => false

/-- R37, R39, R66: the instruction is illegal with these prefixes and formats. -/
def checkPrefix (i : Instr) (mods : Bool) (legal : Eff → Bool) : Check :=
  stopIf (fun s => !prefixOk mods legal s) (trapIllegal i)

/-- Formats that `vcvt` and a CONVERT transfer take (R158, R349). -/
def convertFmt (f : Nat) : Bool := decide (f ≤ 5) || (decide (8 ≤ f) && decide (f ≤ 16))

/-- Formats whose elements vector loads and stores move (R158). -/
def movableFmt (f : Nat) : Bool := decide (f ≤ 4) || f == 6 || (decide (8 ≤ f) && decide (f ≤ 15))

/-! ## Elements (R67, R134) -/

/-- Element i of width w bits. -/
def elemAt (w v i : Nat) : Nat := (v >>> (i * w)) % 2 ^ w

def elemsOf (w v n : Nat) : List Nat := (List.range n).map (elemAt w v)

/-- Elements packed from bit 0 up. -/
def packElems (w : Nat) : List Nat → Nat
  | [] => 0
  | e :: rest => e % 2 ^ w + 2 ^ w * packElems w rest

/-- Registers of a vector group of width field W (R26). -/
def groupRegs (w : BitVec 2) : Nat := 2 ^ w.toNat

def vSource (base : RegIdx) (w : BitVec 2) (e : Bool) : Source := (vGroup base.toNat (groupRegs w), e)

/-- The value of a vector group of width field W. -/
def vval (s : State) (base : RegIdx) (w : BitVec 2) : Nat := groupValue s base.toNat (groupRegs w)

/-- The v0 group and, where it keeps elements, d: what M = 1 adds to the read set (R136). -/
def maskSources (a : VT) (keepsD : Bool) : List Source :=
  if a.m then (if keepsD then [vSource a.d a.w false] else []) ++ [vSource 0 a.w false] else []

/-- Bit 0 of each mask element, or all active (R28, R136). -/
def activeBits (s : State) (a : VT) (w n : Nat) : List Bool :=
  let m := vval s 0 a.w
  (List.range n).map fun i => !a.m || elemAt w m i % 2 == 1

/-! ## Tile operands (R174 to R179) -/

/-- A shape (R175). -/
structure Shape where
  fmt : Nat
  cols : Nat
  rows : Nat
  deriving DecidableEq, Repr

def shapeOf (v : BitVec 22) : Shape :=
  { fmt := v.toNat / 2 ^ 17, cols := v.toNat / 2 ^ 8 % 2 ^ 9, rows := v.toNat % 2 ^ 8 }

/-- The physical tile that a field names (R179). -/
def physTile (s : State) (f : Nat) : Nat := if s.hart.priv = .user then s.user.tbaseReg.toNat + f else f

/-- The number of tile fields that name a register (R179). -/
def usableTiles (s : State) : Nat :=
  if s.hart.priv = .user then min s.user.tcount.toNat (16 - s.user.tbaseReg.toNat) else 16

/-- Whether every register of a span is at hand (R179). -/
def tilesInCount (s : State) (f span : Nat) : Bool := decide (f + span ≤ usableTiles s)

/-- The shape of the tile that a field names; a field beyond physical 15 has none (assumption 26). -/
def tileShape (s : State) (f : Nat) : Shape := shapeOf (s.user.tshape.getD (physTile s f) 0)

/-- Whether the field names a physical register. -/
def tileExists (s : State) (f : Nat) : Bool := decide (physTile s f < 16)

def Shape.rowBytes (h : Shape) : Nat := h.cols * fmtWidth h.fmt / 8

def Shape.bytes (h : Shape) : Nat := h.rows * h.cols * fmtWidth h.fmt / 8

/-- The span of a source of this shape (R174). -/
def Shape.span (h : Shape) : Nat := ceilDiv h.bytes 8192

/-- R176, for an operand of the given span. -/
def Shape.valid (h : Shape) (span : Nat) : Bool :=
  decide (1 ≤ h.rows) && decide (h.rows ≤ 64) && decide (1 ≤ h.cols) && decide (h.cols ≤ 256)
    && decide (h.cols * fmtWidth h.fmt % 8 = 0) && decide (h.bytes ≤ span * 8192)

/-- R176, for a source: at most a pair of registers. -/
def Shape.validSource (h : Shape) : Bool := h.valid 2

/-- A source of span 2 at an odd tile number is illegal (R174). -/
def srcAligned (f : Nat) (h : Shape) : Bool := h.span != 2 || f % 2 == 0

/-- The element in row r, column c of a tile group read as one number (R176). -/
def tileElem (h : Shape) (v r c : Nat) : Nat := elemAt (fmtWidth h.fmt) v (r * h.cols + c)

/-- The registers that a tile field and span name, as physical numbers. -/
def tileRegs (s : State) (f span : Nat) : List RegName := mGroup (physTile s f) span

def mSource (s : State) (f span : Nat) (e : Bool) : Source := (tileRegs s f span, e)

/-- The value of a tile operand. -/
def tval (s : State) (f span : Nat) : Nat := tileValue s (physTile s f) span

/-- ARRAY_STATE (cause 29) reports the instruction word (R54). -/
def trapArray (i : Instr) : State → State := trap 29 (wordOf i)

/-- The tiles that queued and executing matrix commands have locked for reading (R190). -/
def ArrayCmd.locks (c : ArrayCmd) : List Nat := c.sources

def lockedTiles (s : State) : List Nat :=
  (s.arr.queue.flatMap ArrayCmd.locks) ++ (match s.arr.running with | some c => c.locks | none => [])

/-- A tile destination stalls while it is EMPTY or read-locked (R51, R190). -/
def checkTileDest (f : State → List RegName) : Check := fun s =>
  let regs := f s
  if regs.any fun r => (regState s r).isEmpty || (match r with | .m n => (lockedTiles s).contains n | .x _ | .v _ => false)
  then some (hold (.dest regs) s) else none

end Sys2Proof.Machine
end

