-- ==== Sys2Proof/Machine/Schedule.lean ====
section
/-!
DEFINITION. What moves next: the hart's boundaries, its instruction fetch, and the order of the other agents' steps
(assumptions 1, 4 and 13).
-/
namespace Sys2Proof.Machine

/-! ## The hart -/

/-- The actor of the dispatched handler is not live under its name (R476). -/
def contextIsDead (s : State) : Bool := s.act.name != 0 && !isLive s s.act.name

/-- At a U-mode boundary a held death takes effect, and a run whose actor is no longer live ends (R476). -/
def heldDeath (s : State) : Option Instr :=
  if s.hart.priv == .user && !s.hart.disp && s.act.name != 0 && hartAtBoundary s then
    match (liveActor s s.act.name).bind fun a => a.held with
    | some d => some (.killRequest
        { target := s.act.name, reason := d.reason, detail := d.detail, origin := d.origin, cascade := d.cascade
          pid := s.sup.pid, jobOnly := false })
    | none =>
      if contextIsDead s then some (.killRequest
        { target := s.act.name, reason := 0, detail := 0, origin := 0, cascade := false, pid := s.sup.pid, jobOnly := false })
      else none
  else none

/-- hrem has reached 0 in U-mode, and the hart is at a boundary (R101). -/
def budgetOut (s : State) : Bool :=
  s.hart.priv == .user && !s.hart.disp && s.act.name != 0 && s.sup.hrem == 0 && hartAtBoundary s

/-- The reservation is lost 256 clocks after the lr (R22). -/
def reservationOld (s : State) : Bool :=
  match s.hart.resv with
  | some (_, t) => decide (t + 256 ≤ s.sched.clock)
  | none => false

/-- A source wait repeats its check once no source is EMPTY or some source is FAULTED (R50). -/
def sourcesMoved (s : State) (regs : List RegName) : Bool :=
  (regs.all fun r => !(regState s r).isEmpty) || regs.any fun r => (regState s r).isFaulted

/-- Whether a destination is EMPTY or read-locked (R51, R190). -/
def destBusy (s : State) (r : RegName) : Bool :=
  (regState s r).isEmpty || (match r with | .m n => (lockedTiles s).contains n | .x _ | .v _ => false)

/-- What a step finds to execute at the pc. -/
inductive Fetched where
  | word (w : IWord)
  | fault (cause : BitVec 6)
  deriving DecidableEq, Repr

/-- Words that the instruction cache holds: 32 KiB (R12, R22). -/
def icacheWords : Nat := 8192

/-- A word enters the instruction cache; when the cache is full, a word that the manual does not name leaves it
(assumption 11). -/
def cacheWord (key : Nat) (w : IWord) (s : State) : State :=
  if s.stn.icache.length < icacheWords then { s with stn := { s.stn with icache := Tab.put s.stn.icache key w } }
  else
    let r := freshFree s
    let kept := r.2.stn.icache.eraseIdx (r.1.toNat % icacheWords)
    { r.2 with stn := { r.2.stn with icache := Tab.put kept key w } }

/-- Instruction fetch (R22, R208, R209, R238, R239): only TRANSLATED addresses are executable; the word comes from the
instruction cache when it holds it (assumption 11). A word that the cache cannot read gives cause 1 (R423). -/
def fetch (s : State) : Fetched × State :=
  let pc := s.hart.pc
  if classOf pc ≠ .translated then (.fault 1, s)
  else
    match translate s (stationOf (ownCore s)) s.sup.pid pc .fetch with
    | (s1, .error (d, _)) => (.fault (if d = dPageInvalid then 12 else 1), s1)
    | (s1, .ok x) =>
      if s1.stn.badLines.contains x.key then
        (.fault 1, { s1 with stn := { s1.stn with
          badLines := s1.stn.badLines.filter fun k => k != x.key, icache := Tab.drop s1.stn.icache x.key } })
      else
        match Tab.find? s1.stn.icache x.key with
        | some w => (.word w, s1)
        | none =>
          if poisoned s1 x.key 4 then (.fault 1, s1)
          else
            let w := wordOfBytes (readKey s1 x.key 4)
            (.word w, cacheWord x.key w s1)

/-- The instruction at the pc (R23). -/
def instructionAt (s : State) : Instr × State :=
  match fetch s with
  | (.fault c, t) => (.instructionFetchFault c s.hart.pc, t)
  | (.word w, t) =>
    match decode w with
    | .ok i => (i, t)
    | .error _ => (.illegalInstructionWord w, t)

/-- The instruction at the pc is tried. -/
def tryInstruction (s : State) : Instr × State := instructionAt { s with hart := { s.hart with again := false } }

/-- Whether the hart can move from where it is held, apart from traps and deaths. -/
def hartReady (s : State) : Option (Instr × State) :=
  match s.hart.wait with
  | .wfi => if pendingEnabled s ≠ 0 then some (.wfiWake, s) else none
  | .source regs => if sourcesMoved s regs then some (.sourceWaitEnds, s) else none
  | .dest regs => if regs.any (destBusy s) then none else some (.destinationWaitEnds, s)
  | .issue n _ | .csr n => if n = s.sched.events then none else some (.issueStallEnds, s)
  | .response | .registration => if s.hart.answer = .none then none else some (tryInstruction s)
  | .runEnd _ => if !runEnding s && dispatchReady s then some (.dispatch, s) else none
  | .none =>
    if s.hart.disp then
      if !boundedOutstanding s && dispatchReady s then some (.dispatch, s) else none
    else
      match s.hart.x0.find? fun w => !w.atReturn && w.next == s.hart.pc with
      | some w => if w.failed.isSome then some (.sourceWaitEnds, s) else none
      | none => some (tryInstruction s)

/-- Whether the cores run at all (R1, R434, R435, R436). -/
def coresRun (s : State) : Bool := s.ras.powered && s.ras.corePower && !s.ras.stopped && !s.ras.romHeld

/-- Whether this hart runs: its core is neither power-gated nor being retired, and its number is not vacant (R426,
R428, R434). -/
def hartRuns (s : State) : Bool :=
  let n := ownCore s
  coresRun s && !s.ras.gated.contains n && !s.ras.sparing.contains n && !s.ras.vacant.contains n

/-- The hart's next step, if it can take one. -/
def hartNext (s : State) : Option (Instr × State) :=
  if !hartRuns s then none
  else
    match heldDeath s with
    | some i => some (i, s)
    | none =>
      if budgetOut s then some (.budgetExpiry, s)
      else if reservationOld s then some (.reservationExpiry, s)
      else
        match interruptToTake s with
        | some _ => some (.interruptTaken, s)
        | none => hartReady s

/-! ## The order of the other agents' steps (R222, R224, R378, R408) -/

/-- The locations that a step at a home touches, and whether it writes. -/
def homeAccess : Instr → Option (Nat × Nat × Bool)
  | .homeRead k n _ => some (k, n, false)
  | .homeWrite k b _ => some (k, b.length, true)
  | .homeAtomic k _ n _ _ _ => some (k, n, true)
  | _ => none

/-- The counter that a step at a bank acts on: package, cluster and index of its handle (R248). -/
def bankAccess : Instr → Option Nat
  | .homeCadd h _ _ _ | .homeCset h _ _ _ | .homeCpoll h _ _ | .homeCwait h _ _ _ | .homeCarm h _ _ _ _
  | .homeCfree h _ _ => some (h.toNat / 2 ^ 30)
  | _ => none

/-- The cluster whose bank allots a counter (R251). -/
def allotAccess : Instr → Option Nat
  | .homeCalloc i _ => some i.cluster
  | _ => none

/-- The core of a name. -/
def coreOf (s : State) (n : Word) : Nat := coreIndex s (namePkg n) (nameCore n)

/-- The near core of an actor's traffic; that of a hart with no actor is its own. -/
def nearCore (s : State) (n : Word) : Nat := if n = 0 then ownCore s else coreOf s n

/-- The member cores of a cohort, from its first (R311, R314). -/
def cohortCores (ctl : Word) : Nat × Nat :=
  let inst := field ctl 36 8
  if field ctl 60 3 = 1 then (16 * inst, 16) else if field ctl 60 3 = 2 then (512 * inst, 512) else (0, 4096)

/-- The near and the far core of traffic between actors (R333, R378), and how many cores from the far one on it still
reaches. -/
def corePair (s : State) : Instr → Option (Nat × Nat × Nat)
  | .recordAdmit r => some (nearCore s r.sender, coreOf s r.dst, 1)
  | .linkSignal g | .directSignal g => some (coreOf s g.frm, coreOf s g.dst, 1)
  | .linkInstall r | .linkRemoval r => some (coreOf s r.near, coreOf s r.far, 1)
  | .killRequest k => some (nearCore s k.near, coreOf s k.target, 1)
  | .spawnAtTarget q => some (nearCore s q.spawner, coreIndex s (field q.ctl 48 12) (field q.ctl 36 12), 1)
  | .cohortSpawnAtMember q m _ _ =>
    let g := cohortCores q.ctl
    some (nearCore s q.spawner, coreIndex s (field q.ctl 48 12) (g.1 + m), g.2 - m)
  | .childRestart sup i =>
    (findSup s sup).bind fun u => (u.children[i]?).map fun c => (coreOf s sup, coreOf s (childPlace s u c), 1)
  | _ => none

/-- Traffic from one core to another keeps its order; other traffic does not (R378). -/
def samePair (s : State) (a b : Instr) : Bool :=
  match corePair s a, corePair s b with
  | some (n, f, k), some (n', f', k') => n == n' && decide (f < f' + k') && decide (f' < f + k)
  | _, _ => false

/-- The core whose exit engine takes a walk: it handles one actor at a time, in order of entry (R379). -/
def walkCore (s : State) : Instr → Option Nat
  | .exitWalk name => some (actorIx s name / 1024)
  | _ => none

/-- Traffic of the host takes effect in its order of arrival: BAR2 writes come before a later counter add or TAIL write
(R229, R419). -/
def isHostTraffic : Instr → Bool
  | .hostCounterAdd _ _ _ | .hostCounterRead _ _ _ | .hostArmThresholdWrite _ _ _ | .hostQueueEnable _ _ _ _
  | .hostQueueDisable _ | .hostQueueTailWrite _ _ | .doorbellWrite _ _ | .bar2Write _ _ | .bar2Read _ _ _ => true
  | _ => false

/-- Two steps for the same resource. -/
def sameOf {α : Type} [BEq α] (x y : Option α) : Bool :=
  match x, y with
  | some a, some b => a == b
  | _, _ => false

/-- Whether an earlier step must come before a later one. -/
def ordered (s : State) (a b : Instr) : Bool :=
  (match homeAccess a, homeAccess b with
    | some (k, n, w), some (k', n', w') => (w || w') && overlaps k n k' n'
    | _, _ => false)
  || sameOf (bankAccess a) (bankAccess b) || sameOf (allotAccess a) (allotAccess b) || samePair s a b
  || sameOf (walkCore s a) (walkCore s b) || (isHostTraffic a && isHostTraffic b)

/-- A cohort spawn that goes on from member to member. -/
def isCohort : Instr → Bool
  | .cohortSpawnAtMember _ _ _ _ => true
  | _ => false

/-- Steps within one package are ordered so; packets are ordered by their streams (R408). What the spawner sends behind a
cohort spawn comes to a member after its first record, also in a packet (R333). -/
def orderedEntries (s : State) (x y : Entry) : Bool :=
  x.via.isNone && x.place == y.place &&
    ((y.via.isNone && ordered s x.ev y.ev) || (isCohort x.ev && samePair s x.ev y.ev))

/-- A member of a group load reads its clearing after the hart's earlier stores to it (R229). -/
def memberReady (s : State) : Instr → Bool
  | .groupMemberRead job _ _ => (drainStores s).all fun e => !e.scratch || decide (job < e.id)
  | _ => true

/-- A deadline waits for a request that is still behind a release. -/
def deadlineReady (s : State) : Instr → Bool
  | .cwaittDeadline job => s.off.drain.all fun
    | .release _ es => es.all fun e => !isRequestFor (.job job 0) e.ev
    | .store _ | .trapx _ _ _ | .atomic _ _ | .sent _ _ => true
  | _ => true

/-- Whether a row of a transfer touches a scratchpad range. -/
def rowTouches (base stride : Word) (len lo hi : Nat) : Nat → Bool
  | 0 => false
  | n + 1 =>
    let a := (base + stride * BitVec.ofNat 64 n).toNat
    (decide (a < hi) && decide (lo < a + len)) || rowTouches base stride len lo hi n

/-- Fields of a shadow-set snapshot (R345 to R347). -/
def snapMode (v : Vector Word 12) : Nat := field v[6] 0 4
def snapRows (v : Vector Word 12) : Nat := field v[3] 0 32
def snapRing (v : Vector Word 12) : Nat := max 1 (field v[3] 32 16)
def snapLen (v : Vector Word 12) : Nat := v[2].toNat
def snapFmt (v : Vector Word 12) : Nat := field v[6] 8 5
def snapDfmt (v : Vector Word 12) : Nat := field v[6] 13 5
def snapSkip (v : Vector Word 12) : Bool := bit v[6] 18
def snapMcast (v : Vector Word 12) : Bool := bit v[6] 19
def snapMask (v : Vector Word 12) : Nat := field v[6] 20 16

/-- Bytes of a destination row (R355). -/
def destLen (v : Vector Word 12) : Nat :=
  if snapMode v = 5 then snapLen v * fmtWidth (snapDfmt v) / fmtWidth (snapFmt v) else snapLen v

/-- Distinct destination rows. -/
def destRows (v : Vector Word 12) : Nat := if snapMode v = 3 then min (snapRows v) (snapRing v) else snapRows v

/-- Bytes of the count plane (R352). -/
def countLen (v : Vector Word 12) : Nat := snapRows v * (snapLen v * 8 / fmtWidth (snapFmt v)) * 4

/-- Whether the transfer touches bytes of its own core's scratchpad in [lo, hi) (R356, R362). -/
def touchesLocal (member : Nat) (v : Vector Word 12) (lo hi : Nat) : Bool :=
  let mode := snapMode v
  let own := !snapMcast v || decide (snapMask v / 2 ^ member % 2 = 1)
  if mode = 4 then let n := field v[0] 0 6; decide (n * 0x2000 < hi) && decide (lo < (n + 1) * 0x2000)
  else
    (mode != 2 && rowTouches v[0] v[4] (snapLen v) lo hi (snapRows v))
      || (own && rowTouches v[1] v[5] (destLen v) lo hi (destRows v))
      || (mode == 1 && snapSkip v && rowTouches v[11] 0 (countLen v) lo hi 1)
      || (mode == 2 && rowTouches v[11] 0 (4 * snapRows v) lo hi 1)

/-- A move waits until the hart's earlier stores to the slot are performed and no active transfer touches it (R356). -/
def moveReady (s : State) : Instr → Bool
  | .move m =>
    m.start.isSome ||
    let lo := m.slot.toNat * 0x2000
    let hi := lo + 0x2000
    let own : Nat → Bool := fun id => m.replyTo == .transfer id
    ((drainStores s).all fun e => !e.scratch || decide (hi ≤ e.addr.toNat) || decide (e.addr.toNat + 64 ≤ lo))
      && s.transfers.all fun t => own t.id || t.reply.isSome || t.st != .active
          || !touchesLocal (ownMember s) t.snap lo hi
  | _ => true

/-- Whether a collective entry has a send that has not been acknowledged (R370). -/
def collBusy (c : Coll) : Bool := (c.st == .active || c.st == .failed) && c.dests.any fun d => !d.acked

/-- The end of the actor's run on this hart goes on (R102). -/
def runEndsFor (s : State) (name : Word) : Bool := s.hart.wait == .runEnd name && runEnding s

/-- An exit walk comes after the end of its actor's run (R102, R320). One that has stopped its actor's transfers and
collective entries waits for those (R362, R370); on a core that is being retired it waits for the core that adopts its
number (R428). -/
def walkReady (s : State) : Instr → Bool
  | .exitWalk name => !s.ras.sparing.contains (actorIx s name / 1024) && !runEndsFor s name
      && (s.colls.all fun c => c.owner != name || !c.clearing || !collBusy c)
      && s.transfers.all fun t => t.actor != name || !t.stop
  | _ => true

/-- A restart into a slot that is EXITING waits for the walk (R396), and a round for the kills of its siblings (R395). -/
def restartReady (s : State) (e : Entry) : Bool :=
  match e.via, e.ev with
  | none, .childRestart sup _ =>
    ((restartSlot s e).all fun ix => (actorAt s ix).st != .exiting)
      && (findSup s sup).all fun u => s.sched.agenda.all fun x => match x.ev with
          | .killRequest k => k.reason != 0x08 || !u.replaced.contains k.target
          | _ => true
  | _, _ => true

/-- A contribution that its source holds, or sends again, waits until a further one may be unanswered (R411). -/
def resendReady (s : State) : Instr → Bool
  | .contributionResend c => contributionFits s (pkgOfCluster s c.dst)
  | _ => true

/-- A run is over by the clock 8,192 clocks after its grant (R184). -/
def timeoutReady (s : State) : Instr → Bool
  | .leaseRunTimeout m =>
    let l := leaseOf s m.toNat
    l.st != .held || decide (l.grantedAt + 8192 ≤ s.sched.clock)
  | _ => true

/-- The adoption of this core's number waits for the stores of the hart that has stopped (R428). -/
def retireReady (s : State) : Instr → Bool
  | .coreRetirement core (.ends _) => core != s.coreid || s.off.drain.isEmpty || s.sup.dheld
  | _ => true

def isReset : Instr → Bool
  | .packageReset => true
  | _ => false

/-- Whether entry n of the agenda may move. -/
def eligible (s : State) (n : Nat) : Bool :=
  match s.sched.agenda[n]? with
  | none => false
  | some e =>
    (s.ras.powered || isReset e.ev)
      && (s.sched.agenda.take n).all (fun x => !orderedEntries s x e)
      && streamReady s e && memberReady s e.ev && deadlineReady s e.ev && (e.via.isSome || moveReady s e.ev)
      && walkReady s e.ev && restartReady s e && resendReady s e.ev && timeoutReady s e.ev && retireReady s e.ev

/-- Steps that the rules repeat at an interval wait for a clock that is a multiple of 256 (R258, R371). -/
def isPatient : Instr → Bool
  | .waiterRetry _ _ _ _ | .contributionResend _ => true
  | _ => false

/-- The entry that moves first when nothing in State.sched.turns says otherwise (assumption 4). -/
def defaultEntry (s : State) : Option Nat :=
  (List.range s.sched.agenda.length).find? fun n => eligible s n &&
    (s.sched.clock % 256 == 0 || match s.sched.agenda[n]? with | some e => !isPatient e.ev | none => false)

/-! ## The hang detector's conditions (R277) -/

/-- Whether the hart is blocked in the sense of R277. DEDUCED: a wait for a producer with destination x0 (R48) counts
(assumption 107). -/
def hartBlocked (s : State) : Bool :=
  match s.hart.wait with
  | .source _ | .csr _ => true
  | .dest regs => regs.any fun r => (regState s r).isEmpty
  | .issue _ b => b
  | .response | .registration | .wfi | .runEnd _ => false
  | .none => s.hart.again || s.hart.x0.any fun w => !w.atReturn && w.next == s.hart.pc

/-- The context is TRAPPED or SAVED (R98): privileged code serves a trap that was taken from it. -/
def contextAway (s : State) : Bool :=
  s.hart.priv != .user && (s.act.name != 0 || s.sup.dfrom || s.sup.mdfrom)

/-- Whether a contribution is being retried: it counts as neither sending nor combining (R376, assumption 74). -/
def beingRetried (s : State) (c : Contribution) : Bool :=
  s.colls.any fun e => e.cluster == c.src && e.pid == c.pid && e.colid == c.colid
    && e.dests.any fun d => d.cluster == c.dst && d.retried

/-- The PID of a request's issuer. -/
def issuerPid (i : Issuer) : Option Pid := if i.anyJob then none else some i.pid

/-- The job that an answer is for, where it is one of this package's (R277). -/
def replyPid (s : State) : ReplyTo → Option Pid
  | .job _ _ | .hart | .drain _ => some s.sup.pid
  | .transfer id => (s.transfers.find? fun t => t.id == id).map fun t => t.pid
  | .collective _ pid _ => some pid
  | .arm core => if core = ownCore s then some s.sup.pid else none
  | .none | .hostArm _ | .host _ | .over _ _ => none

/-- The PID of an actor that a message names. -/
def actorPid (s : State) (n : Word) : Option Pid := some (actorAt s (actorIx s n)).pid

/-- The job whose request or response a step is (R277); a waiter that is registered, a deadline and a step that is no
request or response are of no job, and so is a contribution that is being retried. -/
def requestPid (s : State) : Instr → Option Pid
  | .homeRead _ _ r | .homeWrite _ _ r | .homeAtomic _ _ _ _ _ r => replyPid s r
  | .stationTranslate pid _ _ _ => some pid
  | .homeCalloc i _ | .homeCadd _ _ i _ | .homeCset _ _ i _ | .homeCpoll _ i _ | .homeCwait _ _ i _
  | .homeCarm _ _ i _ _ | .homeCfree _ i _ | .waiterRetry _ _ i _ => issuerPid i
  | .waiterWithdrawal r | .armFiringArrives r => replyPid s r
  | .producerCompletion _ _ _ | .counterResponseArrival _ | .groupMemberRead _ _ _ => some s.sup.pid
  | .recordAdmit r => some r.pid
  | .spawnAtTarget q | .cohortSpawnAtMember q _ _ _ => some q.pid
  | .killRequest k => some k.pid
  | .linkInstall r | .linkRemoval r => some r.pid
  | .linkSignal g | .directSignal g => actorPid s g.dst
  | .move m => some m.pid
  | .collectiveFire _ pid _ => some pid
  | .contributionArrival c | .contributionResend c => if beingRetried s c then none else some c.pid
  | .childRestart sup _ => some (supPid s sup)
  | .canswerArrival c accepted => if !accepted && beingRetried s c then none else some c.pid
  | _ => none

/-- A request or response of the job is in flight in this package or on its ports (R277). -/
def inFlight (s : State) (e : Entry) : Bool :=
  match e.via with
  | some a => if s.sup.pid = a.pid then (requestPid s e.ev).isSome || a.answer.isSome else false
  | none => requestPid s e.ev == some s.sup.pid

/-- The conditions of R277 for the job of this hart, its only hart in the model. -/
def hangConditions (s : State) : Bool :=
  s.sup.hangen && s.sup.pid != 0 && !s.hart.disp && hartBlocked s && !contextAway s
    && (s.transfers.all fun t => t.pid != s.sup.pid || t.st != .active)
    && (s.sched.agenda.all fun e => !inFlight s e)
    && (s.off.drain.isEmpty || s.sup.dheld)
    && (s.actors.sups.all fun u => u.pid != s.sup.pid || u.st == .steady)
    && (s.host.queues.all fun (_, q) => (q.state != 1 && q.state != 2) || q.tail == q.head || (actorAt s (actorIx s q.actor)).pid != s.sup.pid)

/-- The span over which the conditions have held without a break (R278). -/
def watchHang (s : State) : State :=
  if hangConditions s then
    { s with ctr := { s.ctr with hangSince := some (s.ctr.hangSince.getD s.ctr.timeline) } }
  else { s with ctr := { s.ctr with hangSince := none, hangDone := false } }

/-! ## One step -/

/-- What every step does first: the step clock, mcycle, hrem while a handler runs in U-mode (R101), and the watch of the
hang detector. -/
def advance (s0 : State) : State :=
  let s := watchHang s0
  let running := s.hart.priv == .user && !s.hart.disp && s.act.name != 0 && s.sup.hrem != 0
  { s with
    sched := { s.sched with clock := s.sched.clock + 1, place := none, packet := none }
    mach := { s.mach with mcycle := s.mach.mcycle + 1 }
    sup := { s.sup with hrem := if running then s.sup.hrem - 1 else s.sup.hrem } }

/-- Nothing can move: time passes (assumption 13). -/
def idle (s : State) : Instr × State := (.timelineTick 1, s)

/-- A step of another agent happened: stalls at issue look again. -/
def seen (s : State) : State := { s with sched := { s.sched with events := s.sched.events + 1 } }

/-- Entry n of the agenda moves. -/
def entryMoves (n : Nat) (s : State) : Instr × State :=
  match s.sched.agenda[n]? with
  | none => idle s
  | some e =>
    let s1 := seen { s with sched := { s.sched with agenda := s.sched.agenda.eraseIdx n, place := e.place } }
    match deliver e s1 with
    | (some i, t) => (i, t)
    | (none, t) => (.timelineTick 0, t)

/-- The drain queue moves. -/
def drainMoves (s : State) : Instr × State :=
  match s.off.drain with
  | .release _ _ :: _ | .trapx _ _ _ :: _ | .atomic _ _ :: _ | .sent _ _ :: _ => (.releaseTakesEffect, seen s)
  | .store _ :: _ | [] => (.drainEntryPerformed, seen s)

def hartMoves (s : State) : Instr × State := (hartNext s).getD (idle (seen s))

/-- The step that comes next, and the state in which it is taken. -/
def nextStep (s : State) : Instr × State :=
  match s.sched.turns with
  | t :: rest =>
    let s1 := advance { s with sched := { s.sched with turns := rest } }
    if t = 0 then hartMoves s1
    else if t = 1 then (if drainReady s1 then drainMoves s1 else idle (seen s1))
    else if eligible s1 (t - 2) then entryMoves (t - 2) s1 else idle (seen s1)
  | [] =>
    let s1 := advance s
    match defaultEntry s1 with
    | some n => entryMoves n s1
    | none => if drainReady s1 then drainMoves s1 else hartMoves s1

/-- A package without power takes no step but a reset (R436). -/
def stuck (s : State) : Bool := !s.ras.powered && !(s.sched.agenda.any fun e => isReset e.ev)

end Sys2Proof.Machine
end

