-- ==== Sys2Proof/Machine/Counter.lean ====
section
/-!
DEFINITION. Counters (chapter 10): handles, banks, waiters and arms, the counter instructions, and the steps of the
banks and of the timeline.
-/
namespace Sys2Proof.Machine

/-! ## Handles (R248) -/

def hPkg (h : Word) : Nat := field h 52 12
def hCluster (h : Word) : Nat := field h 44 8
def hIndex (h : Word) : Nat := field h 30 14
def hCheck (h : Word) : BitVec 30 := h.extractLsb' 0 30

def mkHandle (pkg cluster index : Nat) (check : BitVec 30) : Word :=
  place pkg 52 ||| place cluster 44 ||| place index 30 ||| place check.toNat 0

/-- The key of a counter: 16,384 indices to a cluster of the pod. -/
def counterKey (s : State) (h : Word) : Nat := clusterIndex s (hPkg h) (hCluster h) * 16384 + hIndex h

/-! ## Counters (R249 to R253) -/

/-- A counter that was never allocated. -/
def Counter.zero : Counter := { st := .free, value := 0, check := 0, owner := 0, pid := 0, worn := false }

/-- The timeline of a bank (R249); a peer's is not synchronised with ours (assumption 23). -/
def timelineAt (s : State) (cluster : Nat) : Word :=
  if cluster < 256 then s.ctr.timeline else s.ctr.timeline + Config.peerTimelineOffset (pkgOfCluster s cluster)

/-- A counter as its home sees it. Index 0 is the timeline, which is never FREE. -/
def counterAt (s : State) (key : Nat) : Counter :=
  if key % 16384 = 0 then { Counter.zero with st := .live, value := timelineAt s (key / 16384) }
  else Tab.getD s.ctr.cells key Counter.zero

def setCounter (key : Nat) (c : Counter) (s : State) : State :=
  { s with ctr := { s.ctr with cells := Tab.put s.ctr.cells key c } }

def bankAt (s : State) (cluster : Nat) : Bank := Tab.getD s.ctr.banks cluster { fresh := 1, freed := [] }

def setBank (cluster : Nat) (b : Bank) (s : State) : State :=
  { s with ctr := { s.ctr with banks := Tab.put s.ctr.banks cluster b } }

/-- Why an operation on a handle fails before it acts (R250, R269). -/
def matchFail (s : State) (h : Word) (src : Issuer) : Option Detail :=
  let c := counterAt s (counterKey s h)
  if hIndex h = 0 then none
  else if c.st = .free ∨ c.check ≠ hCheck h ∨ (!src.anyJob ∧ c.pid ≠ src.pid) then some dStaleCounter
  else if c.st = .poisoned then some dMemoryUncorrectable
  else none

/-! ## Waking (R257, R259) -/

/-- Insertion by threshold; equal thresholds keep their order of registration. -/
def insertWaiter (w : Waiter) : List Waiter → List Waiter
  | [] => [w]
  | v :: rest => if w.threshold.toNat < v.threshold.toNat then w :: v :: rest else v :: insertWaiter w rest

def sortWaiters (l : List Waiter) : List Waiter := l.foldl (fun acc w => insertWaiter w acc) []

/-- The package of the home that acts. -/
def homePkg (s : State) : BitVec 12 := BitVec.ofNat 12 (herePkg s)

/-- A waiter is woken with v, or an arm fires. -/
def wakeOne (v : Word) (s : State) (w : Waiter) : State :=
  wakeUp (pkgOfCluster s (w.counter / 16384)) w.issuer.pid w.replyTo (.value v) s

/-- Every waiter and arm of the counter that v reaches is woken and removed, in ascending threshold. -/
def wake (key : Nat) (v : Word) (s : State) : State :=
  let reached (w : Waiter) : Bool := w.counter == key && decide (w.threshold.toNat ≤ v.toNat)
  let woken := sortWaiters (s.ctr.waiters.filter reached)
  woken.foldl (wakeOne v) { s with ctr := { s.ctr with waiters := s.ctr.waiters.filter fun w => !reached w } }

/-- The counter leaves LIVE: its waiters complete with a failure and its arms are dropped without firing (R253). -/
def dropWaiters (key : Nat) (d : Detail) (s : State) : State :=
  let here := s.ctr.waiters.filter fun w => w.counter == key
  let pkg := pkgOfCluster s (key / 16384)
  here.foldl (fun t w => if w.isArm then armEnds w.replyTo t
      else wakeUp pkg w.issuer.pid w.replyTo (.failed d (BitVec.ofNat 12 pkg)) t)
    { s with ctr := { s.ctr with waiters := s.ctr.waiters.filter fun w => w.counter != key } }

/-- A counter becomes FREE: the last of its bank's freed indices (R251, R253). -/
def freeCounter (key : Nat) (s : State) : State :=
  let c := counterAt s key
  let b := bankAt s (key / 16384)
  dropWaiters key dStaleCounter
    (setBank (key / 16384) { b with freed := b.freed ++ [key % 16384] }
      (setCounter key { Counter.zero with worn := c.worn } s))

/-- A counter's value has an uncorrectable error (R253). -/
def poisonCounter (key : Nat) (s : State) : State :=
  dropWaiters key dMemoryUncorrectable (setCounter key { counterAt s key with st := .poisoned } s)

/-- The counters that an actor owns are freed (R254). -/
def freeOwned (name : Word) (s : State) : State :=
  (s.ctr.cells.filter fun (_, c) => c.st != .free && c.owner == name && name != 0).foldl
    (fun t (k, _) => freeCounter k t) s

/-! ## The operations (R269) -/

/-- An add to a counter that its issuer may change: the old value, or why it is refused (R261). -/
def addTo (key : Nat) (n : Word) (s : State) : Except Detail (Word × State) :=
  let c := counterAt s key
  if c.value.toNat + n.toNat < 2 ^ 64 then
    .ok (c.value, wake key (c.value + n) (setCounter key { c with value := c.value + n } s))
  else .error dNone

/-- cadd at its home. -/
def applyAdd (h n : Word) (src : Issuer) (s : State) : Except Detail (Word × State) :=
  if hIndex h = 0 then .error dNone
  else
    match matchFail s h src with
    | some d => .error d
    | none => addTo (counterKey s h) n s

/-- Answers with the outcome of an operation that changes the state. -/
def replyOutcome (rto : ReplyTo) (r : Except Detail (Word × State)) (s : State) : State :=
  match r with
  | .ok (v, t) => reply rto (.value v) t
  | .error d => reply rto (.failed d (homePkg s)) s

/-- cset at its home: a POISONED counter is mended, and its old value is lost (R253, R262). -/
def applySet (h v : Word) (src : Issuer) (rto : ReplyTo) (s : State) : State :=
  let key := counterKey s h
  let c := counterAt s key
  let write (t : State) : State := wake key v (setCounter key { c with st := .live, value := v } t)
  if hIndex h = 0 then reply rto (.failed dNone (homePkg s)) s
  else
    match matchFail s h src with
    | none => reply rto (.value c.value) (write s)
    | some d =>
      if d = dMemoryUncorrectable then reply rto (.failed d (homePkg s)) (write s)
      else reply rto (.failed d (homePkg s)) s

/-- Entries of a bank's waiter table in use (R255). -/
def tableUse (s : State) (cluster : Nat) : Nat :=
  (s.ctr.waiters.filter fun w => w.counter / 16384 == cluster).length

def addWaiter (w : Waiter) (s : State) : State := { s with ctr := { s.ctr with waiters := s.ctr.waiters ++ [w] } }

/-- The answer to a wait: to its request, or later to the one who waits, when the request has been answered. -/
def answerWait (late : Bool) (pid : Pid) (rto : ReplyTo) (r : Response) (s : State) : State :=
  if late then wakeUp (herePkg s) pid rto r s else reply rto r s

/-- cwait and cwaitt at their home (R256, R258, R263). A registration is acknowledged (assumption 79); one that the hart
itself waits for is answered with the value, which lies below the threshold (R369). A full table answers retry, and the
request is evaluated again. -/
def applyWait (late : Bool) (h thr : Word) (src : Issuer) (rto : ReplyTo) (s : State) : State :=
  let key := counterKey s h
  let c := counterAt s key
  let acked (t : State) : State := if late then t else acknowledge rto t
  match matchFail s h src with
  | some d => answerWait late src.pid rto (.failed d (homePkg s)) s
  | none =>
    if thr.toNat ≤ c.value.toNat then answerWait late src.pid rto (.value c.value) s
    else if tableUse s (key / 16384) < 1024 then
      let s1 := addWaiter { counter := key, threshold := thr, isArm := false, issuer := src, replyTo := rto } s
      if replyBase rto = .hart then answerWait late src.pid rto (.value c.value) s1 else acked s1
    else post (.waiterRetry h thr src rto) (acked s)

/-- A refused arm. -/
def refuseArm (rto armFor : ReplyTo) (d : Detail) (s : State) : State :=
  reply rto (.failed d (homePkg s)) (armEnds armFor s)

/-- carm and host arm slots at the home: the arm fires at once, is registered, or is refused (R258, R269). -/
def applyArm (h thr : Word) (src : Issuer) (rto armFor : ReplyTo) (s : State) : State :=
  let key := counterKey s h
  let c := counterAt s key
  match matchFail s h src with
  | some d => refuseArm rto armFor d s
  | none =>
    if thr.toNat ≤ c.value.toNat then
      reply rto (.value 0) (wakeOne c.value s
        { counter := key, threshold := thr, isArm := true, issuer := src, replyTo := armFor })
    else if tableUse s (key / 16384) < 1024 then
      reply rto (.value 0)
        (addWaiter { counter := key, threshold := thr, isArm := true, issuer := src, replyTo := armFor } s)
    else refuseArm rto armFor dNone s

/-- The first index from i up that satisfies `ok`. -/
def firstFrom (ok : Nat → Bool) : Nat → Nat → Option Nat
  | 0, _ => none
  | n + 1, i => if ok i then some i else firstFrom ok n (i + 1)

/-- The FREE index that was freed longest ago (R251); a worn one is never chosen (R426). -/
def chooseIndex (s : State) (cluster : Nat) : Option (Nat × Bank) :=
  let b := bankAt s cluster
  let ok (i : Nat) : Bool := !(Tab.getD s.ctr.cells (cluster * 16384 + i) Counter.zero).worn
  match firstFrom ok (16384 - b.fresh) b.fresh with
  | some i => some (i, { b with fresh := i + 1 })
  | none =>
    match b.freed.find? ok with
    | some i => some (i, { b with freed := b.freed.filter fun j => j != i })
    | none => none

/-- calloc at its home: the handle, or 0 with the bank exhausted (R251, R269). -/
def allocCounter (cluster : Nat) (owner : Word) (pid : Pid) (s : State) : Word × State :=
  match chooseIndex s cluster with
  | none => (0, s)
  | some (i, b) =>
    let check : BitVec 30 := nameInc owner
    let c : Counter := { st := .live, value := 0, check := check, owner := owner, pid := pid, worn := false }
    (mkHandle (pkgOfCluster s cluster) (cluster % 256) i check,
      setCounter (cluster * 16384 + i) c (setBank cluster b s))

/-! ## The steps of the banks -/

def execHomeCalloc (issuer : Issuer) (replyTo : ReplyTo) (s : State) : Out :=
  let r := allocCounter issuer.cluster issuer.actor issuer.pid s
  .next (reply replyTo (.value r.1) r.2)

def execHomeCadd (h n : Word) (issuer : Issuer) (replyTo : ReplyTo) (s : State) : Out :=
  .next (replyOutcome replyTo (applyAdd h n issuer s) s)

def execHomeCset (h v : Word) (issuer : Issuer) (replyTo : ReplyTo) (s : State) : Out :=
  .next (applySet h v issuer replyTo s)

def execHomeCpoll (h : Word) (issuer : Issuer) (replyTo : ReplyTo) (s : State) : Out :=
  .next (match matchFail s h issuer with
    | some d => reply replyTo (.failed d (homePkg s)) s
    | none => reply replyTo (.value (counterAt s (counterKey s h)).value) s)

def execHomeCwait (h thr : Word) (issuer : Issuer) (replyTo : ReplyTo) (s : State) : Out :=
  .next (applyWait false h thr issuer replyTo s)

/-- WAITER_RETRY (R258): a new evaluation. -/
def execWaiterRetry (h thr : Word) (issuer : Issuer) (replyTo : ReplyTo) (s : State) : Out :=
  .next (applyWait true h thr issuer replyTo s)

def execHomeCarm (h thr : Word) (issuer : Issuer) (replyTo armFor : ReplyTo) (s : State) : Out :=
  .next (applyArm h thr issuer replyTo armFor s)

/-- cfree: a POISONED counter becomes FREE, as R253 says, and the answer is MEMORY_UNCORRECTABLE, as R269 says
(assumption 81). -/
def execHomeCfree (h : Word) (issuer : Issuer) (replyTo : ReplyTo) (s : State) : Out :=
  .next (if hIndex h = 0 then reply replyTo (.failed dNone (homePkg s)) s
    else
      match matchFail s h issuer with
      | some d =>
        reply replyTo (.failed d (homePkg s))
          (if d = dMemoryUncorrectable then freeCounter (counterKey s h) s else s)
      | none => reply replyTo (.value 0) (freeCounter (counterKey s h) s))

/-- The request of a waiter that has not been registered yet: its handle and issuer. -/
def pendingWait (s : State) (key : Nat × ReplyTo) : Instr → Option (Word × Issuer)
  | .homeCwait h _ i r | .waiterRetry h _ i r => if replyKey s r = key then some (h, i) else none
  | _ => none

/-- WAITER_WITHDRAWAL (R270, R102): a waiter that is still registered is removed and its counter's value is the
response; so is one whose registration is still retried, if its handle still matches; otherwise nothing happens. -/
def execWaiterWithdrawal (replyTo : ReplyTo) (s : State) : Out :=
  let key := replyKey s replyTo
  let mine (w : Waiter) : Bool := !w.isArm && replyKey s w.replyTo == key
  .next (match s.ctr.waiters.find? mine with
    | some w =>
      reply replyTo (.value (counterAt s w.counter).value)
        { s with ctr := { s.ctr with waiters := s.ctr.waiters.filter fun x => !mine x } }
    | none =>
      match s.sched.agenda.findSome? fun e => pendingWait s key e.ev with
      | none => acknowledge replyTo s
      | some (h, src) =>
        let s1 := { s with sched := { s.sched with
          agenda := eraseFirst (fun e => (pendingWait s key e.ev).isSome) s.sched.agenda } }
        reply replyTo (match matchFail s h src with
          | some d => .failed d (homePkg s)
          | none => .value (counterAt s (counterKey s h)).value) s1)

/-- ARM_FIRING_ARRIVES (R260, R275): the core's bit 17 is set, or the host slot sends its MSI-X message. -/
def execArmFiringArrives (armFor : ReplyTo) (s : State) : Out :=
  .next (match armFor with
    | .arm core =>
      let s1 := armEnds (.arm core) s
      if core = ownCore s then setPending 17 s1 else s1
    | .hostArm slot =>
      match Tab.find? s.ctr.hostArms slot with
      | some a =>
        { s with
          ctr := { s.ctr with hostArms := Tab.put s.ctr.hostArms slot { a with state := 2 } }
          host := { s.host with msix := s.host.msix ++ [slot] } }
      | none => s
    | .none | .job _ _ | .hart | .transfer _ | .collective _ _ _ | .host _ | .drain _ | .over _ _ => s)

/-- CWAITT_DEADLINE (R270): a withdrawal goes to the home. -/
def execCwaittDeadline (job : Nat) (s : State) : Out :=
  .next (match s.off.jobs.find? fun j => j.id == job with
    | none => s
    | some j =>
      match j.wait with
      | some w => if w.kind = 2 then postTo (hPkg w.handle) .request (.waiterWithdrawal (.job job 0)) s else s
      | none => s)

/-! ## The timeline (R249) -/

/-- The banks whose timeline somebody waits for. -/
def timelineBanks (s : State) : List Nat :=
  ((s.ctr.waiters.filter fun w => w.counter % 16384 == 0).map (·.counter)).eraseDups

/-- Whether a withdrawal of the wait is on its way, or its answer. -/
def withdrawalOut (s : State) (rto : ReplyTo) : Bool :=
  (s.sched.agenda.any fun e => isCompletionFor rto e.ev || e.ev == .waiterWithdrawal rto
    || e.via.any fun a => a.answer.any fun x => x.1 == rto)
  || s.fab.peers.any fun (_, p) => (p.out.get 0).packets.any fun q => q.ev == .waiterWithdrawal rto

/-- A deadline of a cwaitt that has passed and is not yet on its way. -/
def deadlineDue (s : State) (j : Job) : Bool :=
  match j.wait with
  | some w => w.kind == 2 && decide (w.deadline.toNat ≤ s.ctr.timeline.toNat)
      && !(s.sched.agenda.any fun e => e.ev == .cwaittDeadline j.id) && !withdrawalOut s (.job j.id 0)
  | none => false

/-- Whether a packet has been without an answer for 20 µs (R410). -/
def resendDue (s : State) (q : Packet) : Bool :=
  q.left && !isAnswer q.via && decide (q.sent.toNat + 20000 ≤ s.ctr.timeline.toNat)
    && !s.sched.agenda.any fun e => e.ev == .endToEndResend q.via.dst q.via.channel q.via.rid

/-- The packets that are to be sent again. -/
def resendsDue (s : State) : List Instr :=
  s.fab.peers.flatMap fun (_, p) => p.out.toList.flatMap fun st =>
    (st.packets.filter (resendDue s)).map fun q => .endToEndResend q.via.dst q.via.channel q.via.rid

/-- The loss timer of a peer has run for 500 µs (R413). -/
def lossDue (s : State) (p : Nat × Peer) : Bool :=
  match p.2.timer with
  | some t => !p.2.lost && decide (t.toNat + 500000 ≤ s.ctr.timeline.toNat)
      && !(s.sched.agenda.any fun e => e.ev == .peerLossTimeout (BitVec.ofNat 12 p.1))
  | none => false

/-- The reads of host memory without a completion 450 µs after their issue (R422). -/
def timeoutsDue (s : State) : List Instr :=
  let due (e : Entry) : Bool := hostReadOf (hostReadLate s) e.ev
  let fails (e : Entry) : Instr := .hostCompletionTimeout (replyToOf e.ev)
  ((s.sched.agenda.filter due).map fails).filter fun ev => !s.sched.agenda.any fun e => e.ev == ev

/-- The conditions of R277 have held for 10 µs and the span has not been reported (R278). -/
def hangDue (s : State) : Bool :=
  match s.ctr.hangSince with
  | some t => !s.ctr.hangDone && decide (t.toNat + 10000 ≤ s.ctr.timeline.toNat)
      && !(s.sched.agenda.any fun e => e.ev == .hangReport)
  | none => false

/-- Time passes: the timeline of every bank advances, waiters on it are woken, and what its new value makes due
becomes pending. -/
def timePasses (ns : Nat) (s0 : State) : State :=
  let s := { s0 with ctr := { s0.ctr with timeline := s0.ctr.timeline + BitVec.ofNat 64 ns } }
  let s1 := (timelineBanks s).foldl (fun t k => wake k (timelineAt t (k / 16384)) t) s
  let s2 := postAll ((s1.off.jobs.filter (deadlineDue s1)).map fun j => .cwaittDeadline j.id) s1
  let s3 := postAll (timeoutsDue s2 ++ resendsDue s2 ++ (s2.fab.peers.filter (lossDue s2)).map fun p =>
    .peerLossTimeout (BitVec.ofNat 12 p.1)) s2
  if hangDue s3 then post .hangReport s3 else s3

def execTimelineTick (ns : Nat) (s : State) : Out := .next (timePasses ns s)

/-- HANG_REPORT (R278). -/
def execHangReport (s : State) : Out :=
  .next (match s.ctr.hangSince with
    | some t =>
      if !s.ctr.hangDone && decide (t.toNat + 10000 ≤ s.ctr.timeline.toNat) then
        let r := s.sup.reports
        setPending 18
          { s with
            ctr := { s.ctr with hangDone := true }
            sup := { s.sup with hung := true, reports := if r = BitVec.allOnes 32 then r else r + 1 } }
      else s
    | none => s)

/-! ## The counter instructions (R266 to R273) -/

def issuerOf (s : State) : Issuer :=
  { pid := s.sup.pid, cluster := ownCluster s, actor := s.act.name, anyJob := false }

/-- CErr (R268). -/
def counterError (h : Word) (d : Detail) (s : State) : State :=
  trap 28 h { s with sup := { s.sup with dfpc := s.hart.pc, dfinfo := dfinfoWord (hPkg h) 0 0 3 d } }

/-- cadd, cset and cfree on index 0 (R249). -/
def checkIndex (rs1 : RegIdx) : Check := fun s =>
  if hIndex (xval s rs1) = 0 then some (counterError (xval s rs1) dNone s) else none

/-- A release of the hart whose effect it waits for: rl with aq, or with x0 as destination, or with a response that the
hart stalls for (R221). -/
def checkReleaseWait (waits : Bool) : Check := stopIf (fun s => waits && writesOutstanding s) stall

/-- A release on the same counter that still waits behind the drain queue: operations of one hart on one counter are
applied in issue order (R271). -/
def counterBehind (s : State) (h : Word) : Bool :=
  s.off.drain.any fun
    | .release _ es => es.any fun e => bankAccess e.ev == some (h.toNat / 2 ^ 30)
    | .store _ | .trapx _ _ _ | .atomic _ _ | .sent _ _ => false

/-- The request of a counter instruction goes to the counter's home; a release goes behind the drain queue. -/
def sendCounter (rl : Bool) (h : Word) (ev : Instr) (s : State) : State :=
  let e : Effect := { pkg := hPkg h, ch := .request, ev := ev }
  if rl || counterBehind s h then release [e] s else sendEffect e s

/-- A counter instruction that is a producer: its home's answer fills rd (R268). -/
def counterProducer (i : Instr) (a : RT) (srcs : List RegIdx) (extra : List Check) (h : State → Word)
    (ev : State → ReplyTo → Instr) (wait : State → Option WaitInfo) (after : Nat → State → State) :
    State → Out :=
  instr ([noPrefix i, stopIf (fun s => a.rl && s.sup.dheld) trapDeferredStore,
      checkSources (srcs.map fun r => srcX r false)] ++ extra ++
      [checkDest (dstX a.rd), checkAccess, checkAcquire a.aq, checkReleaseWait (a.rl && (a.aq || a.rd == 0)),
       checkResources])
    fun s =>
      let id := s.off.nextId
      let s1 := sendCounter a.rl (h s) (ev s (.job id 0)) s
      let j : Job := { simpleJob s (.x a.rd.toNat) 3 a.aq with wait := wait s }
      retire (after id (startJob j (nextPc s) s1))

def noWait : State → Option WaitInfo := fun _ => none
def noAfter : Nat → State → State := fun _ s => s

def execCadd (a : RT) : State → Out :=
  counterProducer (.cadd a) a [a.rs1, a.rs2] [checkIndex a.rs1] (fun s => xval s a.rs1)
    (fun s rto => .homeCadd (xval s a.rs1) (xval s a.rs2) (issuerOf s) rto) noWait noAfter

def execCwait (a : RT) : State → Out :=
  counterProducer (.cwait a) a [a.rs1, a.rs2] [] (fun s => xval s a.rs1)
    (fun s rto => .homeCwait (xval s a.rs1) (xval s a.rs2) (issuerOf s) rto)
    (fun s => some { kind := 1, handle := xval s a.rs1, threshold := xval s a.rs2, deadline := 0 }) noAfter

def execCpoll (a : RT) : State → Out :=
  counterProducer (.cpoll a) a [a.rs1] [] (fun s => xval s a.rs1)
    (fun s rto => .homeCpoll (xval s a.rs1) (issuerOf s) rto) noWait noAfter

/-- The deadline of a cwaitt (R267, R268). -/
def cwaittDeadlineOf (s : State) : Word := s.ctr.timeline + s.user.ctimeout.setWidth 64

/-- A limit of 0 makes cwaitt return at once (R267). -/
def deadlineNow (id : Nat) (s : State) : State := if s.user.ctimeout = 0 then post (.cwaittDeadline id) s else s

def execCwaitt (a : RT) : State → Out :=
  counterProducer (.cwaitt a) a [a.rs1, a.rs2] [] (fun s => xval s a.rs1)
    (fun s rto => .homeCwait (xval s a.rs1) (xval s a.rs2) (issuerOf s) rto)
    (fun s => some { kind := 2, handle := xval s a.rs1, threshold := xval s a.rs2, deadline := cwaittDeadlineOf s })
    deadlineNow

/-- A privileged instruction is illegal in U-mode (R34). -/
def checkS (i : Instr) : Check := stopIf (fun s => s.hart.priv == .user) (trapIllegal i)

def execCset (a : RT) : State → Out :=
  fun s => match checkS (.cset a) s with
    | some t => .next t
    | none => counterProducer (.cset a) a [a.rs1, a.rs2] [checkIndex a.rs1] (fun s => xval s a.rs1)
        (fun s rto => .homeCset (xval s a.rs1) (xval s a.rs2) (issuerOf s) rto) noWait noAfter s

def execCalloc (a : RT) : State → Out :=
  counterProducer (.calloc a) a [] [] (fun s => mkHandle s.ras.pkg.toNat (ownCluster s) 0 0)
    (fun s rto => .homeCalloc (issuerOf s) rto) noWait noAfter

/-! ### cfree and carm: the hart stalls for the response -/

/-- The response has arrived: the instruction retires, or CErr (R268). -/
def answered (h : State → Word) : Check := fun s =>
  match s.hart.wait, s.hart.answer with
  | .response, .accepted _ => some (retire s)
  | .response, .failed d => some (counterError (h s) d s)
  | _, _ => none

/-- A counter instruction that stalls for its response; an acquire among them completes with it. -/
def counterStall (i : Instr) (a : RT) (srcs : List RegIdx) (extra : List Check) (send : State → State) : State → Out :=
  instr ([fun s => answered (fun t => xval t a.rs1) (if s.hart.answer != .none && a.aq then invalidateStrand s else s),
      noPrefix i, stopIf (fun s => a.rl && s.sup.dheld) trapDeferredStore,
      checkSources (srcs.map fun r => srcX r false)] ++ extra ++
      [checkAccess, checkAcquire a.aq,
       checkReleaseWait a.rl, stopIf (fun s => counterBehind s (xval s a.rs1)) stall, checkResources])
    fun s => hold .response (send s)

def execCfree (a : RT) : State → Out :=
  counterStall (.cfree a) a [a.rs1] [checkIndex a.rs1]
    fun s => postTo (hPkg (xval s a.rs1)) .request (.homeCfree (xval s a.rs1) (issuerOf s) .hart) s

/-- Arms of this core that are outstanding (R260). -/
def armsOut (s : State) : Nat := Tab.getD s.ctr.arms (ownCore s) 0

def countArm (s : State) : State :=
  { s with ctr := { s.ctr with arms := Tab.put s.ctr.arms (ownCore s) (armsOut s + 1) } }

def execCarm (a : RT) : State → Out :=
  counterStall (.carm a) a [a.rs1, a.rs2]
    [fun s => if 16 ≤ armsOut s then some (counterError (xval s a.rs1) dNone s) else none]
    fun s => postTo (hPkg (xval s a.rs1)) .request
      (.homeCarm (xval s a.rs1) (xval s a.rs2) (issuerOf s) .hart (.arm (ownCore s))) (countArm s)

end Sys2Proof.Machine
end

