-- ==== Sys2Proof/Machine/Mailbox.lean ====
section
/-!
DEFINITION. Mailboxes (chapter 13): records, the mailbox agent's admission, NO_ACTOR, `send` and `sendg`.
-/
namespace Sys2Proof.Machine

/-! ## Records (R324 to R326) -/

/-- A record occupies 16 bytes and its payload rounded up to 16. -/
def recordBytes (len : Nat) : Nat := 16 + ceilDiv len 16 * 16

/-- The header's word 0. -/
def headerWord (tag : BitVec 32) (flags kind : BitVec 8) (len : Nat) : Word :=
  place tag.toNat 32 ||| place flags.toNat 24 ||| place kind.toNat 16 ||| place len 0

/-- The bytes of a record, its padding zero. -/
def recordImage (r : Record) : List Byte :=
  let len := r.payload.length
  wordToBytes 8 (headerWord r.tag r.flags r.kind len) ++ wordToBytes 8 r.sender ++ r.payload
    ++ List.replicate (ceilDiv len 16 * 16 - len) 0

/-- SIGNAL and RESTARTED are of the signal class, every other kind is a message (R325). -/
def isMessageClass (kind : BitVec 8) : Bool := kind != 1 && kind != 4

/-- n bytes that the manual gives no value. -/
def freeBytes : Nat → State → List Byte × State
  | 0, s => ([], s)
  | n + 1, s =>
    let r := freshFree s
    let rest := freeBytes n r.2
    (r.1.setWidth 8 :: rest.1, rest.2)

/-- A SKIP record over `pad` bytes; the bytes behind its header have no stated value (R326, assumption 29). DESIGN CHOICE:
its TAG, FLAGS and SENDER are 0 (assumption 108). -/
def writeSkip (key pad : Nat) (s : State) : State :=
  let s1 := writeKey s key (wordToBytes 8 (headerWord 0 0 3 (pad - 16)) ++ wordToBytes 8 0)
  let r := freeBytes (pad - 16) s1
  writeKey r.2 (key + 16) r.1

/-! ## NO_ACTOR (R328) -/

/-- NoActor: everyone linked to the sender or watching it is told. -/
def noActor (sender dst : Word) (s : State) : State :=
  if sender = 0 then s
  else
    (s.actors.links.filter fun l => l.owner == sender && l.kind != .watches).foldl
      (fun t l => postTo (namePkg l.named) .message
        (.directSignal { dst := l.named, frm := dst, origin := dst, reason := 0x06, detail := dst
                         mon := l.kind == .watchedBy, cascade := false }) t) s

/-! ## Admission (R328, R329) -/

inductive Admission where
  | committed | full | absent
  deriving DecidableEq, Repr

/-- A mailbox counter that the agent cannot use, and the death that it means (R381, assumption 30). -/
def mailboxBroken (s : State) (core : Nat) (a : Actor) : Option (BitVec 8 × Word) :=
  ([a.reserveIx, a.commitIx, a.consumeIx].find? fun ix =>
    (counterAt s (mailboxKey core ix)).st != .live).map fun ix =>
      if (counterAt s (mailboxKey core ix)).st = .free then
        (0x0A, mkHandle (pkgOfCore s core) (core % 4096 / 16) ix a.inc)
      else (0x09, place (core % 4096) 0)

/-- Sets a LIVE mailbox counter and wakes its waiters. -/
def setMailbox (core ix v : Nat) (s : State) : State :=
  let key := mailboxKey core ix
  let w : Word := place v 0
  if (counterAt s key).st = .live then wake key w (setCounter key { counterAt s key with value := w } s) else s

/-- Stalled host queues of an actor look again when its mailbox's consume advances (R340). -/
def retryQueues (name : Word) (s : State) : State :=
  postAll ((s.host.queues.filter fun (_, q) => q.actor == name && q.state == 2).map fun (n, _) =>
    .hostQueueForward (BitVec.ofNat 14 n)) s

/-- The consumer position advances by n bytes. -/
def consumeRecord (core slot n : Nat) (s : State) : State :=
  let a := actorAt s (slotIndex core slot)
  retryQueues (nameAt s core slot) (setMailbox core a.consumeIx (mailboxValue s core a.consumeIx + n) s)

/-- Where a record of n bytes goes: the bytes of padding before it, and whether it fits. -/
def ringPlace (s : State) (core : Nat) (a : Actor) (n lim : Nat) : Nat × Bool :=
  let reserve := mailboxValue s core a.reserveIx
  let left := ringBytes a - reserve % ringBytes a
  let pad := if left < n then left else 0
  (pad, decide (reserve + pad + n ≤ mailboxValue s core a.consumeIx + lim))

/-- The record is written and committed, and an IDLE actor becomes RUNNABLE. -/
def commitRecord (core slot pad : Nat) (r : Record) (s : State) : State :=
  let ix := slotIndex core slot
  let a := actorAt s ix
  let n := recordBytes r.payload.length
  let reserve := mailboxValue s core a.reserveIx
  let base := scratchKey core a.sbase
  let s1 := if pad = 0 then s else writeSkip (base + reserve % ringBytes a) pad s
  let s2 := writeKey s1 (base + (reserve + pad) % ringBytes a) (recordImage r)
  let s3 := setMailbox core a.commitIx (reserve + pad + n) (setMailbox core a.reserveIx (reserve + pad + n) s2)
  if a.st = .idle then makeRunnable ix s3 else s3

/-- Admission to a live actor: a record that does not fit kills it (R329). -/
def admitAt (core slot : Nat) (r : Record) (s : State) : Admission × State :=
  let a := actorAt s (slotIndex core slot)
  let name := nameAt s core slot
  match mailboxBroken s core a with
  | some (reason, detail) => (.full, killActor name (deathOf name reason detail) s)
  | none =>
    let p := ringPlace s core a (recordBytes r.payload.length)
      (if isMessageClass r.kind then a.snap.mbox else ringBytes a)
    if p.2 then (.committed, commitRecord core slot p.1 r s)
    else (.full, killActor name (deathOf name 0x04 r.sender) s)

/-- A core that a record or a spawn arrives for wakes (R434). -/
def wakeCore (core : Nat) (s : State) : State :=
  { s with ras := { s.ras with gated := s.ras.gated.filter fun c => c != core } }

/-- Admission under a name, without the job's check. -/
def admitNamed (r : Record) (s : State) : Admission × State :=
  let core := coreIndex s (namePkg r.dst) (nameCore r.dst)
  let s1 := wakeCore core s
  if isLive s1 r.dst then admitAt core (nameSlot r.dst) r s1 else (.absent, s1)

/-- Admit (R328): a name that is not live or belongs to another job gives NO_ACTOR. -/
def admitRecord (r : Record) (s0 : State) : Admission × State :=
  let s := wakeCore (coreOf s0 r.dst) s0
  match liveActor s r.dst with
  | some a => if a.pid = r.pid then admitNamed r s else (.absent, noActor r.sender r.dst s)
  | none => (.absent, noActor r.sender r.dst s)

/-- One member's copy of a flooded record (R337). -/
def admitFlood (core slot : Nat) (r : Record) (s0 : State) : State :=
  let s := wakeCore core s0
  let a := actorAt s (slotIndex core slot)
  if a.st.live && a.pid == r.pid && !(s.ras.sparing.contains core) then (admitAt core slot r s).2 else s

/-- The actor slot that a group name gives (R283). -/
def floodSlot (dst : Word) : Nat := field dst 19 10

/-- The member cores of a group name, as pod-wide numbers. -/
def floodCores (s : State) (dst : Word) : List Nat :=
  let g := groupCores dst
  (List.range g.2).map fun m => coreIndex s (namePkg dst) (g.1 + m)

/-- RECORD_ADMIT. A flooded record of a package comes once to each member; one for another package comes to it as one
packet, and floods there. -/
def execRecordAdmit (r : Record) (s : State) : Out :=
  .next (if r.flood then
      if s.sched.packet.isNone then
        admitFlood (coreIndex s (namePkg r.dst) (nameCore r.dst)) (nameSlot r.dst) r s
      else (floodCores s r.dst).foldl (fun t core => admitFlood core (floodSlot r.dst) r t) s
    else (admitRecord r s).2)

/-! ## Order between cores (R333, R378) -/

/-- A request to the same core still waits behind the drain queue: later ones go behind it. -/
def actorBehind (s : State) (es : List Effect) : Bool :=
  s.off.drain.any fun
    | .release _ fs => fs.any fun f => es.any fun e => samePair s f.ev e.ev
    | .store _ | .trapx _ _ _ | .atomic _ _ | .sent _ _ => false

/-- A request of the hart to other cores, as a release or not. -/
def sendActor (rl : Bool) (es : List Effect) (s : State) : State :=
  if rl || actorBehind s es then
    let s1 := release es s
    { s1 with off := { s1.off with nextId := s1.off.nextId + 1 } }
  else sendAll es s

/-! ## send and sendg (R335 to R338) -/

def msgAddr (d : Word) : Nat := field d 0 19
def msgLen (d : Word) : Nat := field d 24 12

/-- The payload lies in the scratchpad and, for U-mode, in one range of the actor (R336). -/
def payloadOk (s : State) (d : Word) : Bool :=
  msgLen d == 0 || (decide (msgAddr d + msgLen d ≤ scratchBytes) && localOk s (msgAddr d) (msgLen d))

/-- A descriptor with reserved fields, or too long. -/
def msgBad (d : Word) : Bool := field d 36 4 != 0 || field d 19 5 != 0 || decide (4080 < msgLen d)

/-- A group name that `sendg` accepts. -/
def groupNameOk (g : Word) : Bool :=
  let tier := field g 49 3
  let inst := field g 41 8
  decide (1 ≤ tier) && decide (tier ≤ 3) && (tier != 2 || decide (inst ≤ 7)) && (tier != 3 || inst == 0)

/-- Reserved fields of a group name (R336, assumption 57). -/
def groupNameReserved (g : Word) : Bool := field g 29 12 != 0 || field g 0 19 != 0

def msgRecord (s : State) (dst d : Word) : Record :=
  { dst := dst, flood := false, kind := 0, flags := BitVec.ofNat 8 (field d 40 8), tag := BitVec.ofNat 32 (field d 48 16)
    sender := s.act.name, pid := s.sup.pid, payload := readLocal s (msgAddr d) (msgLen d) }

/-- The bytes of the send buffer in use: records that wait for the hart's earlier writes (R336). -/
def sendBufferUsed (s : State) : Nat :=
  (s.off.drain.map fun
    | .release _ ({ ev := .recordAdmit r, .. } :: _) => 16 + r.payload.length
    | .release _ _ | .store _ | .trapx _ _ _ | .atomic _ _ | .sent _ _ => 0).foldl (· + ·) 0

/-- The record is handed over as a release. A payload that cannot be read sends nothing (R423, assumption 31). -/
def handOver (a : RT) (s : State) (d : Word) (es : List Effect) : State :=
  let lost := msgLen d != 0 && poisoned s (localKey s (msgAddr d)) (msgLen d)
  let s1 := if lost then s else sendActor true es s
  retire (if a.aq then invalidateStrand s1 else s1)

/-- The checks and stalls that `send` and `sendg` share. -/
def sendInstr (i : Instr) (a : RT) (reserved badName : State → Bool) (effects : State → List Effect) : State → Out :=
  let d (s : State) : Word := xval s a.rs2
  instr [noPrefix i, checkHeld, checkSources [srcX a.rs1 false, srcX a.rs2 false],
      fun s => if msgAddr (d s) % 8 ≠ 0 then some (trap 4 (place (msgAddr (d s)) 0) s) else none,
      fun s => if payloadOk s (d s) then none else some (trap 5 (place (msgAddr (d s)) 0) s),
      fun s => if msgBad (d s) || reserved s then some (trap 30 (d s) s) else none,
      fun s => if badName s then some (trap 30 (xval s a.rs1) s) else none,
      checkAccess, checkAcquire a.aq, checkReleaseWait a.aq,
      stopIf (fun s => decide (8192 < sendBufferUsed s + 16 + msgLen (d s))) stall]
    fun s => handOver a s (d s) (effects s)

def execSend (a : RT) : State → Out :=
  sendInstr (.send a) a (fun _ => false) (fun s => xval s a.rs1 == 0) fun s =>
    [{ pkg := namePkg (xval s a.rs1), ch := .message, ev := .recordAdmit (msgRecord s (xval s a.rs1) (xval s a.rs2)) }]

/-- The records of a `sendg`: one for each member of this package, or one packet for another package. -/
def floodEffects (s : State) (g d : Word) : List Effect :=
  let r := { msgRecord s g d with flood := true }
  let pkg := namePkg g
  if pkg = s.ras.pkg.toNat then
    (floodCores s g).map fun c =>
      { pkg := pkg, ch := .message, ev := .recordAdmit { r with dst := mkName pkg c (floodSlot g) 0 } }
  else [{ pkg := pkg, ch := .message, ev := .recordAdmit r }]

def execSendg (a : RT) : State → Out :=
  sendInstr (.sendg a) a (fun s => groupNameReserved (xval s a.rs1)) (fun s => !groupNameOk (xval s a.rs1))
    fun s => floodEffects s (xval s a.rs1) (xval s a.rs2)

end Sys2Proof.Machine
end

