-- ==== Sys2Proof/Machine/Actor.lean ====
section
/-!
DEFINITION. Actors (chapter 12): spawning, dispatch, the instructions that end actors, budgets and kills.
-/
namespace Sys2Proof.Machine

/-! ## The spawn control word (R311, R312) -/

def ctlPkg (c : Word) : Nat := field c 48 12
def ctlCore (c : Word) : Nat := field c 36 12
def ctlSlot (c : Word) : Nat := field c 26 10
def ctlFixed (c : Word) : Bool := bit c 25
def ctlCohort (c : Word) : Bool := bit c 63

def ctlOk (c : Word) : Bool :=
  let tier := field c 60 3
  let inst := field c 36 8
  field c 8 17 == 0 &&
    (if ctlCohort c then
      decide (1 ≤ tier) && decide (tier ≤ 3) && ctlFixed c && field c 44 4 == 0
        && (tier != 2 || decide (inst ≤ 7)) && (tier != 3 || inst == 0)
    else tier == 0)

/-! ## Installing an actor (R304, R313) -/

/-- What a target answers to a spawn or a restart. -/
inductive SpawnResult where
  | name (n : Word)
  | refused
  | failed (d : Detail)
  deriving DecidableEq, Repr

/-- The next incarnation: modulo 2^30, passing over 0 (R304). -/
def nextInc (i : BitVec 30) : BitVec 30 := if i + 1 = 0 then 1 else i + 1

/-- The slot that a spawn uses: the one named, or the lowest FREE one (R313); none where no FREE slot is left. -/
def chooseSlot (s : State) (core : Nat) (e : Placement) (fixed : Bool) (slot : Nat) : Option Nat :=
  if fixed then some slot
  else (List.range 1024).find? fun n =>
    decide (e.slotLo ≤ n) && decide (n ≤ e.slotHi) && (actorAt s (slotIndex core n)).st == .free

/-- Three counters for a mailbox, if the bank has them (R313, R327). -/
def mailboxCounters (cluster : Nat) (owner : Word) (pid : Pid) (s : State) : Option (Nat × Nat × Nat × State) :=
  let a := allocCounter cluster owner pid s
  let b := allocCounter cluster owner pid a.2
  let c := allocCounter cluster owner pid b.2
  if a.1 = 0 ∨ b.1 = 0 ∨ c.1 = 0 then none else some (hIndex a.1, hIndex b.1, hIndex c.1, c.2)

/-- The state regions in use on a core. -/
def regionsHeld (s : State) (core : Nat) : List (Nat × Nat) :=
  ((actorsOn s core).filter fun x => x.2.st != .restarting && x.2.snap.size != 0).map fun x =>
    (x.2.sbase, x.2.sbase + x.2.snap.size)

/-- A core that takes no new actor: it is being retired, or its number is vacant (R313, R426). -/
def coreRefuses (s : State) (core : Nat) : Bool := s.ras.sparing.contains core || s.ras.vacant.contains core

/-- The new actor stands in its slot: the region is zeroed, the mailbox is EMPTY, the incarnation has advanced. -/
def installActor (core slot sbase : Nat) (typ : BitVec 8) (pid : Pid) (t : TypeSnap) (ctrs : Nat × Nat × Nat)
    (s : State) : State :=
  let ix := slotIndex core slot
  let s1 := writeKey s (scratchKey core sbase) (List.replicate t.size 0)
  setActor ix
    { st := .idle, inc := nextInc (actorAt s ix).inc, pid := pid, typ := typ, snap := t, sbase := sbase
      trapExits := t.trapx, reserveIx := ctrs.1, commitIx := ctrs.2.1, consumeIx := ctrs.2.2, stamp := 0, wbase := 0
      tbase := 0, held := none, death := none, seq := 0 } s1

/-- The target steps of R313 up to the commit of the first record; a restart takes its own RESTARTING slot over and
counts it once. -/
def allot (takeover : Bool) (core : Nat) (pid : Pid) (typ : BitVec 8) (fixed : Bool) (slot : Nat) (s0 : State) : SpawnResult × State :=
  let s := wakeCore core s0
  if coreRefuses s core then (.refused, s)
  else if dirPoisoned s core then (.failed dMemoryUncorrectable, s)
  else
  match placement s core pid with
  | none => (.failed dNone, s)
  | some e =>
    if e.ntypes ≤ typ.toNat then (.failed dNone, s)
    else
      match readType s core pid e typ.toNat with
      | (s1, .error d) => (.failed d, s1)
      | (s1, .ok t) =>
        if fixed ∧ (slot < e.slotLo ∨ e.slotHi < slot) then (.failed dNone, s1)
        else
          match chooseSlot s1 core e fixed slot with
          | none => (.refused, s1)
          | some n =>
            let st := (actorAt s1 (slotIndex core n)).st
            let used := ((actorsOn s1 core).filter fun x =>
              x.2.pid == pid && !(takeover && x.1 == slotIndex core n)).length
            if (st ≠ .free ∧ !(takeover && st == .restarting)) ∨ e.quota ≤ used then (.refused, s1)
            else
              match firstFit e.sbase e.slimit t.size (regionsHeld s1 core) with
              | none => (.refused, s1)
              | some base =>
                let name := mkName (pkgOfCore s1 core) (core % 4096) n (nextInc (actorAt s1 (slotIndex core n)).inc)
                match mailboxCounters (core / 16) name pid s1 with
                | none => (.refused, s1)
                | some (a, b, c, s2) => (.name name, installActor core n base typ pid t (a, b, c) s2)

/-- The first record of an actor: MESSAGE, an 8-byte payload (R313, R396). -/
def firstRecord (name sender payload : Word) (pid : Pid) : Record :=
  { dst := name, flood := false, kind := 0, flags := 0, tag := 0, sender := sender, pid := pid
    payload := wordToBytes 8 payload }

/-- A spawn at one core. -/
def spawnAt (core : Nat) (q : SpawnReq) (s : State) : SpawnResult × State :=
  match allot false core q.pid (BitVec.ofNat 8 (field q.ctl 0 8)) (ctlFixed q.ctl) (ctlSlot q.ctl) s with
  | (.name n, s1) => (.name n, (admitNamed (firstRecord n q.spawner q.payload q.pid) s1).2)
  | (r, s1) => (r, s1)

/-- SPAWN_AT_TARGET (R313). -/
def execSpawnAtTarget (q : SpawnReq) (s : State) : Out :=
  let r := spawnAt (coreIndex s (ctlPkg q.ctl) (ctlCore q.ctl)) q s
  .next (match r.1 with
    | .name n => reply q.replyTo (.value n) r.2
    | .refused => reply q.replyTo (.value 0) r.2
    | .failed d => reply q.replyTo (.failed d (BitVec.ofNat 12 (ctlPkg q.ctl))) r.2)

def killedReq (name : Word) (pid : Pid) : Instr :=
  .killRequest { target := name, reason := 0x01, detail := 0, origin := name, cascade := false, pid := pid, jobOnly := false }

/-- The next member's step of a cohort comes before every other pending step, so that it keeps its place among its
sender's traffic (R333). -/
def postFirst (ev : Instr) (s : State) : State :=
  { s with sched := { s.sched with agenda := { ev := ev, via := none, place := s.sched.place } :: s.sched.agenda } }

/-- COHORT_SPAWN_AT_MEMBER (R314): one member's target steps; behind the last member the count is answered, or the
lowest failure, with no member left alive. -/
def execCohortSpawnAtMember (q : SpawnReq) (member : Nat) (created : List Word) (failure : Option (BitVec 16)) (s : State) :
    Out :=
  let g := cohortCores q.ctl
  let core := coreIndex s (ctlPkg q.ctl) (g.1 + member)
  let r := if s.ras.sparing.contains core then (.refused, s) else spawnAt core q s
  let made := match r.1 with | .name n => created ++ [n] | .refused | .failed _ => created
  let fail := match failure, r.1 with
    | some d, _ => some d
    | none, .failed d => some d
    | none, .name _ | none, .refused => none
  .next (if member + 1 < g.2 then postFirst (.cohortSpawnAtMember q (member + 1) made fail) r.2
    else
      match fail with
      | some d =>
        reply q.replyTo (.failed d (BitVec.ofNat 12 (ctlPkg q.ctl))) (postAll (made.map fun n => killedReq n q.pid) r.2)
      | none => reply q.replyTo (.value (place made.length 0)) r.2)

/-- spawn (R311 to R316): a release, and a producer of class 8. -/
def execSpawn (a : RT) : State → Out :=
  instr [noPrefix (.spawn a), checkHeld, checkSources [srcX a.rs1 false, srcX a.rs2 false],
      fun s => if ctlOk (xval s a.rs1) then none else some (trap 30 (xval s a.rs1) s),
      checkDest (dstX a.rd), checkAccess, checkAcquire a.aq, checkReleaseWait (a.aq || a.rd == 0), checkResources]
    fun s =>
      let q : SpawnReq :=
        { ctl := xval s a.rs1, payload := xval s a.rs2, spawner := s.act.name, pid := s.sup.pid
          replyTo := .job s.off.nextId 0 }
      let ev : Instr := if ctlCohort q.ctl then .cohortSpawnAtMember q 0 [] none else .spawnAtTarget q
      let s1 := release [{ pkg := ctlPkg q.ctl, ch := .message, ev := ev }] s
      retire (startJob (simpleJob s (.x a.rd.toNat) 8 a.aq) (nextPc s) s1)

/-! ## Ending actors (R317 to R319, R476) -/

/-- A handler is dispatched and the hart is in U-mode. -/
def inHandler (s : State) : Bool := s.hart.priv == .user && s.act.name != 0

def checkHandler (i : Instr) : Check := stopIf (fun s => !inHandler s) (trapIllegal i)

/-- R102: the end of a run waits for the bounded producers, the executing Array command and the stores; no other command
starts meanwhile. -/
def checkRunEnds : Check :=
  stopIf (fun s => boundedOutstanding s || writesOutstanding s || s.arr.running.isSome)
    fun s => stall { s with arr := { s.arr with stop := true } }

/-- endh: the record in hand is consumed, and the actor waits for its next one. -/
def endHandler (s : State) : State :=
  let name := s.act.name
  let core := ownCore s
  let slot := nameSlot name
  let ix := slotIndex core slot
  let len := recordLen s (headRecord s core (actorAt s ix))
  let s1 := { s with mach := { s.mach with minstret := s.mach.minstret + 1 } }
  let s2 := endRun s1
  if isLive s name then
    let s3 := consumeRecord core slot (recordBytes len) s2
    if holding s3 core (actorAt s3 ix) then enqueue ix s3 else updateActor ix (fun a => { a with st := .idle }) s3
  else s2

def execEndh (a : RT) : State → Out :=
  instr [noPrefix (.endh a), checkHandler (.endh a), checkHeld, checkAcquire a.aq, checkRunEnds]
    fun s => endHandler (if a.aq then invalidateStrand s else s)

/-- exit: the actor ends with reason NORMAL; the record in hand is not consumed. -/
def exitActor (detail : Word) (s : State) : State :=
  let name := s.act.name
  let s1 := endRun { s with mach := { s.mach with minstret := s.mach.minstret + 1 } }
  if isLive s name then enterExiting name (deathOf name 0x00 detail) s1 else s1

def execExit (a : RT) : State → Out :=
  instr [noPrefix (.exit a), checkHandler (.exit a), checkHeld, checkSources [srcX a.rs1 false], checkAcquire a.aq, checkRunEnds]
    fun s => exitActor (xval s a.rs1) (if a.aq then invalidateStrand s else s)

/-- kill: a request to the exit engine of the target's core; its own name ends the run at once. -/
def execKill (a : RT) : State → Out :=
  instr [noPrefix (.kill a), stopIf (fun s => a.rl && s.sup.dheld) trapDeferredStore,
      checkSources [srcX a.rs1 false, srcX a.rs2 false], checkAcquire a.aq,
      checkReleaseWait (a.rl && a.aq),
      stopIf (fun s => a.rl && inHandler s && xval s a.rs1 == s.act.name && writesOutstanding s) stall]
    fun s =>
      let t := xval s a.rs1
      let k : KillReq :=
        { target := t, reason := 0x01, detail := xval s a.rs2, origin := t, cascade := false, pid := s.sup.pid
          jobOnly := s.hart.priv == .user }
      if inHandler s && t == s.act.name then
        killActor t (deathOf t 0x01 (xval s a.rs2)) (if a.aq then invalidateStrand s else s)
      else
        let s1 := sendActor a.rl [{ pkg := namePkg t, ch := .message, ev := .killRequest k }] s
        retire (if a.aq then invalidateStrand s1 else s1)

/-- KILL_REQUEST at the target's core. A loaded context whose actor is not live ends its run (R476). -/
def execKillRequest (k : KillReq) (s : State) : Out :=
  .next (match liveActor s k.target with
    | some a =>
      if k.jobOnly && a.pid != k.pid then s
      else killActor k.target { reason := k.reason, detail := k.detail, origin := k.origin, cascade := k.cascade } s
    | none => if runsHere s k.target && k.target != 0 && hartAtBoundary s then endRun s else s)

/-- A `trapx` that still waits behind the drain queue. -/
def trapxBehind (s : State) : Bool :=
  s.off.drain.any fun
    | .trapx _ _ _ => true
    | .store _ | .release _ _ | .atomic _ _ | .sent _ _ => false

/-- The flag of `trapx`: at once, or as a release behind the drain queue (R221, R321). -/
def setFlag (rl : Bool) (name : Word) (on : Bool) (s : State) : State :=
  if (rl && writesOutstanding s) || trapxBehind s then
    { s with off := { s.off with drain := s.off.drain ++ [.trapx s.off.nextId name on], nextId := s.off.nextId + 1 } }
  else setTrapExits name on s

/-- trapx (R321). -/
def execTrapx (a : RT) : State → Out :=
  instr [noPrefix (.trapx a), checkHandler (.trapx a), stopIf (fun s => a.rl && s.sup.dheld) trapDeferredStore,
      checkSources [srcX a.rs1 false], checkAcquire a.aq, checkReleaseWait (a.rl && a.aq)]
    fun s =>
      let s1 := setFlag a.rl s.act.name (bit (xval s a.rs1) 0) s
      retire (if a.aq then invalidateStrand s1 else s1)

/-- BUDGET_EXPIRY (R101). -/
def execBudgetExpiry (s : State) : Out :=
  .next (if budgetOut s then
      if isLive s s.act.name then killActor s.act.name (deathOf s.act.name 0x03 0) s else endRun s
    else s)

/-! ## Dispatch (R308 to R310) -/

/-- hrem at dispatch (R101, R310). -/
def budgetClocks (t : TypeSnap) : Word := if t.budget = 0 then BitVec.allOnes 64 else place 1 t.budget

/-- The registers and CSRs of a new run. -/
def setupRun (ix : Nat) (a : Actor) (w t : Nat) (s : State) : State :=
  let core := ownCore s
  let rec_ := headRecord s core a
  let s1 := updateActor ix (fun b => { b with st := .running, wbase := w, tbase := t }) (invalidateStrand s)
  let xs : Vector XReg 32 := Vector.replicate 32 (Reg.zero 64)
  let s2 : State :=
    { s1 with
      hart := { s1.hart with
        x := xs, pc := a.snap.handler, priv := .user, disp := false, wait := .none, answer := .none, storesDone := 0
        again := false, x0 := [], pend := { s1.hart.pend with fv := false, mv := false }
        loop0 := { s1.hart.loop0 with count := 0 }, loop1 := { s1.hart.loop1 with count := 0 } }
      user := { s1.user with
        oft := true, rm := 0, fmt := 0, vflags := 0, aweight := 1, ctimeout := 0
        tbaseReg := BitVec.ofNat 4 t, tcount := BitVec.ofNat 5 a.snap.tiles
        tshape := (List.range a.snap.tiles).foldl (fun v i => v.setIfInBounds (t + i) 0) s1.user.tshape }
      act :=
        { name := nameAt s core (ix % 1024), typ := a.typ, sbase := BitVec.ofNat 19 a.sbase
          slimit := BitVec.ofNat 20 (a.sbase + a.snap.size), wbase := BitVec.ofNat 19 w
          wlimit := BitVec.ofNat 20 (w + a.snap.work)
          clrbase := if a.snap.clrLen = 0 then 0 else BitVec.ofNat 19 (a.sbase + a.snap.clrOff)
          clrlimit := if a.snap.clrLen = 0 then 0 else BitVec.ofNat 20 (a.sbase + a.snap.clrOff + a.snap.clrLen)
          tslots := 0 }
      arr := { s1.arr with seq := 0 }
      sup := { s1.sup with hrem := budgetClocks a.snap, dfrom := false, mdfrom := false } }
  let key := rec_
  writeX 10 (place (key - scratchKey core 0) 0)
    (writeX 11 (place (recordLen s key) 0)
      (writeX 12 (place (recordKind s key) 0)
        (writeX 13 (place a.sbase 0) (writeX 14 (place w 0) (writeX 2 (place (w + a.snap.work) 0) s2)))))

/-- The dispatcher meets a word of its core's scratchpad that cannot be read: a device error (R113). It looks again after
the next event. DESIGN CHOICE: the record carries cause 25, for which the manual gives no number (assumption 106). -/
def dispatchFails (s : State) : State := stall (logDevice 25 s)

/-- The dispatcher's choice: SKIP records are consumed, and the head actor runs when its allotment fits. -/
def dispatchLoop : Nat → State → State
  | 0, s => s
  | n + 1, s =>
    match headActor s with
    | none => s
    | some (ix, a) =>
      let core := ownCore s
      if dirPoisoned s core || (holding s core a && poisoned s (headRecord s core a) 16) then dispatchFails s
      else if !holding s core a then dispatchLoop n (updateActor ix (fun b => { b with st := .idle }) s)
      else if headIsSkip s core a then
        dispatchLoop n (consumeRecord core (ix % 1024) (16 + recordLen s (headRecord s core a)) s)
      else
        match placement s core s.sup.pid with
        | none => s
        | some e =>
          match allotment s core e a with
          | none => s
          | some (w, t) => setupRun ix a w t s

def execDispatch (s : State) : Out :=
  .next (if s.hart.disp && !boundedOutstanding s && !runEnding s then dispatchLoop 8 s else s)

end Sys2Proof.Machine
end

