-- ==== Sys2Proof/Machine/Group.lean ====
section
/-!
DEFINITION. Group space (chapter 11): addresses, the reads of the members, and the reduction.
-/
namespace Sys2Proof.Machine

/-! ## Addresses (R283 to R286, R294) -/

def groupTier (ea : Word) : Nat := field ea 49 3
def groupOp (ea : Word) : Nat := field ea 37 4
def groupType (ea : Word) : Nat := field ea 33 4
def groupSlot (ea : Word) : Nat := field ea 19 10
def groupOffset (ea : Word) : Nat := field ea 0 19

def groupIsSkip (ea : Word) : Bool := decide (6 ≤ groupOp ea) && decide (groupOp ea ≤ 8)

/-- The format of an element type (R286). -/
def groupFmt (t : Nat) : Nat :=
  if t ≤ 2 then t else if t = 3 then 12 else if t = 4 then 13 else if t = 5 then 14 else 15

/-- Element bytes of a group address. -/
def groupBytes (ea : Word) : Nat := fmtWidth (groupFmt (groupType ea)) / 8

/-- The fields of a group address are not reserved (R294). -/
def groupAddrOk (ea : Word) : Bool :=
  let inst := field ea 41 8
  decide (1 ≤ groupTier ea) && decide (groupTier ea ≤ 3)
    && (groupTier ea != 2 || decide (inst ≤ 7)) && (groupTier ea != 3 || inst == 0)
    && decide (groupOp ea ≤ 9) && decide (groupType ea ≤ 6)
    && (groupOp ea != 9 || groupTier ea == 1) && (groupOp ea == 9 || field ea 29 4 == 0)

/-- Whether a scalar load of a size is accepted at a group address (R286, R292). -/
def groupScalarOk (ea : Word) (bytes : Nat) : Bool :=
  groupAddrOk ea && bytes == groupBytes ea && !(groupIsSkip ea && bytes == 8)

/-- The operation of R91 behind a group operation (R285). -/
def groupRedOp (op : Nat) : RedOp :=
  if op = 0 ∨ op = 6 then .sum else if op = 1 ∨ op = 7 then .min else if op = 2 ∨ op = 8 then .max
  else if op = 3 then .and else if op = 4 then .or else .xor

/-! ## A member's read (R281, R284, R290) -/

/-- The actor that makes a member PRESENT for a job and slot: live, of the job, with a clearing; a core that is being
retired is SPARING (R281). -/
def presentActor (s : State) (core slot : Nat) (pid : Pid) : Option Actor :=
  let a := actorAt s (slotIndex core slot)
  if a.st.live && a.pid == pid && decide (0 < a.snap.clrLen) && !(s.ras.sparing.contains core) then some a else none

/-- What a member contributes to a request: the bytes of the elements that lie in its clearing, or none when its read
fails. -/
def memberBytes (s : State) (p : Part) (core : Nat) : Option (List Byte) :=
  match presentActor s core (groupSlot p.va) p.pid with
  | none => some []
  | some a =>
    let wb := groupBytes p.va
    let n := min (p.len / wb) ((a.snap.clrLen - groupOffset p.va) / wb)
    let key := scratchKey core (a.sbase + a.snap.clrOff + groupOffset p.va)
    if poisoned s key (n * wb) && n != 0 then none else some (readKey s key (n * wb))

/-! ## The reduction (R287 to R291) -/

/-- A member's element, if it contributes it. -/
def leafElem (wb e : Nat) (b : Option (List Byte)) : Option Nat :=
  match b with
  | none => none
  | some l => if (e + 1) * wb ≤ l.length then some (natOf ((l.drop (e * wb)).take wb)) else none

/-- Under a skip operation NaN leaves are absent (R289). -/
def skipNaN (f : Nat) (v : Option Nat) : Option Nat :=
  match v with
  | none => none
  | some x => if (decodeElem f x).isNaN then none else some x

/-- One element of a group read: its value and its count. -/
def groupElem (ea : Word) (leaves : List (Option (List Byte))) (e : Nat) : Nat × Nat :=
  let f := groupFmt (groupType ea)
  let vs := leaves.map (leafElem (groupBytes ea) e)
  if groupOp ea = 9 then ((vs.head?.bind id).getD 0, 0)
  else
    let vs' := if groupIsSkip ea then vs.map (skipNaN f) else vs
    ((treeReduce (groupRedOp (groupOp ea)) f .rne Mods.none vs').1, (vs'.filter Option.isSome).length)

/-- The members' answers in ascending member order. -/
def sortLeaves (n : Nat) (l : List (Nat × Option (List Byte))) : List (Option (List Byte)) :=
  (List.range n).filterMap fun m => (l.find? fun x => x.1 == m).map (·.2)

/-- Bytes padded with zeros. -/
def padTo (n : Nat) (b : List Byte) : List Byte := b ++ List.replicate (n - b.length) 0

/-- The bytes that a request returns: the elements, and under a skip operation their counts behind them; for a vector
destination each half fills a register (R292, R293). -/
def groupAnswer (p : Part) (vector : Bool) : List Byte :=
  let wb := groupBytes p.va
  let leaves := sortLeaves 4096 p.leaves
  let es := (List.range (p.len / wb)).map (groupElem p.va leaves)
  let vals := es.flatMap fun r => bytesOf wb r.1
  let counts := es.flatMap fun r => bytesOf 4 r.2
  if vector then
    if groupIsSkip p.va then padTo 64 vals ++ padTo 64 counts else padTo 64 vals
  else if groupIsSkip p.va then padTo 4 vals ++ counts else vals

/-- The lowest member whose read failed. -/
def failedMember (n : Nat) (l : List (Nat × Option (List Byte))) : Option Nat :=
  (List.range n).find? fun m => l.any fun x => x.1 == m && x.2.isNone

/-- A member core reads its clearing for a request and feeds the tree (R292); with the last answer the request
completes, or fails (R290). DESIGN CHOICE: one member reads its elements in one step, where R295 leaves them unordered
(assumption 102). -/
def groupMember (job part member : Nat) (s : State) : State :=
  match s.off.jobs.find? (fun j => j.id == job) with
  | none => s
  | some j =>
    match j.issued.find? (fun p => p.no == part) with
    | none => s
    | some p =>
      if p.leaves.any (fun x => x.1 == member) || !((groupMembers p.va).contains member) then s
      else
        let core := (groupCores p.va).1 + member
        let p' : Part := { p with leaves := p.leaves ++ [(member, memberBytes s p core)] }
        let s1 := updateJob job (fun k =>
          { k with issued := updateFirst (fun q => q.no == part) (fun _ => p') k.issued }) s
        if p'.leaves.length < (groupMembers p.va).length then s1
        else
          let vector := match j.dest with | .v _ _ => true | .nothing | .x _ | .m _ _ => j.finish == .image
          match (if groupIsSkip p.va then none else failedMember 4096 p'.leaves) with
          | some m => completeFrom (BitVec.ofNat 12 ((groupCores p.va).1 + m)) job part
              (.failed dGroupMemberError s.ras.pkg) s1
          | none => completePart job part (.bytes (groupAnswer p' vector)) s1

/-- GROUP_MEMBER_READ. -/
def execGroupMemberRead (job part member : Nat) (s : State) : Out := .next (groupMember job part member s)

end Sys2Proof.Machine
end

