-- ==== Sys2Proof/Machine/LoadStore.lean ====
section
/-!
DEFINITION. The scalar loads and stores (R22): local accesses in the pipeline, translated and group loads as off-core
producers, translated stores through the drain queue.
-/
namespace Sys2Proof.Machine

/-! ## Loads -/

/-- The effective address of a load or store. -/
def effAddr (s : State) (rs1 : RegIdx) (imm : BitVec 12) : Word := xval s rs1 + imm.signExtend 64

/-- A misaligned access is never performed in parts (R22): causes 4 and 6. -/
def checkAligned (cause : Nat) (addr : State → Word) (bytes : Nat) : Check := fun s =>
  if (addr s).toNat % bytes ≠ 0 then some (trap cause (addr s) s) else none

/-- Whether a scalar load may access an address (R208, R209, R212, R294). -/
def loadOk (s : State) (ea : Word) (bytes : Nat) : Bool :=
  match classOf ea with
  | .scratch => localOk s ea.toNat bytes
  | .translated => true
  | .reserved => false
  | .group => groupScalarOk ea bytes

def checkLoadClass (addr : State → Word) (bytes : Nat) : Check := fun s =>
  if loadOk s (addr s) bytes then none else some (trap 5 (addr s) s)

def isLocal (ea : Word) : Bool := classOf ea == .scratch

/-- The location of an outstanding atomic's word: a later load of it waits (R226). -/
def hitsAtomic (s : State) (ea : Word) (len : Nat) : Bool :=
  (s.off.jobs.any fun j => j.atomic) &&
  match peekKey s s.sup.pid ea .load with
  | some x => atomicOverlap s x.key len
  | none => false

/-- An off-core load finds an operation and a slot, and no atomic on its word (R49, R120, R226). -/
def checkOffCoreLoad (addr : State → Word) (bytes : Nat) : Check := fun s =>
  if isLocal (addr s) then none
  else if !canIssue s || (classOf (addr s) == .translated && hitsAtomic s (addr s) bytes) then
    some (stallBlocked s)
  else none

/-- How the answer of a scalar load becomes rd (R22, R292). -/
def scalarFinish (ea : Word) (bytes : Nat) (signed : Bool) : Finish :=
  if classOf ea = .group then .group bytes signed (groupIsSkip ea) else .scalar bytes signed

/-- The bytes of a scalar answer: a group load under a skip operation also returns a count (R292). -/
def scalarPiece (ea : Word) (bytes : Nat) : Piece :=
  { src := 0, len := if classOf ea = .group ∧ groupIsSkip ea then 8 else bytes, dst := 0, elem := 0 }

/-- The effect of an off-core scalar load: rd goes EMPTY and the request issues (R47). -/
def startScalarLoad (rd : RegIdx) (ea : Word) (bytes : Nat) (signed : Bool) (s : State) : State :=
  let cls : BitVec 8 := if classOf ea = .group then 5 else 0
  let part := mkPart 0 ea s.sup.pid bytes [scalarPiece ea bytes]
  let j := loadJob s (.x rd.toNat) cls (scalarFinish ea bytes signed) [] [part]
  retire (pump 1 (startJob j (nextPc s) s))

/-- A local load: the value, or FAULTED when the words cannot be read (R213, R423). -/
def localLoad (rd : RegIdx) (addr bytes : Nat) (signed : Bool) (s : State) : State :=
  if poisoned s (localKey s addr) bytes then
    failDest (.x rd.toNat) s.hart.pc (dfinfoWord s.ras.pkg.toNat 0 0 0 dMemoryUncorrectable) s
  else setX rd (BitVec.ofNat 64 (finishValue (.scalar bytes signed) (readLocal s addr bytes))) s

/-- A scalar load of `bytes` bytes. -/
def loadInstr (i : Instr) (a : LoadArgs) (bytes : Nat) (signed : Bool) : State → Out :=
  let ea (s : State) : Word := effAddr s a.rs1 a.imm
  instr [noPrefix i, checkSources [srcX a.rs1 false], checkAligned 4 ea bytes, checkLoadClass ea bytes,
      checkDest (dstX a.rd), checkAccess, checkOffCoreLoad ea bytes]
    fun s =>
      if isLocal (ea s) then retire (localLoad a.rd (ea s).toNat bytes signed s)
      else startScalarLoad a.rd (ea s) bytes signed s

def execLb (a : LoadArgs) : State → Out := loadInstr (.lb a) a 1 true
def execLh (a : LoadArgs) : State → Out := loadInstr (.lh a) a 2 true
def execLw (a : LoadArgs) : State → Out := loadInstr (.lw a) a 4 true
def execLd (a : LoadArgs) : State → Out := loadInstr (.ld a) a 8 true
def execLbu (a : LoadArgs) : State → Out := loadInstr (.lbu a) a 1 false
def execLhu (a : LoadArgs) : State → Out := loadInstr (.lhu a) a 2 false
def execLwu (a : LoadArgs) : State → Out := loadInstr (.lwu a) a 4 false

/-! ## Stores -/

/-- R55 item 3: a store that finds the drain queue full while a failed store is held. -/
def checkStoreHeld : Check := stopIf (fun s => s.sup.dheld && decide (16 ≤ drainCount s)) trapDeferredStore

/-- Whether a scalar store may access an address (R209, R212). -/
def storeOk (s : State) (ea : Word) (bytes : Nat) : Bool :=
  match classOf ea with
  | .scratch => localOk s ea.toNat bytes
  | .translated => true
  | .reserved | .group => false

def checkStoreClass (addr : State → Word) (bytes : Nat) : Check := fun s =>
  if storeOk s (addr s) bytes then none else some (trap 7 (addr s) s)

/-- A store that does not enter the drain queue: local, with the queue empty (R165, R213). -/
def storesDirectly (s : State) (e : StoreEntry) : Bool := e.scratch && s.off.drain.isEmpty

/-- Such a store waits while an earlier atomic of the hart has not been performed (R224), and while an earlier group load
has not read the bytes in this core's clearing (R225; assumption 85). -/
def storeWaits (s : State) (e : StoreEntry) : Bool := s.off.jobs.any fun j => j.atomic || readsEntry s e j

/-- Whether an entry finds room (R49, R116), or a store that is performed at once need not wait. -/
def entryRoom (s : State) (e : StoreEntry) : Bool :=
  if storesDirectly s e then !storeWaits s e
  else decide (drainCount s < 16)
    && (e.scratch || (decide (opsUsed s < 64) && s.off.jobs.all fun j => j.waiting.isEmpty))

/-- The hart stalls for an entry: on a resource of R49, or for the order of its accesses. -/
def stallEntry (e : StoreEntry) (s : State) : State := if storesDirectly s e then stall s else stallBlocked s

/-- Performs a local entry at once, or puts the entry into the drain queue (R116, R165); either takes a number. -/
def issueEntry (e : StoreEntry) (s : State) : State :=
  let s1 := { s with off := { s.off with nextId := s.off.nextId + 1 } }
  if storesDirectly s e then writeRuns (localKey s e.addr.toNat) (runsOf e.bytes) s1
  else { s1 with off := { s1.off with drain := s1.off.drain ++ [.store e] } }

/-- Issues the entries of a vector or tile store while they find room; what is left of them. -/
def issueEntries : List StoreEntry → State → List StoreEntry × State
  | [], s => ([], s)
  | e :: rest, s =>
    let e' : StoreEntry := { e with id := s.off.nextId }
    if entryRoom s e' then
      issueEntries rest (issueEntry e' { s with hart := { s.hart with storesDone := s.hart.storesDone + 1 } })
    else (e :: rest, s)

/-- R165: the queue is full behind a held store, part-way through an instruction: its entries leave the queue, and
DEFERRED_STORE is taken for the failed entry, which is held on only when it is an earlier instruction's. -/
def storePartWay (s : State) : State :=
  match drainStores s with
  | [] => s
  | e :: _ =>
    let s1 := dropUnretired s
    if unretired s e then
      trap 26 e.addr { s1 with sup := { s1.sup with dheld := false, dfpc := e.pc, dfinfo := s.off.heldInfo } }
    else trapDeferredStore s1

/-- The effect of a store of several entries: it goes on behind the entries that it has made already. -/
def storeEntries (entries : List StoreEntry) (s : State) : State :=
  let r := issueEntries (entries.drop s.hart.storesDone) s
  match r.1 with
  | [] => retire r.2
  | e :: _ => if r.2.sup.dheld && decide (16 ≤ drainCount r.2) then storePartWay r.2 else stallEntry e r.2

/-- A check that an instruction makes once, before its first entry. -/
def onceBefore (c : Check) : Check := fun s => if s.hart.storesDone = 0 then c s else none

/-- The entry of a scalar store. -/
def scalarEntry (s : State) (ea : Word) (data : List Byte) : StoreEntry :=
  { id := s.off.nextId, addr := ea, scratch := isLocal ea, pc := s.hart.pc, elem := 0, pid := s.sup.pid
    bytes := (List.range data.length).zip data, out := none, landed := false, lost := false }

/-- A scalar store of `bytes` bytes. -/
def storeInstr (i : Instr) (a : StoreArgs) (bytes : Nat) : State → Out :=
  let ea (s : State) : Word := effAddr s a.rs1 a.imm
  let entry (s : State) : StoreEntry := scalarEntry s (ea s) (wordToBytes bytes (xval s a.rs2))
  instr [noPrefix i, checkStoreHeld, checkSources [srcX a.rs1 false, srcX a.rs2 false], checkAligned 6 ea bytes,
      checkStoreClass ea bytes, checkAccess, stopIf (fun s => !entryRoom s (entry s)) fun s => stallEntry (entry s) s]
    fun s => retire (issueEntry (entry s) s)

def execSb (a : StoreArgs) : State → Out := storeInstr (.sb a) a 1
def execSh (a : StoreArgs) : State → Out := storeInstr (.sh a) a 2
def execSw (a : StoreArgs) : State → Out := storeInstr (.sw a) a 4
def execSd (a : StoreArgs) : State → Out := storeInstr (.sd a) a 8

end Sys2Proof.Machine
end

