-- ==== Sys2Proof/Machine/Flags.lean ====
section
/-!
DEFINITION. The sticky flags (R73, R138): how an instruction raises them, and the flags that operands raise.
-/
namespace Sys2Proof.Machine

/-- ORs flags into vflags (R73). -/
def raiseFlags (f : Flags) (s : State) : State := { s with user := { s.user with vflags := s.user.vflags ||| f } }

/-- The flags of several elements together. -/
def joinFlags : List Flags → Flags
  | [] => 0
  | f :: rest => f ||| joinFlags rest

/-- NV for a signalling NaN among the operands of a floating format (R73, R69). -/
def signallingFlags (f : Nat) (ops : List Num) : Flags := nvIf (isFloatFmt f && ops.any Num.isSNaN)

end Sys2Proof.Machine
end

