-- ==== Sys2Proof/Machine/Vector.lean ====
section
/-!
DEFINITION. Vector arithmetic (chapter 5): custom-0, the hardware loops and the prefix words.
-/
namespace Sys2Proof.Machine

/-! ## Formats (R135, R143) -/

/-- The formats of R143: f32, bf16, f16 and the integers of 8 to 64 bits. -/
def vecFmt (f : Nat) : Bool := decide (f ≤ 2) || (decide (8 ≤ f) && decide (f ≤ 15))

/-- A prefix without a rounding override, before an instruction that never rounds (R37). -/
def noRounding (e : Eff) : Bool := e.p.rm == 0

/-- fA = fB = fD, both sources read. -/
def sameFmts (e : Eff) : Bool := vecFmt e.d && e.a == e.d && e.b == e.d

/-- fA = fD, with fmtB without meaning. -/
def unaryFmts (e : Eff) : Bool := vecFmt e.d && e.a == e.d && e.p.b == 31

/-- Neither fmtA nor fmtB has a meaning. -/
def destFmt (e : Eff) : Bool := vecFmt e.d && e.p.a == 31 && e.p.b == 31

/-! ## The common form (R141) -/

/-- A custom-0 instruction: what it accepts, what it reads, and the group and flags that it produces. -/
def vecInstr (i : Instr) (a : VT) (mods : Bool) (legal : Eff → Bool) (srcs : List Source)
    (f : State → Eff → Nat × Flags) : State → Out :=
  instr [checkPrefix i mods legal, checkSources srcs, checkDest (vGroup a.d.toNat (groupRegs a.w))]
    fun s =>
      let r := f s (effOf s)
      retire (raiseFlags r.2 (writeGroup a.d.toNat (groupRegs a.w) r.1 s))

/-- Elements of width w in a group of width field W. -/
def groupElems (a : VT) (w : Nat) : Nat := groupRegs a.w * 512 / w

/-- The active elements computed, the others kept (R141). -/
def elementwise (s : State) (a : VT) (w : Nat) (elem : Nat → Nat × Flags) : Nat × Flags :=
  let n := groupElems a w
  let d := vval s a.d a.w
  let rs := ((List.range n).zip (activeBits s a w n)).map fun x => if x.2 then elem x.1 else (elemAt w d x.1, 0)
  (packElems w (rs.map (·.1)), joinFlags (rs.map (·.2)))

/-- s1 of the instruction as a source, and s2. -/
def vs1 (a : VT) : Source := vSource a.s1 a.w a.e1
def vs2 (a : VT) : Source := vSource a.s2 a.w a.e2
def xs1 (a : VT) : Source := srcX a.s1 a.e1
def xs2 (a : VT) : Source := srcX a.s2 a.e2

/-- d where the entry reads it. -/
def vd (a : VT) : Source := vSource a.d a.w false

/-! ## Arithmetic (R143) -/

/-- The result of an exact sum of terms, some of them products, on operands of format f. -/
def arith (e : Eff) (terms : List (Num × Bool)) (ops : List Num) : Nat × Flags :=
  let t := exactSum (terms.map (·.1))
  let r := finishElem e.mods t.1 e.d e.rm
  (r.1, r.2 ||| nvIf (isFloatFmt e.d && (t.2 || terms.any (·.2))) ||| signallingFlags e.d ops)

inductive ArithOp where
  | add | sub | mul | fma | fms
  deriving DecidableEq, Repr

def arithElem (op : ArithOp) (e : Eff) (d a b : Num) : Nat × Flags :=
  let p := mulNum a b
  match op with
  | .add => arith e [(a, false), (b, false)] [a, b]
  | .sub => arith e [(a, false), (b.neg, false)] [a, b]
  | .mul => arith e [p] [a, b]
  | .fma => arith e [(d, false), p] [d, a, b]
  | .fms => arith e [(d, false), (p.1.neg, p.2)] [d, a, b]

def readsD : ArithOp → Bool
  | .fma | .fms => true
  | .add | .sub | .mul => false

/-- An element of a vector operand. -/
def vElem (s : State) (base : RegIdx) (w : BitVec 2) (f i : Nat) : Num :=
  decodeElem f (elemAt (fmtWidth f) (vval s base w) i)

/-- The scalar operand: the low bits of an x register in a format (R135). -/
def scalarElem (s : State) (r : RegIdx) (f : Nat) : Nat := (xval s r).toNat % 2 ^ fmtWidth f

/-- The ten arithmetic operations but vmin and vmax; `scalar` where s2 is an x register. -/
def arithInstr (i : Instr) (a : VT) (op : ArithOp) (scalar : Bool) : State → Out :=
  let srcs := [vs1 a, if scalar then xs2 a else vs2 a] ++ (if readsD op then [vd a] else []) ++ maskSources a (!readsD op)
  vecInstr i a true sameFmts srcs fun s e =>
    elementwise s a (fmtWidth e.d) fun k =>
      let b := if scalar then decodeElem e.b (scalarElem s a.s2 e.b) else vElem s a.s2 a.w e.b k
      arithElem op e (vElem s a.d a.w e.d k) (vElem s a.s1 a.w e.a k) b

def execVadd (a : VT) : State → Out := arithInstr (.vadd a) a .add false
def execVsub (a : VT) : State → Out := arithInstr (.vsub a) a .sub false
def execVmul (a : VT) : State → Out := arithInstr (.vmul a) a .mul false
def execVfma (a : VT) : State → Out := arithInstr (.vfma a) a .fma false
def execVfms (a : VT) : State → Out := arithInstr (.vfms a) a .fms false
def execVaddx (a : VT) : State → Out := arithInstr (.vaddx a) a .add true
def execVmulx (a : VT) : State → Out := arithInstr (.vmulx a) a .mul true
def execVfmx (a : VT) : State → Out := arithInstr (.vfmx a) a .fma true

/-- Lesser or greater (R143): FMin and FMax for floating-point formats. -/
def minMaxElem (isMax : Bool) (f a b : Nat) : Nat × Flags :=
  node (if isMax then .max else .min) f .rne Mods.none a b

/-- An element-wise operation on the codes of two sources that neither rounds nor takes MOD. -/
def pairInstr (i : Instr) (a : VT) (legal : Eff → Bool) (elem : Nat → Nat → Nat → Nat × Flags) : State → Out :=
  vecInstr i a false (fun e => sameFmts e && noRounding e && legal e) ([vs1 a, vs2 a] ++ maskSources a true) fun s e =>
    let w := fmtWidth e.d
    elementwise s a w fun k => elem e.d (elemAt w (vval s a.s1 a.w) k) (elemAt w (vval s a.s2 a.w) k)

def anyFmt (_ : Eff) : Bool := true
def intOnly (e : Eff) : Bool := isIntFmt e.d

def execVmin (a : VT) : State → Out := pairInstr (.vmin a) a anyFmt (minMaxElem false)
def execVmax (a : VT) : State → Out := pairInstr (.vmax a) a anyFmt (minMaxElem true)

/-! ## Bits and shifts (R144) -/

def execVand (a : VT) : State → Out := pairInstr (.vand a) a anyFmt fun _ x y => (x &&& y, 0)
def execVor (a : VT) : State → Out := pairInstr (.vor a) a anyFmt fun _ x y => (x ||| y, 0)
def execVxor (a : VT) : State → Out := pairInstr (.vxor a) a anyFmt fun _ x y => (x ^^^ y, 0)

/-- The shift amount: the low log2 w bits. -/
def shiftAmount (f y : Nat) : Nat := y % fmtWidth f

def execVsll (a : VT) : State → Out :=
  pairInstr (.vsll a) a intOnly fun f x y => ((x <<< shiftAmount f y) % 2 ^ fmtWidth f, 0)

def execVsrl (a : VT) : State → Out := pairInstr (.vsrl a) a intOnly fun f x y => (x >>> shiftAmount f y, 0)

def execVsra (a : VT) : State → Out :=
  pairInstr (.vsra a) a intOnly fun f x y =>
    (((BitVec.ofNat (fmtWidth f) x).sshiftRight (shiftAmount f y)).toNat, 0)

/-! ## Compares and select (R145, R146) -/

inductive CmpOp where
  | eq | lt | le
  deriving DecidableEq, Repr

def compareElem (op : CmpOp) (f x y : Nat) : Nat × Flags :=
  let a := decodeElem f x
  let b := decodeElem f y
  let nan := a.isNaN || b.isNaN
  let holds := match op with
    | .eq => a.eqv b
    | .lt => a.lt b
    | .le => a.lt b || a.eqv b
  let nv := match op with
    | .eq => a.isSNaN || b.isSNaN
    | .lt | .le => nan
  (if holds && !nan then 2 ^ fmtWidth f - 1 else 0, nvIf nv)

def execVcmpeq (a : VT) : State → Out := pairInstr (.vcmpeq a) a anyFmt (compareElem .eq)
def execVcmplt (a : VT) : State → Out := pairInstr (.vcmplt a) a anyFmt (compareElem .lt)
def execVcmple (a : VT) : State → Out := pairInstr (.vcmple a) a anyFmt (compareElem .le)

/-- vsel: every element is written, from s1 where the mask holds and from s2 elsewhere. -/
def execVsel (a : VT) : State → Out :=
  vecInstr (.vsel a) a false (fun e => sameFmts e && noRounding e) [vs1 a, vs2 a, vSource 0 a.w false] fun s e =>
    let w := fmtWidth e.d
    let n := groupElems a w
    let rs := ((List.range n).zip (activeBits s { a with m := true } w n)).map fun x =>
      elemAt w (vval s (if x.2 then a.s1 else a.s2) a.w) x.1
    (packElems w rs, 0)

/-! ## Moves (R147) -/

def execVbcast (a : VT) : State → Out :=
  vecInstr (.vbcast a) a false (fun e => destFmt e && noRounding e) (xs1 a :: maskSources a true) fun s e =>
    elementwise s a (fmtWidth e.d) fun _ => (scalarElem s a.s1 e.d, 0)

/-- vmov reads s1 at the width of fD; a given fmtA must equal fD (R135). -/
def execVmov (a : VT) : State → Out :=
  vecInstr (.vmov a) a false
    (fun e => vecFmt e.d && (e.p.a == 31 || e.p.a == e.d) && e.p.b == 31 && noRounding e)
    (vs1 a :: maskSources a true) fun s e =>
      elementwise s a (fmtWidth e.d) fun k => (elemAt (fmtWidth e.d) (vval s a.s1 a.w) k, 0)

def execVidx (a : VT) : State → Out :=
  vecInstr (.vidx a) a false (fun e => destFmt e && noRounding e) (maskSources a true) fun s e =>
    elementwise s a (fmtWidth e.d) fun k => (encodeElem e.d (.ofInt k), 0)

/-! ## Functions (R148, R149) -/

def funcInstr (i : Instr) (a : VT) (op : FuncOp) : State → Out :=
  vecInstr i a true (fun e => unaryFmts e && decide (e.d ≤ 2)) (vs1 a :: maskSources a true) fun s e =>
    elementwise s a (fmtWidth e.d) fun k =>
      let v := funcValue op (vElem s a.s1 a.w e.a k)
      let r := finishElem e.mods v.1 e.d e.rm
      (r.1, r.2 ||| v.2)

def execVrcp (a : VT) : State → Out := funcInstr (.vrcp a) a .rcp
def execVrsq (a : VT) : State → Out := funcInstr (.vrsq a) a .rsq
def execVexp2 (a : VT) : State → Out := funcInstr (.vexp2 a) a .exp2
def execVlog2 (a : VT) : State → Out := funcInstr (.vlog2 a) a .log2

/-! ## Reductions (R150) -/

/-- The reduction to element 0; the other elements of the group become zero. -/
def redInstr (i : Instr) (a : VT) (op : RedOp) (mods : Bool) : State → Out :=
  vecInstr i a mods (fun e => unaryFmts e && (mods || noRounding e)) (vs1 a :: maskSources a false) fun s e =>
    let w := fmtWidth e.d
    let n := groupElems a w
    let v := vval s a.s1 a.w
    treeReduce op e.d e.rm e.mods (((List.range n).zip (activeBits s a w n)).map fun x =>
      if x.2 then some (elemAt w v x.1) else none)

def execVredsum (a : VT) : State → Out := redInstr (.vredsum a) a .sum true
def execVredmax (a : VT) : State → Out := redInstr (.vredmax a) a .max false
def execVredmin (a : VT) : State → Out := redInstr (.vredmin a) a .min false

/-! ## Four-way dot product (R151) -/

def dotFmts (e : Eff) : Bool :=
  (e.d == 12 && (e.a == 8 || e.a == 9) && (e.b == 8 || e.b == 9))
    || (e.d == 0 && (e.a == 1 || e.a == 2) && (e.b == 1 || e.b == 2))

/-- Destination element j takes the source elements 4j to 4j + 3. -/
def dot4Elem (s : State) (a : VT) (e : Eff) (j : Nat) : Nat × Flags :=
  let d := vElem s a.d a.w e.d j
  let ks := (List.range 4).map fun k => 4 * j + k
  let xs := ks.map (vElem s a.s1 a.w e.a)
  let ys := ks.map (vElem s a.s2 a.w e.b)
  arith e ((d, false) :: (xs.zip ys).map fun p => mulNum p.1 p.2) (d :: xs ++ ys)

/-- With 16-bit sources the upper half of the destination group keeps its value. -/
def execVdot4 (a : VT) : State → Out :=
  vecInstr (.vdot4 a) a true dotFmts ([vs1 a, vs2 a, vd a] ++ maskSources a false) fun s e =>
    let half := groupElems a (fmtWidth e.a) / 4
    elementwise s a 32 fun j => if j < half then dot4Elem s a e j else (elemAt 32 (vval s a.d a.w) j, 0)

/-! ## Loops and prefixes (R36 to R41, R153) -/

/-- The word stands at the end of an active loop. -/
def atLoopEnd (s : State) : Bool :=
  (s.hart.loop0.count != 0 && s.hart.pc == s.hart.loop0.last)
    || (s.hart.loop1.count != 0 && s.hart.pc == s.hart.loop1.last)

/-- loop: level, count register and the number of words in the body. -/
def execLoop (level : Bool) (rs1 : RegIdx) (len : BitVec 12) : State → Out :=
  let i := Instr.loop level rs1 len
  instr [noPrefix i, stopIf atLoopEnd (trapIllegal i), checkSources [srcX rs1 false]]
    fun s =>
      let last := s.hart.pc + place (4 * len.toNat) 0
      let l : Loop := { start := s.hart.pc + 4, last := last, count := xval s rs1 }
      let h := if level then { s.hart with loop1 := l } else { s.hart with loop0 := l }
      retireTo (if xval s rs1 = 0 then last + 4 else s.hart.pc + 4) { s with hart := h }

/-- A prefix word retires and stays pending. -/
def prefixWord (i : Instr) (clash : State → Bool) (set : Pending → Pending) : State → Out :=
  instr [stopIf (fun s => clash s || atLoopEnd s) (trapIllegal i)]
    fun s =>
      let p := set s.hart.pend
      let t := retire s
      { t with hart := { t.hart with pend := { p with first := faultPc s } } }

def execFmt (rm : BitVec 3) (fmtB fmtA fmtD : BitVec 5) : State → Out :=
  let i := Instr.fmt rm fmtB fmtA fmtD
  prefixWord i prefixPending fun p => { p with f := (wordOf i).setWidth 32, fv := true }

/-- MOD may follow FMT, never another MOD. -/
def execMod (abs neg clamp sat : Bool) (k : BitVec 5) : State → Out :=
  let i := Instr.mod abs neg clamp sat k
  prefixWord i (fun s => s.hart.pend.mv) fun p => { p with m := (wordOf i).setWidth 32, mv := true }

end Sys2Proof.Machine
end

