-- ==== Sys2Proof/Machine/VecMem.lean ====
section
/-!
DEFINITION. Vector memory access and format conversion (chapter 6): custom-1.
-/
namespace Sys2Proof.Machine

/-! ## Addresses (R160 to R162) -/

inductive VecMode where
  | contiguous | strided | indexed
  deriving DecidableEq, Repr

/-- The integer codes of a width, iN and nN. -/
def intCode (w : Nat) : Nat := if w = 8 then 8 else if w = 16 then 10 else if w = 32 then 12 else 14

/-- What a vector load or store accepts (R158). -/
def moveFmts (m : VecMode) (e : Eff) : Bool :=
  movableFmt e.d && e.p.a == 31 && noRounding e
    && (e.p.b == 31 || (m == .indexed && (e.p.b == intCode (fmtWidth e.d) || e.p.b == intCode (fmtWidth e.d) + 1)))

/-- The offset of element i. -/
def elemOffset (s : State) (a : VT) (m : VecMode) (e : Eff) (i : Nat) : Word :=
  let w := fmtWidth e.d
  match m with
  | .contiguous => place (i * (w / 8)) 0
  | .strided => place i 0 * xval s a.s2
  | .indexed =>
    let v := elemAt w (vval s a.s2 a.w) i
    let idx : Word := if e.b = intCode w then (BitVec.ofNat w v).signExtend 64 else place v 0
    idx * place (w / 8) 0

/-- The active elements with their addresses, in ascending index order. -/
def activeElems (s : State) (a : VT) (m : VecMode) (e : Eff) : List (Nat × Word) :=
  let w := fmtWidth e.d
  let n := groupElems a w
  (((List.range n).zip (activeBits s a w n)).filter fun x => x.2).map fun x =>
    (x.1, xval s a.s1 + elemOffset s a m e x.1)

/-- Whether one element's access is accepted (R161). -/
def elemOk (s : State) (ea : Word) (bytes : Nat) : Bool :=
  match classOf ea with
  | .scratch => localOk s ea.toNat bytes
  | .translated => true
  | .reserved | .group => false

/-- R162: alignment before access, and the lowest element of either. -/
def checkElems (store : Bool) (elems : State → Eff → List (Nat × Word)) : Check := fun s =>
  let e := effOf s
  let wb := fmtWidth e.d / 8
  let es := elems s e
  match es.find? fun x => x.2.toNat % wb != 0 with
  | some x => some (trap (if store then 6 else 4) x.2 s)
  | none =>
    match es.find? fun x => !elemOk s x.2 wb with
    | some x => some (trap (if store then 7 else 5) x.2 s)
    | none => none

/-! ## Loads (R163, R164) -/

/-- Requests of at most 128 bytes: neighbouring elements of one aligned 128-byte line share one. -/
def lineGroups : List (Nat × Word) → List (List (Nat × Word))
  | [] => []
  | x :: rest =>
    match lineGroups rest with
    | (y :: g) :: more => if x.2.toNat / 128 = y.2.toNat / 128 then (x :: y :: g) :: more else [x] :: (y :: g) :: more
    | more => [x] :: more

/-- The request of a group of elements of wb bytes. -/
def groupPart (s : State) (wb : Nat) (no : Nat) (g : List (Nat × Word)) : Part :=
  let addrs := g.map fun x => x.2.toNat
  let lo := addrs.foldl min (addrs.headD 0)
  let hi := addrs.foldl max 0
  mkPart no (place lo 0) s.sup.pid (hi + wb - lo)
    (g.map fun x => { src := x.2.toNat - lo, len := wb, dst := x.1 * wb, elem := x.1 })

def numbered {α : Type} (l : List α) : List (Nat × α) := (List.range l.length).zip l

def vecParts (s : State) (wb : Nat) (es : List (Nat × Word)) : List Part :=
  (numbered (lineGroups (es.filter fun x => !isLocal x.2))).map fun x => groupPart s wb x.1 x.2

/-- The bytes of a group read as one number. -/
def groupImage (s : State) (base : RegIdx) (g : Nat) : List Byte := bytesOf (64 * g) (groupValue s base.toNat g)

/-- The image of the destination with the LOCAL elements in place, and the lowest of them that cannot be read. -/
def localImage (s : State) (a : VT) (wb : Nat) (es : List (Nat × Word)) : List Byte × Option Nat :=
  let here := es.filter fun x => isLocal x.2
  let base := if a.m then groupImage s a.d (groupRegs a.w) else List.replicate (64 * groupRegs a.w) 0
  (here.foldl (fun img x => patch img (x.1 * wb) (readLocal s x.2.toNat wb)) base,
   (here.find? fun x => poisoned s (localKey s x.2.toNat) wb).map (·.1))

/-- The failure record of a LOCAL element. -/
def localFailure (s : State) (i : Nat) : Nat × BitVec 16 × BitVec 12 × BitVec 12 :=
  (i, dMemoryUncorrectable, s.ras.pkg, 0)

/-- The effect of a vector load. -/
def vecLoad (a : VT) (es : List (Nat × Word)) (wb : Nat) (s : State) : State :=
  let img := localImage s a wb es
  let parts := vecParts s wb es
  let d : Dest := .v a.d.toNat (groupRegs a.w)
  if parts.isEmpty then
    match img.2 with
    | some i => retire (failDest d s.hart.pc (dfinfoWord s.ras.pkg.toNat 0 i 4 dMemoryUncorrectable) s)
    | none => retire (completeDest d (natOf img.1) s)
  else
    let j : Job := { loadJob s d 4 .image img.1 parts with failure := img.2.map (localFailure s) }
    retire (pump 64 (startJob j (nextPc s) s))

/-- An off-core vector load finds an operation and a slot, and no atomic on its words (R49, R226). -/
def checkVecIssue (elems : State → Eff → List (Nat × Word)) : Check := fun s =>
  let e := effOf s
  let far := (elems s e).filter fun x => !isLocal x.2
  if !far.isEmpty && (!canIssue s || far.any fun x => hitsAtomic s x.2 (fmtWidth e.d / 8)) then some (stallBlocked s)
  else none

/-- The address operands of a vector access. -/
def addrSources (a : VT) (m : VecMode) : List Source :=
  match m with
  | .contiguous => [xs1 a]
  | .strided => [xs1 a, xs2 a]
  | .indexed => [xs1 a, vs2 a]

def vecLoadInstr (i : Instr) (a : VT) (m : VecMode) : State → Out :=
  let elems (s : State) (e : Eff) : List (Nat × Word) := activeElems s a m e
  instr [checkPrefix i false (moveFmts m), checkSources (addrSources a m ++ maskSources a true), checkElems false elems,
      checkDest (vGroup a.d.toNat (groupRegs a.w)), checkAccess, checkVecIssue elems]
    fun s =>
      let e := effOf s
      vecLoad a (elems s e) (fmtWidth e.d / 8) s

def execVld (a : VT) : State → Out := vecLoadInstr (.vld a) a .contiguous
def execVlds (a : VT) : State → Out := vecLoadInstr (.vlds a) a .strided
def execVldx (a : VT) : State → Out := vecLoadInstr (.vldx a) a .indexed

/-! ## Stores (R165) -/

/-- Whether an element goes on the entry that ends with the other: above it, in the same 64-byte segment. -/
def joinsEntry (lastAddr addr wb : Nat) : Bool := decide (lastAddr + wb ≤ addr) && lastAddr / 64 == addr / 64

/-- Entries of the active elements: consecutive ones whose addresses ascend within an aligned 64-byte segment. -/
def entryGroups (wb : Nat) : List (Nat × Word) → List (List (Nat × Word))
  | [] => []
  | x :: rest =>
    match entryGroups wb rest with
    | (y :: g) :: more =>
      if joinsEntry x.2.toNat y.2.toNat wb then (x :: y :: g) :: more else [x] :: (y :: g) :: more
    | more => [x] :: more

/-- The entry of a group of elements: the bytes of each at its offset. -/
def groupEntry (s : State) (data : Nat → List Byte) (g : List (Nat × Word)) : StoreEntry :=
  let first := g.headD (0, 0)
  { id := 0, addr := first.2, scratch := isLocal first.2, pc := s.hart.pc, elem := first.1, pid := s.sup.pid
    bytes := g.flatMap fun x =>
      (numbered (data x.1)).map fun b => (x.2.toNat - first.2.toNat + b.1, b.2)
    out := none, landed := false, lost := false }

def vecEntries (s : State) (a : VT) (m : VecMode) (e : Eff) : List StoreEntry :=
  let w := fmtWidth e.d
  let d := vval s a.d a.w
  (entryGroups (w / 8) (activeElems s a m e)).map (groupEntry s fun i => bytesOf (w / 8) (elemAt w d i))

/-- A vector store: its checks are made once, at issue, where its data are read. -/
def vecStoreInstr (i : Instr) (a : VT) (m : VecMode) : State → Out :=
  instr [checkPrefix i false (moveFmts m), onceBefore checkStoreHeld,
      onceBefore (checkSources (addrSources a m ++ vd a :: maskSources a false)),
      onceBefore (checkElems true (fun s e => activeElems s a m e)), onceBefore checkAccess]
    fun s => storeEntries (vecEntries s a m (effOf s)) s

def execVst (a : VT) : State → Out := vecStoreInstr (.vst a) a .contiguous
def execVsts (a : VT) : State → Out := vecStoreInstr (.vsts a) a .strided
def execVstx (a : VT) : State → Out := vecStoreInstr (.vstx a) a .indexed

/-! ## Group loads (R167, R292, R293) -/

/-- Elements that a vgld reduces: all of the group, or of one register under a skip operation. -/
def vgldElems (a : VT) (ea : Word) : Nat :=
  let w := fmtWidth (groupFmt (groupType ea))
  if groupIsSkip ea then min (512 / w) 16 else groupElems a w

/-- Whether vgld accepts the address (R167, R294). -/
def vgldOk (a : VT) (ea : Word) : Bool :=
  classOf ea == .group && groupAddrOk ea && groupOffset ea % groupBytes ea == 0
    && decide (groupOffset ea + vgldElems a ea * groupBytes ea ≤ 2 ^ 19)
    && (!groupIsSkip ea || (a.w == 0 && a.d.toNat % 2 == 0))

/-- A given fmtD that is not the format of the address's element type (R158, R167); where the address has no element type
vgldOk refuses it (assumption 86). -/
def vgldFmtBad (s : State) (ea : Word) : Bool :=
  let p := (effOf s).p
  classOf ea == .group && decide (groupType ea ≤ 6) && p.d != 31 && p.d != groupFmt (groupType ea)

/-- Destination registers: the group, or d and the count register. -/
def vgldRegs (a : VT) (ea : Word) : Nat := if groupIsSkip ea then 2 else groupRegs a.w

/-- One request for each destination register; under a skip operation one for both. -/
def vgldParts (s : State) (a : VT) (ea : Word) : List Part :=
  let wb := groupBytes ea
  if groupIsSkip ea then
    [{ mkPart 0 ea s.sup.pid (vgldElems a ea * wb) [{ src := 0, len := 128, dst := 0, elem := 0 }] with slots := 2 }]
  else
    (List.range (groupRegs a.w)).map fun p =>
      mkPart p (ea + place (64 * p) 0) s.sup.pid 64 [{ src := 0, len := 64, dst := 64 * p, elem := p * (64 / wb) }]

/-- Room for the first request: one operation, and one slot or two. -/
def checkGroupIssue (ea : State → Word) : Check := fun s =>
  let slots := if groupIsSkip (ea s) then 2 else 1
  if canIssue s && decide (slotsUsed s + slots ≤ 32) then none else some (stallBlocked s)

def execVgld (a : VT) : State → Out :=
  let i := Instr.vgld a
  let ea (s : State) : Word := xval s a.s1
  instr [checkPrefix i false (fun e => e.p.a == 31 && e.p.b == 31 && noRounding e), checkSources [xs1 a],
      stopIf (fun s => vgldFmtBad s (ea s)) (trapIllegal i),
      fun s => if vgldOk a (ea s) then none else some (trap 5 (ea s) s),
      fun s => checkDest (vGroup a.d.toNat (vgldRegs a (ea s))) s, checkAccess, checkGroupIssue ea]
    fun s =>
      let n := vgldRegs a (ea s)
      let j := loadJob s (.v a.d.toNat n) 5 .image (List.replicate (64 * n) 0) (vgldParts s a (ea s))
      retire (pump 64 (startJob j (nextPc s) s))

/-! ## Slides and permute (R168) -/

/-- Element i of the result is source element j, or zero where there is none. -/
def moveElems (i : Instr) (a : VT) (legal : Eff → Bool) (src2 : Source) (from_ : State → Eff → Nat → Nat → Option Nat) :
    State → Out :=
  vecInstr i a false (fun e => movableFmt e.d && (e.p.a == 31 || e.p.a == e.d) && noRounding e && legal e)
    ([vs1 a, src2] ++ maskSources a true) fun s e =>
      let w := fmtWidth e.d
      let n := groupElems a w
      let v := vval s a.s1 a.w
      elementwise s a w fun k => (((from_ s e n k).map (elemAt w v)).getD 0, 0)

def slideFmts (e : Eff) : Bool := e.p.b == 31

def execVslup (a : VT) : State → Out :=
  moveElems (.vslup a) a slideFmts (xs2 a) fun s _ _ k =>
    let amount := (xval s a.s2).toNat
    if amount ≤ k then some (k - amount) else none

def execVsldn (a : VT) : State → Out :=
  moveElems (.vsldn a) a slideFmts (xs2 a) fun s _ n k =>
    let j := k + (xval s a.s2).toNat
    if j < n then some j else none

def execVperm (a : VT) : State → Out :=
  moveElems (.vperm a) a (fun e => e.p.b == 31 || e.p.b == intCode (fmtWidth e.d) + 1) (vs2 a) fun s e n k =>
    let j := elemAt (fmtWidth e.d) (vval s a.s2 a.w) k
    if j < n then some j else none

/-! ## Conversion (R169) -/

/-- CONVERT_OVERFLOW reports the lowest overflowing element (R76). -/
def checkConvert {α : Type} (f : State → Except Nat α) : Check := fun s =>
  match f s with
  | .error i => some (trap 27 (place i 0) s)
  | .ok _ => none

/-- Converts elements in index order: the codes and flags, or the first element that traps. -/
def convertAll (oft sat : Bool) (f : Nat) (rm : Rm) : Nat → List Num → Except Nat (List Nat × Flags)
  | _, [] => .ok ([], 0)
  | i, v :: rest =>
    match convertElem oft sat v f rm, convertAll oft sat f rm (i + 1) rest with
    | none, _ => .error i
    | some _, .error j => .error j
    | some r, .ok q => .ok (r.1 :: q.1, r.2 ||| q.2)

/-- Elements of a vcvt, and the registers that its narrower operand fills. -/
def cvtElems (a : VT) (e : Eff) : Nat := groupRegs a.w * 512 / max (fmtWidth e.a) (fmtWidth e.d)
def cvtRegs (a : VT) (e : Eff) (w : Nat) : Nat := ceilDiv (cvtElems a e * w) 512

def cvtFmts (a : VT) (e : Eff) : Bool :=
  convertFmt e.d && convertFmt e.a && e.p.b == 31 && !(a.m && (fmtWidth e.d == 4 || fmtWidth e.a == 4))

/-- Converts the active elements, with their index; an inactive element keeps d's code. -/
def cvtList (s : State) (a : VT) (e : Eff) : List (Nat × Bool) → Except Nat (List Nat × Flags)
  | [] => .ok ([], 0)
  | (i, active) :: rest =>
    let kept := elemAt (fmtWidth e.d) (vval s a.d a.w) i
    let here :=
      if active then
        convertElem s.user.oft e.mods.sat (modSteps e.mods (decodeElem e.a (elemAt (fmtWidth e.a) (vval s a.s1 a.w) i))) e.d e.rm
      else some (kept, 0)
    match here, cvtList s a e rest with
    | none, _ => .error i
    | some _, .error j => .error j
    | some r, .ok q => .ok (r.1 :: q.1, r.2 ||| q.2)

def cvtResult (a : VT) (s : State) : Except Nat (Nat × Flags) :=
  let e := effOf s
  let n := cvtElems a e
  match cvtList s a e ((List.range n).zip (activeBits s a (fmtWidth e.d) n)) with
  | .error i => .error i
  | .ok r => .ok (packElems (fmtWidth e.d) r.1, r.2)

/-- The registers that a vcvt reads. -/
def cvtSources (s : State) (a : VT) : List Source :=
  let e := effOf s
  let d := vGroup a.d.toNat (cvtRegs a e (fmtWidth e.d))
  (vGroup a.s1.toNat (cvtRegs a e (fmtWidth e.a)), a.e1)
    :: (if a.m then [(d, false), vSource 0 a.w false] else [])

def execVcvt (a : VT) : State → Out :=
  instr [checkPrefix (.vcvt a) true (cvtFmts a), fun s => checkSources (cvtSources s a) s, checkConvert (cvtResult a),
      fun s => checkDest (vGroup a.d.toNat (cvtRegs a (effOf s) (fmtWidth (effOf s).d))) s]
    fun s =>
      match cvtResult a s with
      | .error _ => s
      | .ok r =>
        let e := effOf s
        retire (raiseFlags r.2 (writeGroup a.d.toNat (cvtRegs a e (fmtWidth e.d)) r.1 s))

/-! ## Block quantisation (R170, R171) -/

/-- W is 01 for f32 elements and 00 for 16-bit ones. -/
def blockWidth (a : VT) (f : Nat) : Bool := if f = 0 then a.w == 1 else a.w == 0

def vqFmts (a : VT) (e : Eff) : Bool :=
  isBlockFmt e.d && decide (e.a ≤ 2) && e.p.b == 31 && noRounding e && blockWidth a e.a

/-- The quantised block: scale, codes and flags. -/
def quantise (oft : Bool) (md : Mods) (f : Nat) (xs : List Num) : QuantResult :=
  if isTidal f then quantTidal oft md.sat f (xs.map (modSteps md)) else quantMx oft md.sat f (xs.map (modSteps md))

def vqResult (a : VT) (s : State) : Except Nat (Nat × Nat × Flags) :=
  let e := effOf s
  let xs := (elemsOf (fmtWidth e.a) (vval s a.s1 a.w) 32).map (decodeElem e.a)
  match quantise s.user.oft e.mods e.d xs with
  | .trap i => .error i
  | .ok scale codes fl => .ok (scale, packElems (fmtWidth e.d) codes, fl)

def execVqblk (a : VT) : State → Out :=
  instr [checkPrefix (.vqblk a) true (vqFmts a), checkSources [vs1 a], checkConvert (vqResult a),
      checkDest (.v a.d.toNat :: dstX a.s2)]
    fun s =>
      match vqResult a s with
      | .error _ => s
      | .ok (scale, codes, fl) =>
        retire (raiseFlags fl (setX a.s2 (place scale 0) (writeV a.d.toNat (BitVec.ofNat 512 codes) s)))

def vdqFmts (a : VT) (e : Eff) : Bool :=
  decide (e.d ≤ 2) && isBlockFmt e.a && e.p.b == 31 && blockWidth a e.d

/-- A code with the scale that x[s2] holds. -/
def decodeBlock (f code : Nat) (scale : Word) : Num :=
  if isTidal f then decodeTidal f code (field scale 0 24) else decodeMx f code (field scale 0 8)

def vdqResult (a : VT) (s : State) : Except Nat (Nat × Flags) :=
  let e := effOf s
  let codes := elemsOf (fmtWidth e.a) (getV s a.s1.toNat).val.toNat 32
  match convertAll s.user.oft false e.d e.rm 0 (codes.map fun c => decodeBlock e.a c (xval s a.s2)) with
  | .error i => .error i
  | .ok r => .ok (packElems (fmtWidth e.d) r.1, r.2)

def execVdqblk (a : VT) : State → Out :=
  instr [checkPrefix (.vdqblk a) false (vdqFmts a), checkSources [vs1 a, xs2 a], checkConvert (vdqResult a),
      checkDest (vGroup a.d.toNat (groupRegs a.w))]
    fun s =>
      match vdqResult a s with
      | .error _ => s
      | .ok r => retire (raiseFlags r.2 (writeGroup a.d.toNat (groupRegs a.w) r.1 s))

end Sys2Proof.Machine
end

