-- ==== Sys2Proof/Machine/Tile.lean ====
section
/-!
DEFINITION. Tile instructions that work on the core alone (chapter 7): tld, tst, tzero, tget, tins, tcvt, ttrn.
-/
namespace Sys2Proof.Machine

/-! ## Checks -/

def illegalIf (i : Instr) (p : State → Bool) : Check := stopIf p (trapIllegal i)
def arrayIf (i : Instr) (p : State → Bool) : Check := stopIf p (trapArray i)

/-- The span of a tile destination (R174). -/
def destSpan (a : VT) : Nat := 2 ^ a.w.toNat

/-- A shape whose FORMAT an FMT field replaces where that is not 31. -/
def Shape.override (h : Shape) (f : Nat) : Shape := if f = 31 then h else { h with fmt := f }

/-- A field that names a register, with a FORMAT that is not accepted (R176; assumption 26). -/
def badFmt (s : State) (f : Nat) (h : Shape) (ok : Nat → Bool) : Bool := tileExists s f && !ok h.fmt

def tileFmt (f : Nat) : Bool := decide (f ≤ 16)

/-- Whether two runs of tile numbers have one in common. -/
def runsMeet (a n b m : Nat) : Bool := decide (a < b + m) && decide (b < a + n)

/-! ## tld and tst (R198) -/

def moveShape (s : State) (a : VT) : Shape := (tileShape s a.d.toNat).override (effOf s).p.d

def tileMoveFmts (e : Eff) : Bool := e.p.a == 31 && e.p.b == 31 && noRounding e

/-- Bytes that are checked and entered together: an element, or a byte of two 4-bit ones. -/
def Shape.step (h : Shape) : Nat := max 1 (fmtWidth h.fmt / 8)

def rowAddr (s : State) (a : VT) (r : Nat) : Word := xval s a.s1 + place r 0 * xval s a.s2

/-- The elements of the tile in ascending row order with their addresses. -/
def tileElems (s : State) (a : VT) : List (Nat × Word) :=
  let h := moveShape s a
  let per := h.rowBytes / h.step
  (List.range h.rows).flatMap fun r =>
    (List.range per).map fun k => (r * per + k, rowAddr s a r + place (k * h.step) 0)

/-- Base and stride are multiples of 16. -/
def checkTileAlign (cause : Nat) (a : VT) : Check :=
  stopIf (fun s => (xval s a.s1).toNat % 16 != 0 || (xval s a.s2).toNat % 16 != 0) fun s => trap cause (xval s a.s1) s

/-- Classes and bounds, element by element (R161, R162). -/
def checkTileAccess (cause : Nat) (a : VT) : Check := fun s =>
  ((tileElems s a).find? fun x => !elemOk s x.2 (moveShape s a).step).map fun x => trap cause x.2 s

/-- The checks that `tld` and `tst` share up to their sources. -/
def tileMoveStatic (i : Instr) (a : VT) : List Check :=
  [checkPrefix i false tileMoveFmts, illegalIf i fun s => badFmt s a.d.toNat (moveShape s a) tileFmt]

def tileMoveShape (i : Instr) (a : VT) : Check :=
  arrayIf i fun s => !tilesInCount s a.d.toNat (destSpan a) || !(moveShape s a).valid (destSpan a)

/-- Bytes of a row cut at aligned 128-byte lines: address, offset in the row, number. -/
def lineCuts : Nat → Word → Nat → Nat → List (Word × Nat × Nat)
  | 0, _, _, _ => []
  | fuel + 1, addr, off, len =>
    if len = 0 then []
    else
      let n := min len (128 - addr.toNat % 128)
      (addr, off, n) :: lineCuts fuel (addr + place n 0) (off + n) (len - n)

/-- The cuts of every row: row, address, position in the tile's bytes, number. -/
def tileCuts (s : State) (a : VT) : List (Nat × Word × Nat × Nat) :=
  let h := moveShape s a
  (List.range h.rows).flatMap fun r =>
    (lineCuts (h.rowBytes + 1) (rowAddr s a r) 0 h.rowBytes).map fun c => (r, c.1, r * h.rowBytes + c.2.1, c.2.2)

def farCuts (s : State) (a : VT) : List (Nat × Word × Nat × Nat) := (tileCuts s a).filter fun c => !isLocal c.2.1

/-- Requests to memory, one for each cut (R120). -/
def tileParts (s : State) (a : VT) : List Part :=
  (numbered (farCuts s a)).map fun x =>
    mkPart x.1 x.2.2.1 s.sup.pid x.2.2.2.2 [{ src := 0, len := x.2.2.2.2, dst := x.2.2.2.1, elem := x.2.1 }]

/-- The image with the local rows in place, and the lowest row that cannot be read. -/
def tileLocal (s : State) (a : VT) : List Byte × Option Nat :=
  let here := (tileCuts s a).filter fun c => isLocal c.2.1
  (here.foldl (fun img c => patch img c.2.2.1 (readLocal s c.2.1.toNat c.2.2.2))
      (List.replicate (8192 * destSpan a) 0),
   (here.find? fun c => poisoned s (localKey s c.2.1.toNat) c.2.2.2).map (·.1))

/-- The job of a `tld`: always a producer (R47); a wholly local one makes no request, and an answer
without bytes completes it. -/
def tldJob (s : State) (a : VT) : Job :=
  let img := tileLocal s a
  let parts := tileParts s a
  { loadJob s (.m (physTile s a.d.toNat) (destSpan a)) 6 .image img.1 parts with
    failure := img.2.map (localFailure s), issued := if parts.isEmpty then [{ plainPart 0 with slots := 0 }] else [] }

def checkTileIssue (a : VT) : Check :=
  stopIf (fun s =>
      let far := farCuts s a
      !far.isEmpty && (!canIssue s || far.any fun c => hitsAtomic s c.2.1 c.2.2.2)) stallBlocked

def execTld (a : VT) : State → Out :=
  let i := Instr.tld a
  instr (tileMoveStatic i a ++
      [tileMoveShape i a, checkSources [xs1 a, xs2 a], checkTileAlign 4 a, checkTileAccess 5 a,
        checkTileDest (fun s => tileRegs s a.d.toNat (destSpan a)), checkAccess, checkTileIssue a])
    fun s =>
      let j := tldJob s a
      let s1 := startJob j (nextPc s) s
      retire (if j.waiting.isEmpty then post (.producerCompletion j.id 0 (.bytes [])) s1 else pump 64 s1)

/-- The store entries of a tile; each names the row that holds its first byte. -/
def tileEntries (s : State) (a : VT) : List StoreEntry :=
  let h := moveShape s a
  let per := h.rowBytes / h.step
  let v := tval s a.d.toNat (destSpan a)
  ((entryGroups h.step (tileElems s a)).map (groupEntry s fun k => bytesOf h.step (v >>> (8 * h.step * k)))).map
    fun e => { e with elem := e.elem / per }

def execTst (a : VT) : State → Out :=
  let i := Instr.tst a
  instr (tileMoveStatic i a ++
      [onceBefore checkStoreHeld, tileMoveShape i a,
        onceBefore (fun s => checkSources [xs1 a, xs2 a, mSource s a.d.toNat (destSpan a) false] s),
        onceBefore (checkTileAlign 6 a), onceBefore (checkTileAccess 7 a), onceBefore checkAccess])
    fun s => storeEntries (tileEntries s a) s

/-! ## tzero (R199) -/

def execTzero (a : VT) : State → Out :=
  let i := Instr.tzero a
  instr [noPrefix i, arrayIf i (fun s => !tilesInCount s a.d.toNat (destSpan a)),
      checkTileDest (fun s => tileRegs s a.d.toNat (destSpan a))]
    fun s => retire (writeTile (physTile s a.d.toNat) (destSpan a) 0 s)

/-! ## tget and tins (R204) -/

/-- The non-block formats that convert. -/
def plainFmt (f : Nat) : Bool := convertFmt f && !isBlockFmt f

/-- The vector format fits the tile's. -/
def partFmts (ft fv : Nat) : Bool :=
  if isBlockFmt ft then fv == ft else plainFmt ft && plainFmt fv

/-- Row, column, and whether the rest of the selector is zero. -/
def selRow (w : Word) : Nat := field w 0 6
def selCol (w : Word) : Nat := field w 8 9

def selBad (w : Word) (h : Shape) (n : Nat) : Bool :=
  field w 6 2 != 0 || field w 17 47 != 0 || decide (h.rows ≤ selRow w) || decide (h.cols ≤ selCol w)
    || selCol w % n != 0

/-- Elements moved. -/
def partElems (ft fv : Nat) : Nat := 512 / max (fmtWidth ft) (fmtWidth fv)

/-- An element from one format to another: the bits alone where the formats are the same. -/
def partConvert (s : State) (f g : Nat) (rm : Rm) (code : Nat) : Option (Nat × Flags) :=
  if f = g then some (code, 0) else convertElem s.user.oft false (decodeElem f code) g rm

/-- Elements from 0 up: codes and flags, or the lowest that overflows. -/
def partCodes (conv : Nat → Option (Nat × Flags)) : List Nat → Except Nat (List Nat × Flags)
  | [] => .ok ([], 0)
  | k :: rest =>
    match conv k, partCodes conv rest with
    | none, _ => .error k
    | some _, .error j => .error j
    | some r, .ok q => .ok (r.1 :: q.1, r.2 ||| q.2)

/-- The vector format of `tget`, of `tins`. -/
def tgetFmt (s : State) (a : VT) : Nat :=
  let p := (effOf s).p
  if p.d = 31 then (tileShape s a.s1.toNat).fmt else p.d

def tinsFmt (s : State) (a : VT) : Nat :=
  let p := (effOf s).p
  if p.a = 31 then (tileShape s a.d.toNat).fmt else p.a

def tgetResult (a : VT) (s : State) : Except Nat (List Nat × Flags) :=
  let h := tileShape s a.s1.toNat
  let fv := tgetFmt s a
  let v := tval s a.s1.toNat h.span
  let r := selRow (xval s a.s2)
  let c := selCol (xval s a.s2)
  partCodes (fun k =>
      if c + k < h.cols then partConvert s h.fmt fv (effOf s).rm (tileElem h v r (c + k)) else some (0, 0))
    (List.range (partElems h.fmt fv))

def execTget (a : VT) : State → Out :=
  let i := Instr.tget a
  let h (s : State) : Shape := tileShape s a.s1.toNat
  instr [checkPrefix i false (fun e => e.p.b == 31),
      illegalIf i (fun s =>
        tileExists s a.s1.toNat
          && (!partFmts (h s).fmt (tgetFmt s a) || ((effOf s).p.a != 31 && (effOf s).p.a != (h s).fmt)
            || !srcAligned a.s1.toNat (h s))),
      arrayIf i (fun s => !tilesInCount s a.s1.toNat (h s).span || !(h s).validSource),
      fun s => checkSources [mSource s a.s1.toNat (h s).span a.e1, xs2 a] s,
      arrayIf i (fun s => selBad (xval s a.s2) (h s) (partElems (h s).fmt (tgetFmt s a))),
      checkConvert (tgetResult a), checkDest [.v a.d.toNat]]
    fun s =>
      match tgetResult a s with
      | .error _ => s
      | .ok r =>
        retire (raiseFlags r.2 (writeV a.d.toNat (BitVec.ofNat 512 (packElems (fmtWidth (tgetFmt s a)) r.1)) s))

/-- The converted elements that `tins` writes. -/
def tinsResult (a : VT) (s : State) : Except Nat (List Nat × Flags) :=
  let h := tileShape s a.d.toNat
  let fv := tinsFmt s a
  let v := (getV s a.s1.toNat).val.toNat
  let c := selCol (xval s a.s2)
  partCodes (fun k => partConvert s fv h.fmt (effOf s).rm (elemAt (fmtWidth fv) v k))
    (List.range (min (partElems h.fmt fv) (h.cols - c)))

/-- A tile's elements with those from index `at_` on replaced; the bytes beyond the shape become zero (R176). -/
def insertCodes (h : Shape) (v at_ : Nat) (codes : List Nat) : Nat :=
  let old := elemsOf (fmtWidth h.fmt) v (h.rows * h.cols)
  packElems (fmtWidth h.fmt) (old.take at_ ++ codes ++ old.drop (at_ + codes.length))

def execTins (a : VT) : State → Out :=
  let i := Instr.tins a
  let h (s : State) : Shape := tileShape s a.d.toNat
  let span := destSpan a
  instr [checkPrefix i false (fun e => e.p.b == 31),
      illegalIf i (fun s =>
        tileExists s a.d.toNat
          && (!partFmts (h s).fmt (tinsFmt s a) || ((effOf s).p.d != 31 && (effOf s).p.d != (h s).fmt))),
      arrayIf i (fun s => !tilesInCount s a.d.toNat span || !(h s).valid span),
      fun s => checkSources [([.v a.s1.toNat], a.e1), xs2 a, mSource s a.d.toNat span false] s,
      arrayIf i (fun s => selBad (xval s a.s2) (h s) (partElems (h s).fmt (tinsFmt s a))),
      checkTileDest (fun s => tileRegs s a.d.toNat span), checkConvert (tinsResult a)]
    fun s =>
      match tinsResult a s with
      | .error _ => s
      | .ok r =>
        let at_ := selRow (xval s a.s2) * (h s).cols + selCol (xval s a.s2)
        retire (raiseFlags r.2
          (writeTile (physTile s a.d.toNat) span (insertCodes (h s) (tval s a.d.toNat span) at_ r.1) s))

/-! ## Scales (R178) -/

/-- The scale of row r, column c in a companion's bytes; k columns. Where k is no multiple of 32 the row's first scale is
number r × k ÷ 32, rounded down (assumption 37). -/
def scaleAt (f companion k r c : Nat) : Nat :=
  let n := r * k / 32 + c / 32
  if isTidal f then elemAt 32 companion n else elemAt 8 companion n

/-- A code of any format with its companion. -/
def decodeScaled (f companion k r c code : Nat) : Num :=
  if isTidal f then decodeTidal f code (scaleAt f companion k r c)
  else if isMx f then decodeMx f code (scaleAt f companion k r c)
  else decodeElem f code

/-! ## tcvt (R205) -/

def cvtSrc (s : State) (a : VT) : Shape := (tileShape s a.s1.toNat).override (effOf s).p.a
def cvtDst (s : State) (a : VT) : Shape := (tileShape s a.d.toNat).override (effOf s).p.d

/-- Registers of an operand with its scale companion. -/
def withScales (f span : Nat) : Nat := if isBlockFmt f then 2 else span

/-- The elements of the source, decoded, with MOD steps 1 to 4. -/
def cvtValues (s : State) (a : VT) : List Num :=
  let h := cvtSrc s a
  let v := tval s a.s1.toNat h.span
  let comp := (getM s (physTile s (a.s1.toNat + 1))).val.toNat
  (List.range (h.rows * h.cols)).map fun n =>
    modSteps (effOf s).mods
      (decodeScaled h.fmt comp h.cols (n / h.cols) (n % h.cols) (elemAt (fmtWidth h.fmt) v n))

/-- Blocks of 32, quantised in order: scales, codes and flags; or the first element that overflows. -/
def quantBlocks (oft sat : Bool) (f : Nat) : Nat → Nat → List Num → Except Nat (List Nat × List Nat × Flags)
  | 0, _, _ => .ok ([], [], 0)
  | n + 1, pos, vs =>
    let here := if isTidal f then quantTidal oft sat f (vs.take 32) else quantMx oft sat f (vs.take 32)
    match here, quantBlocks oft sat f n (pos + 32) (vs.drop 32) with
    | .trap k, _ => .error (pos + k)
    | .ok _ _ _, .error k => .error k
    | .ok scale codes fl, .ok q => .ok (scale :: q.1, codes ++ q.2.1, fl ||| q.2.2)

/-- What `tcvt` writes: the tile, the scale companion, and the flags. -/
def tcvtResult (a : VT) (s : State) : Except Nat (Nat × Nat × Flags) :=
  let e := effOf s
  let h := cvtDst s a
  let vs := cvtValues s a
  if isBlockFmt h.fmt then
    match quantBlocks s.user.oft e.mods.sat h.fmt (h.rows * h.cols / 32) 0 vs with
    | .error k => .error k
    | .ok q => .ok (packElems (fmtWidth h.fmt) q.2.1, packElems (if isTidal h.fmt then 32 else 8) q.1, q.2.2)
  else
    match convertAll s.user.oft e.mods.sat h.fmt e.rm 0 vs with
    | .error k => .error k
    | .ok r => .ok (packElems (fmtWidth h.fmt) r.1, 0, r.2)

def tcvtIllegal (a : VT) (s : State) : Bool :=
  let fa := (cvtSrc s a).fmt
  let fd := (cvtDst s a).fmt
  badFmt s a.s1.toNat (cvtSrc s a) tileFmt || badFmt s a.d.toNat (cvtDst s a) tileFmt
    || (tileExists s a.s1.toNat && (!srcAligned a.s1.toNat (cvtSrc s a) || (isBlockFmt fa && a.s1.toNat % 2 == 1)))
    || (tileExists s a.d.toNat && isBlockFmt fd && (a.d.toNat % 2 == 1 || a.w != 0))

/-- What takes ARRAY_STATE (R205); the scale companion of the destination counts as part of it (assumption 75). -/
def tcvtBad (a : VT) (s : State) : Bool :=
  let hs := cvtSrc s a
  let hd := cvtDst s a
  let ns := withScales hs.fmt hs.span
  let nd := withScales hd.fmt (destSpan a)
  !tilesInCount s a.s1.toNat ns || !tilesInCount s a.d.toNat nd
    || !hs.validSource || !hd.valid (destSpan a)
    || hs.rows != hd.rows || hs.cols != hd.cols || (isBlockFmt hd.fmt && hd.cols % 32 != 0)
    || runsMeet a.s1.toNat ns a.d.toNat nd

def execTcvt (a : VT) : State → Out :=
  let i := Instr.tcvt a
  let nd (s : State) : Nat := withScales (cvtDst s a).fmt (destSpan a)
  instr [checkPrefix i true (fun e => e.p.b == 31), illegalIf i (tcvtIllegal a), arrayIf i (tcvtBad a),
      fun s => checkSources [mSource s a.s1.toNat (withScales (cvtSrc s a).fmt (cvtSrc s a).span) a.e1] s,
      checkConvert (tcvtResult a), checkTileDest (fun s => tileRegs s a.d.toNat (nd s))]
    fun s =>
      match tcvtResult a s with
      | .error _ => s
      | .ok (tile, scales, fl) =>
        let d := physTile s a.d.toNat
        let s1 := writeTile d (destSpan a) tile s
        let s2 := if isBlockFmt (cvtDst s a).fmt then writeTile (d + 1) 1 scales s1 else s1
        retire (raiseFlags fl s2)

/-! ## ttrn (R206) -/

/-- The transposed elements, row by row of the result. -/
def transposed (h : Shape) (v : Nat) : Nat :=
  packElems (fmtWidth h.fmt)
    ((List.range h.cols).flatMap fun j => (List.range h.rows).map fun i => tileElem h v i j)

def execTtrn (a : VT) : State → Out :=
  let i := Instr.ttrn a
  let hs (s : State) : Shape := tileShape s a.s1.toNat
  let hd (s : State) : Shape := tileShape s a.d.toNat
  let span := destSpan a
  instr [noPrefix i, illegalIf i (fun s => badFmt s a.s1.toNat (hs s) plainFmt || badFmt s a.d.toNat (hd s) plainFmt
        || (tileExists s a.s1.toNat && !srcAligned a.s1.toNat (hs s))),
      arrayIf i (fun s => !tilesInCount s a.s1.toNat (hs s).span || !tilesInCount s a.d.toNat span
        || !(hs s).validSource || !(hd s).valid span || (hs s).fmt != (hd s).fmt || (hd s).rows != (hs s).cols
        || (hd s).cols != (hs s).rows || runsMeet a.s1.toNat (hs s).span a.d.toNat span),
      fun s => checkSources [mSource s a.s1.toNat (hs s).span a.e1] s,
      checkTileDest (fun s => tileRegs s a.d.toNat span)]
    fun s => retire (writeTile (physTile s a.d.toNat) span (transposed (hs s) (tval s a.s1.toNat (hs s).span)) s)

end Sys2Proof.Machine
end

