-- ==== Sys2Proof/Machine/Array.lean ====
section
/-!
DEFINITION. The Array (R181 to R196): leases, their arbitration, the command queue, and the matrix commands.
-/
namespace Sys2Proof.Machine

/-! ## Arbitration (R184 to R187) -/

/-- A core's weight: for this core the CSR. -/
def weightOf (s : State) (m : Nat) : Nat := if m = ownMember s then s.user.aweight.toNat else (leaseOf s m).weight

/-- The aligned sets of a count, lowest first. -/
def alignedSets (count : Nat) : List (BitVec 4) :=
  if count = 4 then [15] else if count = 2 then [3, 12] else [1, 2, 4, 8]

/-- The sets whose lane groups are all in service (R427). -/
def usableSets (s : State) (count : Nat) : List (BitVec 4) :=
  (alignedSets count).filter fun g => g &&& s.arr.outOfService == 0

/-- The lane groups in runs. -/
def heldGroups (s : State) : BitVec 4 :=
  s.arr.leases.toList.foldl (fun acc l => if l.st = .held then acc ||| l.mask else acc) 0

/-- C of R185: the contenders that some set in service can satisfy; a winner contends until it is granted. -/
def candidates (s : State) : List Nat :=
  (contenders s).filter fun m => !(usableSets s (leaseOf s m).count).isEmpty

/-- The best of a list under an order; the first on a tie. -/
def bestBy (better : Nat → Nat → Bool) : List Nat → Option Nat
  | [] => none
  | m :: rest => some (rest.foldl (fun b n => if better n b then n else b) m)

/-- P of R185. -/
def weighted (s : State) : List Nat :=
  let c := candidates s
  let p := c.filter fun m => weightOf s m != 0
  if p.isEmpty then (bestBy (fun a b => decide ((leaseOf s a).order < (leaseOf s b).order)) c).toList else p

/-- Lane groups that are reserved ahead of m: for the winners before it that may still be granted them (R185, R186). -/
def reservedGroups (s : State) (m : Nat) : BitVec 4 :=
  let ahead := (s.arr.reserve.takeWhile fun r => r.1 != m).filter fun r => (weighted s).contains r.1
  ahead.foldl (fun acc r => acc ||| r.2) 0

/-- A set that can be granted to m now: free, in service, and reserved for no core ahead of it (R185, R427). -/
def setFree (s : State) (m : Nat) (g : BitVec 4) : Bool :=
  g &&& heldGroups s == 0 && g &&& reservedGroups s m == 0 && g &&& s.arr.outOfService == 0

/-- The winner, with every credit after the arbitration. -/
def arbitration (s : State) : Option (Nat × State) :=
  let p := weighted s
  let s1 := p.foldl (fun t m => setLease m { leaseOf t m with credit := (leaseOf t m).credit + weightOf s m } t) s
  (bestBy (fun a b => decide ((leaseOf s1 b).credit < (leaseOf s1 a).credit)) p).map fun win =>
    let total : Nat := (p.map (weightOf s)).foldl (· + ·) 0
    (win, setLease win { leaseOf s1 win with credit := (leaseOf s1 win).credit - total } s1)

/-- The bound of a set (R185): the latest clock by which its lane groups' runs are forced to end. -/
def setBound (s : State) (g : BitVec 4) : Nat :=
  s.arr.leases.toList.foldl
    (fun b l => if l.st = .held ∧ l.mask &&& g ≠ 0 then max b (l.grantedAt + 8558) else b) s.sched.clock

/-- The set whose bound is earliest, the lowest on a tie. DESIGN CHOICE: a set with a lane group that is reserved ahead of the
core is taken only where there is no other one (assumption 103). -/
def bestSet (s : State) (m : Nat) : Option (BitVec 4) :=
  let sets := usableSets s (leaseOf s m).count
  let open_ := sets.filter fun g => g &&& reservedGroups s m == 0
  match (if open_.isEmpty then sets else open_) with
  | [] => none
  | g :: rest => some (rest.foldl (fun b h => if setBound s h < setBound s b then h else b) g)

/-- A grant (R182, R183): a run starts; a pending `lease` gets its token. -/
def grant (m : Nat) (g : BitVec 4) (s : State) : State :=
  let l := leaseOf s m
  let l' : Lease := { l with st := .held, mask := g, first := if l.st = .requested then g else l.first, started := 0, expired := false, grantedAt := s.sched.clock }
  let s1 := setLease m l' { s with arr := { s.arr with reserve := s.arr.reserve.filter fun r => r.1 != m } }
  let s2 := post (.leaseRunTimeout (BitVec.ofNat 4 m)) s1
  if m = ownMember s then
    let s3 :=
      match s2.arr.job with
      | some id =>
        completePart id 0 (.value (place l.count 4 ||| place g.toNat 0)) { s2 with arr := { s2.arr with job := none } }
      | none => s2
    if s3.arr.queue.isEmpty then s3 else post .arrayCommandStart s3
  else s2

/-- The arbiter runs when a run has ended, a lease been released or a request arrived while a lane group is free (R185). -/
def askArbiter (due : Bool) (s : State) : State :=
  post .leaseGrant { s with arr := { s.arr with due := s.arr.due || due } }

/-- Whether a lane group in service is free. -/
def groupFree (s : State) : Bool := heldGroups s ||| s.arr.outOfService != 15

/-- The arbiter runs again while the next winner's set is free. -/
def arbitrateMore (s : State) : State :=
  match arbitration s with
  | none => s
  | some (m, s1) => if (bestSet s1 m).any (setFree s1 m) then askArbiter true s else s

/-- A set is reserved for a winner; in place of one reserved for it before, it keeps the winner's turn. -/
def reserveSet (m : Nat) (g : BitVec 4) (s : State) : State :=
  let l := s.arr.reserve
  let l' := if (l.any fun r => r.1 == m) then (l.map fun r => if r.1 = m then (m, g) else r) else l ++ [(m, g)]
  { s with arr := { s.arr with reserve := l' } }

/-- One arbitration (R185): the winner's set is granted when it is free, and reserved otherwise. -/
def arbitrate (s0 : State) : State :=
  let s := { s0 with arr := { s0.arr with due := false } }
  match arbitration s with
  | none => s
  | some (m, s1) =>
    match bestSet s1 m with
    | none => s
    | some g => arbitrateMore (if setFree s1 m g then grant m g s1 else reserveSet m g s1)

/-! ## The end of a run (R182, R184, R427) -/

/-- The core loses its lane groups. DESIGN CHOICE (assumption 83): it is the youngest request from here on. -/
def yieldLease (m : Nat) (s : State) : State :=
  let l := leaseOf s m
  let l' : Lease := { l with st := .yielded, mask := 0, credit := if hasCommands s m then l.credit else 0, order := s.arr.requests }
  post .leaseGrant (setLease m l' { s with arr := { s.arr with requests := s.arr.requests + 1, due := true } })

/-- A run ends: another run starts on the same lane groups unless another core contends. -/
def endLeaseRun (m : Nat) (s : State) : State :=
  let l := leaseOf s m
  if (contenders s).isEmpty && l.mask &&& s.arr.outOfService == 0 then
    post (.leaseRunTimeout (BitVec.ofNat 4 m))
      (setLease m { l with started := 0, expired := false, grantedAt := s.sched.clock } s)
  else yieldLease m s

/-- Whether a run that is at a command boundary ends there. -/
def runOver (s : State) (m : Nat) : Bool :=
  let l := leaseOf s m
  l.st == .held
    && (decide (16 ≤ l.started) || decide (l.grantedAt + 8192 ≤ s.sched.clock) || l.expired
      || (!hasCommands s m && !(contenders s).isEmpty))

/-- Members at a command boundary: for this core, no command executes; another core's commands are not modelled, and its
boundary comes at once (assumption 40). -/
def atBoundary (s : State) (m : Nat) : Bool := m != ownMember s || s.arr.running.isNone

/-- Runs that a new contender brings to their end. -/
def endIdleRuns (s : State) : State :=
  (List.range 16).foldl (fun t m => if atBoundary t m && runOver t m then endLeaseRun m t else t) s

/-- LEASE_GRANT: a reserved set that has become free is granted, to the winners' turn; otherwise the arbiter runs where it is
due (R185). A core with weight 0 is granted nothing while another one contends (R186), and a run of a core with no commands
ends as soon as another core contends (R184). -/
def execLeaseGrant (s0 : State) : Out :=
  let s := endIdleRuns s0
  .next (match s.arr.reserve.find? fun r => (weighted s).contains r.1 && setFree s r.1 r.2 with
    | some (m, g) => post .leaseGrant (endIdleRuns (grant m g s))
    | none => if s.arr.due then endIdleRuns (arbitrate s) else s)

/-- LEASE_RUN_TIMEOUT: 8,192 clocks after the grant the run ends at the next command boundary. -/
def execLeaseRunTimeout (member : BitVec 4) (s : State) : Out :=
  let m := member.toNat
  let l := leaseOf s m
  if l.st = .held ∧ l.grantedAt + 8192 ≤ s.sched.clock then
    let s1 := setLease m { l with expired := true } s
    .next (if atBoundary s1 m then endLeaseRun m s1 else s1)
  else .next s

/-! ## lease, unlease, tsync (R200 to R202) -/

def leaseNone (s : State) : Bool := (leaseOf s (ownMember s)).st == .none

/-- This core requests lane groups (R182). -/
def requestLease (count : Nat) (job : Option Nat) (s : State) : State :=
  let own := ownMember s
  let l : Lease := { Lease.zero with st := .requested, count := count, weight := (leaseOf s own).weight, order := s.arr.requests }
  let s1 := setLease own l { s with arr := { s.arr with job := job, requests := s.arr.requests + 1 } }
  endIdleRuns (askArbiter (groupFree s) s1)

def countOk (w : Word) : Bool := w == 1 || w == 2 || w == 4

def execLease (a : VT) : State → Out :=
  let i := Instr.lease a
  instr [noPrefix i, arrayIf i (fun s => !leaseNone s), checkSources [xs1 a], arrayIf i (fun s => !countOk (xval s a.s1)),
      checkDest (dstX a.d), checkResources]
    fun s =>
      let count := xval s a.s1
      let j : Job := { simpleJob s (.x a.d.toNat) 7 false with
        wait := some { kind := 3, handle := count, threshold := 0, deadline := 0 } }
      retire (requestLease count.toNat (some j.id) (startJob j (nextPc s) s))

/-- The queue is empty and nothing executes (R200). -/
def arrayIdle (s : State) : Bool := s.arr.queue.isEmpty && s.arr.running.isNone

def execTsync (a : VT) : State → Out :=
  instr [noPrefix (.tsync a), stopIf (fun s => !arrayIdle s) stall] retire

/-- R201: a token of another count. -/
def tokenBad (s : State) (w : Word) : Bool :=
  field w 8 56 != 0 || field w 4 4 != (leaseOf s (ownMember s)).count

/-- A request still out when its lease ends: no grant will come, and its register holds a free value (assumption 43). -/
def abandonRequest (s : State) : State :=
  match s.arr.job with
  | some id =>
    let f := freshFree s
    completePart id 0 (.value f.1) { f.2 with arr := { f.2.arr with job := none } }
  | none => s

def execUnlease (a : VT) : State → Out :=
  let i := Instr.unlease a
  instr [noPrefix i, arrayIf i leaseNone, checkSources [xs1 a], arrayIf i (fun s => tokenBad s (xval s a.s1)),
      stopIf (fun s => !arrayIdle s) stall]
    fun s => retire (releaseLease (abandonRequest s))

/-! ## The form of a matrix command (R177, R178, R193 to R195) -/

/-- The class of a format in R193, in the table's order; 6 for one that no class has. -/
def matClass (f : Nat) : Nat :=
  if f = 0 then 0 else if f = 1 ∨ f = 2 then 1 else if f = 3 ∨ f = 4 ∨ f = 6 then 2
  else if f = 8 ∨ f = 9 then 3 else if f = 5 ∨ f = 7 then 4 else if f = 16 then 5 else 6

def matLimit (cls : Nat) : Nat := if cls = 0 then 32 else if cls = 1 then 64 else if cls ≤ 3 then 128 else 256

/-- The format of D for a class: i32 for integers, f32 otherwise. -/
def matResult (cls : Nat) : Nat := if cls = 3 ∨ cls = 5 then 12 else 0

structure MatForm where
  a : Shape
  b : Shape
  d : Shape
  spanA : Nat
  spanB : Nat
  spanD : Nat
  /-- Companions of A and of B. -/
  extraA : Nat
  extraB : Nat
  deriving DecidableEq, Repr

/-- The operands as the instruction finds them: shapes with the FMT fields in place, spans and companions. -/
def matForm (s : State) (i : VT) : MatForm :=
  let p := (effOf s).p
  let a := (tileShape s i.s1.toNat).override p.a
  let b := (tileShape s i.s2.toNat).override p.b
  let blocks (h : Shape) : Nat := if isBlockFmt h.fmt then 1 else 0
  { a := a, b := b, d := tileShape s i.d.toNat, spanA := a.span, spanB := b.span, spanD := destSpan i
    extraA := blocks a + (if i.m then 1 else 0), extraB := blocks b }

/-- Registers of A with its companions: companions follow the operand's number. -/
def runA (f : MatForm) : Nat := max f.spanA (1 + f.extraA)
def runB (f : MatForm) : Nat := max f.spanB (1 + f.extraB)

/-- R174, R178: a source of span 2 and a companion need an aligned number. -/
def misaligned (field span extra : Nat) : Bool :=
  (span == 2 && field % 2 != 0) || (extra == 1 && field % 2 != 0) || (extra == 2 && field % 4 != 0)

/-- What makes a matrix command illegal (cause 2). -/
def matIllegal (i : VT) (s : State) : Bool :=
  let f := matForm s i
  let haveA := tileExists s i.s1.toNat
  let haveB := tileExists s i.s2.toNat
  let haveD := tileExists s i.d.toNat
  let ca := matClass f.a.fmt
  let cb := matClass f.b.fmt
  let cls := if haveA then ca else cb
  (haveA && (ca == 6 || misaligned i.s1.toNat f.spanA f.extraA))
    || (haveB && (cb == 6 || misaligned i.s2.toNat f.spanB f.extraB))
    || (haveA && haveB && ca != cb)
    || ((haveA || haveB) && ((haveD && f.d.fmt != matResult cls)
        || ((effOf s).p.d != 31 && (effOf s).p.d != matResult cls)))

/-- q of R195, where it is one of the three. -/
def keptOf (a : Shape) (k : Nat) : Option Nat :=
  if a.cols * 24 % k = 0 ∧ (a.cols * 24 / k = 6 ∨ a.cols * 24 / k = 8 ∨ a.cols * 24 / k = 12) then some (a.cols * 24 / k)
  else none

/-- K and its relation to A (R193 to R195). -/
def depthOk (i : VT) (f : MatForm) : Bool :=
  let k := f.b.cols
  decide (k ≤ matLimit (matClass f.b.fmt)) && (!isBlockFmt f.b.fmt || k % 32 == 0)
    && (if i.m then k % 24 == 0 && (!isBlockFmt f.a.fmt || k % 96 == 0) && (keptOf f.a k).isSome else f.a.cols == k)

/-- What takes ARRAY_STATE before the sources are read (R179, R193 to R195). -/
def matBad (i : VT) (s : State) : Bool :=
  let f := matForm s i
  leaseNone s
    || !tilesInCount s i.s1.toNat (runA f) || !tilesInCount s i.s2.toNat (runB f) || !tilesInCount s i.d.toNat f.spanD
    || !f.a.validSource || !f.b.validSource || !f.d.valid f.spanD
    || f.d.rows != f.a.rows || f.d.cols != f.b.rows || !depthOk i f
    || runsMeet i.d.toNat f.spanD i.s1.toNat (runA f) || runsMeet i.d.toNat f.spanD i.s2.toNat (runB f)

/-! ## Issue (R188 to R192, R203) -/

/-- Destinations of the commands that wait or execute. -/
def ArrayCmd.dest (c : ArrayCmd) : List Nat := (List.range c.spanD).map (c.d + ·)

def pendingCmds (s : State) : List ArrayCmd := s.arr.running.toList ++ s.arr.queue

/-- A register that a matrix command is the producer of (R189). -/
def fromArray (s : State) : RegName → Bool
  | .m n => (pendingCmds s).any fun c => c.dest.contains n
  | .x _ | .v _ => false

/-- R189: a register that is EMPTY only because of an earlier matrix command counts as FULL. -/
def exceptArray (s : State) (src : Source) : Source :=
  (src.1.filter fun r => !((regState s r).isEmpty && fromArray s r), src.2)

/-- The registers of A and of B with their companions, and D where it is read. -/
def matSources (s : State) (i : VT) (readsD : Bool) : List Source :=
  let f := matForm s i
  [mSource s i.s1.toNat (runA f) i.e1, mSource s i.s2.toNat (runB f) i.e2]
    ++ if readsD then [mSource s i.d.toNat f.spanD false] else []

/-- The queue has room (R188), and the result queue for what `mmaq` will push (R192). -/
def matRoom (kind : MatKind) (s : State) : Bool :=
  let quiet := (pendingCmds s).filter fun c => c.kind == .mmaq
  decide (s.arr.queue.length < 8)
    && (kind != .mmaq || decide (s.arr.results.length + quiet.length < 16))

/-- R51 with R189: D is EMPTY through something other than a matrix command. -/
def checkMatDest (i : VT) : Check := fun s =>
  let waits := (tileRegs s i.d.toNat (destSpan i)).filter fun r => (regState s r).isEmpty && !fromArray s r
  if waits.isEmpty then none else some (hold (.dest waits) s)

/-- The command as it enters the queue: shapes, formats and physical numbers are captured (R188). -/
def matCommand (kind : MatKind) (w : IWord) (i : VT) (s : State) : ArrayCmd :=
  let f := matForm s i
  { kind := kind, pc := s.hart.pc, word := w, fmtWord := if s.hart.pend.fv then some s.hart.pend.f else none
    dField := i.d.toNat, a := physTile s i.s1.toNat, b := physTile s i.s2.toNat, d := physTile s i.d.toNat
    spanA := f.spanA, spanB := f.spanB, spanD := f.spanD, fmtA := f.a.fmt, fmtB := f.b.fmt, rows := f.a.rows
    cols := f.b.rows, depth := f.b.cols, kept := if i.m then (keptOf f.a f.b.cols).getD 0 else 0, sparse := i.m
    sources := (matSources s i (kind != .mmz)).flatMap fun src =>
      src.1.filterMap fun | .m n => some n | .x _ | .v _ => none
    seq := s.arr.seq % 256, doom := none }

/-- A command joins the queue; a core that has yielded its lane groups contends again (R182). -/
def enqueueCmd (c : ArrayCmd) (s : State) : State :=
  let l := leaseOf s (ownMember s)
  let wakes := l.st = .held ∧ s.arr.running.isNone ∧ s.arr.queue.isEmpty
  let returns := l.st = .yielded ∧ !hasCommands s (ownMember s)
  let s1 := { s with arr := { s.arr with queue := s.arr.queue ++ [c] } }
  if wakes then post .arrayCommandStart s1
  else if returns then
    endIdleRuns (askArbiter (groupFree s)
      (setLease (ownMember s) { l with order := s1.arr.requests } { s1 with arr := { s1.arr with requests := s1.arr.requests + 1 } }))
  else s1

def matInstr (i : Instr) (kind : MatKind) (a : VT) : State → Out :=
  instr [checkPrefix i false noRounding, illegalIf i (matIllegal a), arrayIf i (matBad a),
      (fun s => checkSources ((matSources s a (kind != .mmz)).map (exceptArray s)) s),
      stopIf (fun s => !matRoom kind s) stall, checkMatDest a]
    fun s =>
      let c := matCommand kind ((wordOf i).setWidth 32) a s
      let s1 := setEmpty (.m c.d c.spanD) s.hart.pc (enqueueCmd c s)
      retire (if kind = .mmaq then { s1 with arr := { s1.arr with seq := s1.arr.seq + 1 } } else s1)

def execMma (a : VT) : State → Out := matInstr (.mma a) .mma a
def execMmz (a : VT) : State → Out := matInstr (.mmz a) .mmz a
def execMmaq (a : VT) : State → Out := matInstr (.mmaq a) .mmaq a

/-! ## The arithmetic of a command (R92 to R95, R195) -/

/-- The bytes of a run of tiles as one number, by physical number. -/
def tilesAt (s : State) (base span : Nat) : Nat := tileValue s base span

/-- A term of a row of A: its logical position and its value. -/
abbrev Term := Nat × Num

/-- The position that the metadata gives to element t of group g in row r (R178). -/
def metaPos (meta_ k q r g t : Nat) : Nat :=
  let rowBytes := ceilDiv (k / 24 * q * 5) 8
  elemAt 5 (meta_ >>> (8 * r * rowBytes)) (g * q + t)

/-- Row r of a dense operand of `k` columns with its scale companion. -/
def denseRow (f v scales k r : Nat) : List Term :=
  (List.range k).map fun c => (c, decodeScaled f scales k r c (elemAt (fmtWidth f) v (r * k + c)))

/-- The stored elements of row r of a sparse A, each at its logical position; one at a position from 24 up names no element
of B and is ignored (R195). -/
def storedRow (f v scales meta_ k q r : Nat) : List Term :=
  (List.range (k / 24)).flatMap fun g =>
    (List.range q).filterMap fun t =>
      let p := metaPos meta_ k q r g t
      if p < 24 then
        some (24 * g + p, decodeScaled f scales k r (24 * g + p) (elemAt (fmtWidth f) v (r * (k / 24 * q) + g * q + t)))
      else none

/-- The logical row of a sparse A: zero at every position that no stored element names (R195, assumption 38). -/
def logicalRow (k : Nat) (stored : List Term) : List Term :=
  stored ++ ((List.range k).filter fun c => stored.all fun x => x.1 != c).map fun c => (c, .fin false 0 0)

/-- Row r of A as the command reads it. -/
def rowOfA (s : State) (c : ArrayCmd) (r : Nat) : List Term :=
  let v := tilesAt s c.a c.spanA
  if c.sparse then
    let block := isBlockFmt c.fmtA
    logicalRow c.depth
      (storedRow c.fmtA v (tilesAt s (c.a + 1) 1) (tilesAt s (if block then c.a + 2 else c.a + 1) 1) c.depth c.kept r)
  else denseRow c.fmtA v (tilesAt s (c.a + 1) 1) c.depth r

/-- Row r of B, which is column r of the right matrix. -/
def rowOfB (s : State) (c : ArrayCmd) (r : Nat) : List Num :=
  (denseRow c.fmtB (tilesAt s c.b c.spanB) (tilesAt s (c.b + 1) 1) c.depth r).map (·.2)

/-- ArrayDot (R92) for floating-point inputs, chunk by chunk. -/
def arrayDot (d : Num) (a : List Term) (b : List Num) : Nat → Nat → Num × Flags
  | 0, _ => (d, 0)
  | n + 1, c =>
    let here := a.filter fun x => x.1 / 32 == c
    let r := dotChunk d (here.map fun x => mulNum x.2 (b.getD x.1 (.fin false 0 0)))
    let q := arrayDot r.1 a b n (c + 1)
    (q.1, r.2 ||| q.2)

/-- R95: integer inputs, modulo 2^32. -/
def arrayDotInt (d : Nat) (a : List Term) (b : List Num) : Nat :=
  let sum : Int := (a.map fun x => x.2.toInt * (b.getD x.1 (.fin false 0 0)).toInt).foldl (· + ·) 0
  wrapInt 32 (sum + d)

/-- One element of D. -/
def resultElem (s : State) (c : ArrayCmd) (d0 i j : Nat) : Nat × Flags :=
  let a := rowOfA s c i
  let b := rowOfB s c j
  if matResult (matClass c.fmtA) = 12 then (arrayDotInt d0 a b, 0)
  else
    let start : Num := if c.kind = .mmz then .fin true 0 0 else decodeFloat 0 d0
    let r := arrayDot start a b (ceilDiv c.depth 32) 0
    (encodeElem 0 r.1, r.2)

/-- Every element of D, row by row, and the flags of every rounding. -/
def commandResult (s : State) (c : ArrayCmd) : List Nat × Flags :=
  let d := tilesAt s c.d c.spanD
  let rs := (List.range (c.rows * c.cols)).map fun n =>
    resultElem s c (if c.kind = .mmz then 0 else elemAt 32 d n) (n / c.cols) (n % c.cols)
  (rs.map (·.1), joinFlags (rs.map (·.2)))

/-! ## The result entry (R192) -/

def entryHead (c : ArrayCmd) : Word := place (c.dField % 16) 56 ||| place (c.seq % 256) 48

/-- The magnitude of an element of D: f32 bits without the sign, or the absolute value of an i32. -/
def magnitude (int : Bool) (v : Nat) : Nat := if int then (toSigned 32 v).natAbs else v % 2 ^ 31

def isNaN32 (v : Nat) : Bool := decide (0x7F800000 < v % 2 ^ 31)
def isInf32 (v : Nat) : Bool := v % 2 ^ 31 == 0x7F800000

def resultEntry (c : ArrayCmd) (d : List Nat) (fl : Flags) : Word :=
  let int := matResult (matClass c.fmtA) = 12
  let mags := (d.filter fun v => int || !isNaN32 v).map (magnitude int)
  let head := entryHead c ||| place (mags.foldl max 0) 0
  if int then head
  else
    head ||| flag (d.any isNaN32) 36 ||| flag (d.any isInf32) 35 ||| flag (fl &&& fNV != 0) 34
      ||| flag (fl &&& fOF != 0) 33 ||| flag (fl &&& fNX != 0) 32

/-! ## Start and completion (R184, R191, R196) -/

/-- ARRAY_COMMAND_START: the oldest command starts under the lease. -/
def execArrayCommandStart (s : State) : Out :=
  let own := ownMember s
  let l := leaseOf s own
  match s.arr.running, s.arr.queue with
  | none, c :: rest =>
    if l.st = .held ∧ !s.arr.stop then
      .next (post .arrayCommandComplete
        (setLease own { l with started := l.started + 1 }
          { s with arr := { s.arr with running := some c, queue := rest, hit := none } }))
    else .next s
  | _, _ => .next s

/-- Why a command computes nothing: the producer record of a FAULTED source. -/
def faultedSource (s : State) (c : ArrayCmd) : Option (Word × Word) :=
  match c.doom with
  | some r => some r
  | none => c.sources.findSome? fun n =>
      match (getM s n).st with
      | .faulted pc info => some (pc, info)
      | .full | .empty _ => none

/-- Commands behind one that failed: those that read its D fail too, until a command writes D anew. -/
def markDoom (rec_ : Word × Word) : List Nat → List ArrayCmd → List ArrayCmd
  | _, [] => []
  | regs, c :: rest =>
    let c' : ArrayCmd := if c.doom.isNone && c.sources.any regs.contains then { c with doom := some rec_ } else c
    c' :: markDoom rec_ (regs.filter fun n => !c.dest.contains n) rest

/-- D of a later command is EMPTY from its issue, whatever completes before it (R190). -/
def reEmpty (s : State) : State := s.arr.queue.foldl (fun t c => setEmpty (.m c.d c.spanD) c.pc t) s

/-- An error that waits in a source tile of the command (R121). -/
def sourceError (s : State) (c : ArrayCmd) : Option RegError :=
  s.ras.regErrors.find? fun e => c.sources.any fun n => e.reg == .m n

/-- The Array reads its sources: a correctable error is corrected and counted, and the command goes on; an uncorrectable one
leaves the source FAULTED with the command's PC and fails the command (R121). -/
def readSources (c : ArrayCmd) : Nat → State → Bool × State
  | 0, s => (true, s)
  | n + 1, s =>
    match sourceError s c with
    | none => (true, s)
    | some e =>
      let s1 := { s with ras := { s.ras with regErrors := s.ras.regErrors.filter fun r => r != e } }
      if e.correctable then readSources c n (countCorrected 1 s1)
      else
        (false, askRetirement s.coreid 1 (lastingError 1 dRegisterUncorrectable (regId e.reg).toNat
          (setRegState e.reg (.faulted c.pc (dfinfoWord s.ras.pkg.toNat 0 0 11 dRegisterUncorrectable)) s1)))

def arrayErrorInfo (s : State) : Word := dfinfoWord s.ras.pkg.toNat 0 0 10 dArrayUncorrectable

/-- The command fails: D becomes FAULTED, and `mmaq` pushes its entry with FAIL = 1. -/
def failCommand (c : ArrayCmd) (rec_ : Word × Word) (s : State) : State :=
  let s1 := failDest (.m c.d c.spanD) rec_.1 rec_.2 s
  { s1 with arr := { s1.arr with
      queue := markDoom rec_ c.dest s1.arr.queue
      results := if c.kind = .mmaq then s1.arr.results ++ [entryHead c ||| place 1 37] else s1.arr.results } }

/-- The command's own effect when its busy period ends. -/
def finishCommand (c : ArrayCmd) (s0 : State) : State :=
  let r := readSources c s0.ras.regErrors.length s0
  let s := r.2
  if !r.1 || s.arr.hit.isSome then failCommand c (c.pc, arrayErrorInfo s) s
  else
    match faultedSource s c with
    | some x => failCommand c x s
    | none =>
      let d := commandResult s c
      let s1 := writeTile c.d c.spanD (packElems 32 d.1) s
      if c.kind = .mmaq then
        { s1 with arr := { s1.arr with results := s1.arr.results ++ [resultEntry c d.1 d.2] } }
      else s1

/-- A command boundary: the run goes on, or ends (R184); a lane group out of service ends it (R427). -/
def commandBoundary (s : State) : State :=
  let own := ownMember s
  let l := leaseOf s own
  let s1 := if l.st = .held && l.mask &&& s.arr.outOfService != 0 then yieldLease own s
    else if runOver s own then endLeaseRun own s else s
  if (leaseOf s1 own).st = .held ∧ !s1.arr.queue.isEmpty then post .arrayCommandStart s1 else s1

/-- ARRAY_COMMAND_COMPLETE: D becomes FULL or FAULTED, the locks end. -/
def execArrayCommandComplete (s : State) : Out :=
  match s.arr.running with
  | none => .next s
  | some c =>
    let s1 := finishCommand c s
    .next (commandBoundary (reEmpty { s1 with arr := { s1.arr with running := none, hit := none } }))

end Sys2Proof.Machine
end

