-- ==== Sys2Proof/Machine/Atomics.lean ====
section
/-!
DEFINITION. Atomics (R22, R226, R415, R416): LR/SC on the local scratchpad, the base AMOs and the floating-point and
wide atomics, in the scratchpad bank's atomic unit or at a home.
-/
namespace Sys2Proof.Machine

/-! ## The atomic units -/

/-- FMin, FMax and RNE of the exact sum on f32 codes (R90, R89, R415), with flags. -/
def floatAtomic (op : AtomicOp) (m v : Nat) : Nat × Flags :=
  let a := decodeFloat 0 m
  let b := decodeFloat 0 v
  match op with
  | .fminS => let r := fMinMax false a b; (encodeElem 0 r.1, r.2)
  | .fmaxS => let r := fMinMax true a b; (encodeElem 0 r.1, r.2)
  | _ => node .sum 0 .rne Mods.none m v

/-- The new value that an atomic of n bytes leaves, and the flags it raises; none where nothing is written. -/
def atomicNew (op : AtomicOp) (n m v expected : Nat) : Option Nat × Flags :=
  let w := 8 * n
  let sm := toSigned w m
  let sv := toSigned w v
  match op with
  | .swap => (some v, 0)
  | .add => (some ((m + v) % 2 ^ w), 0)
  | .and => (some (m &&& v), 0)
  | .or => (some (m ||| v), 0)
  | .xor => (some (m ^^^ v), 0)
  | .min => (some (if sv < sm then v else m), 0)
  | .minu => (some (min m v), 0)
  | .max => (some (if sm < sv then v else m), 0)
  | .maxu => (some (max m v), 0)
  | .faddS | .fminS | .fmaxS => let r := floatAtomic op m v; (some r.1, r.2)
  | .casD => (if m = expected then some v else none, 0)

/-- An indivisible read and write at a location (R226): the old value, the flags and the memory after it. -/
def atomicAt (key : Nat) (op : AtomicOp) (n : Nat) (operand expected : Word) (s : State) : Nat × Flags × State :=
  let m := natOf (readKey s key n)
  let r := atomicNew op n m (operand.toNat % 2 ^ (8 * n)) (expected.toNat % 2 ^ (8 * n))
  match r.1 with
  | some v => (m, r.2, writeKey s key (bytesOf n v))
  | none => (m, r.2, s)

/-- HOME_ATOMIC: a home performs an atomic and returns the old value, with a floating-point atomic's flags above its
32 bits (R226, R416); an uncorrectable word fails it (R423). -/
def homeAtomicAt (key : Nat) (op : AtomicOp) (bytes : Nat) (operand expected : Word) (rto : ReplyTo) (s : State) : State :=
  if poisoned s key bytes then reply rto (.failed dMemoryUncorrectable (pkgOfKey s key)) s
  else
    let r := atomicAt key op bytes operand expected s
    let v := if bytes = 4 then place (r.1 + r.2.1.toNat * 2 ^ 32) 0 else place r.1 0
    reply rto (.value v) r.2.2

def execHomeAtomic (key : Nat) (op : AtomicOp) (bytes : Nat) (operand expected : Word) (replyTo : ReplyTo) (s : State) :
    Out := .next (homeAtomicAt key op bytes operand expected replyTo s)

/-! ## The instructions -/

/-- Where the address may lie: LR and SC reach the local scratchpad only, the others also translated pages (R22). -/
def checkAtomicClass (addr : State → Word) (bytes : Nat) (localOnly : Bool) : Check := fun s =>
  let ea := addr s
  let ok := match classOf ea with
    | .scratch => localOk s ea.toNat bytes
    | .translated => !localOnly
    | .reserved | .group => false
  if ok then none else some (trap 7 ea s)

/-- The hart waits for its earlier writes before a local atomic, and before a release whose effect it waits for: rl
with aq, or with x0 as destination; an atomic that is no release waits at issue for its earlier stores (R221, R224,
assumption 22). A local atomic also waits for an earlier group load that has not read its word in this core's clearing
(R225). -/
def checkAtomicOrder (addr : State → Word) (a : RT) : Check := fun s =>
  let here := isLocal (addr s)
  let writes := ((here || (a.rl && (a.aq || a.rd == 0))) && writesOutstanding s) || (!a.rl && !(drainStores s).isEmpty)
  let reads := here && s.off.jobs.any (readsLocal s (localKey s (addr s).toNat) 8)
  if writes || reads then some (stall s) else none

/-- A local LR may not pass the hart's own store to its word that still waits in the drain queue (R213). -/
def checkOwnStores (addr : State → Word) : Check := fun s =>
  if isLocal (addr s) && !(ownBytes s s.off.nextId (localKey s (addr s).toNat / 8 * 8) 8).isEmpty then some (stall s) else none

/-- A poisoned local word makes rd FAULTED (R423). -/
def atomicFault (a : RT) (s : State) : State :=
  failDest (.x a.rd.toNat) s.hart.pc (dfinfoWord s.ras.pkg.toNat 0 0 2 dMemoryUncorrectable) s

/-- An acquire that completes in the pipeline invalidates the strand buffer (R220). -/
def acquireNow (a : RT) (s : State) : State := if a.aq then invalidateStrand s else s

/-- An off-core atomic: rd goes EMPTY and the atomic goes to its home after the hart's earlier writes (R47, R224). -/
def startAtomic (a : RT) (op : AtomicOp) (bytes : Nat) (ea operand expected : Word) (s : State) : State :=
  let id := s.off.nextId
  let part := mkPart 0 ea s.sup.pid bytes []
  let job (p : Part) (ord : Bool) : Job :=
    { id := id, dest := .x a.rd.toNat, pc := s.hart.pc, cls := 2, finish := .atomic bytes, waiting := [], issued := [p]
      image := [], failure := none, aq := a.aq, ord := ord, atomic := true, wait := none }
  match translate s (stationOf (ownCore s)) s.sup.pid ea .atomic with
  | (s1, .error (d, pkg)) => retire (reply (.job id 0) (.failed d pkg) (startJob (job part false) (nextPc s) s1))
  | (s1, .ok x) =>
    let ev : Effect := { pkg := x.pkg, ch := .request, ev := .homeAtomic x.key op bytes operand expected (.job id 0) }
    let s2 := if a.rl then release [ev] s1 else afterWrites ev s1
    retire (startJob (job { part with key := some (x.key, bytes) } (leafOrd x.leaf)) (nextPc s) s2)

/-- The address of an atomic. -/
def atomicAddr (a : RT) (s : State) : Word := xval s a.rs1

/-- An atomic instruction; `casD` also reads rd as the expected value (R416). -/
def atomicInstr (i : Instr) (a : RT) (op : AtomicOp) (bytes : Nat) : State → Out :=
  let ea := atomicAddr a
  let isCas := op == .casD
  let srcs := [srcX a.rs1 false, srcX a.rs2 false] ++ (if isCas then [srcX a.rd false] else [])
  instr [noPrefix i, stopIf (fun s => a.rl && s.sup.dheld) trapDeferredStore, checkSources srcs,
      checkAligned 6 ea bytes, checkAtomicClass ea bytes false, checkDest (dstX a.rd), checkAccess,
      checkAcquire a.aq, checkAtomicOrder ea a, checkOwnStores ea,
      stopIf (fun s => !isLocal (ea s) && !canIssue s) stallBlocked]
    fun s =>
      let operand := xval s a.rs2
      let expected := xval s a.rd
      if isLocal (ea s) then
        let key := localKey s (ea s).toNat
        if poisoned s key bytes then retire (acquireNow a (atomicFault a s))
        else
          let r := atomicAt key op bytes operand expected s
          let s1 := setX a.rd (signedOf bytes r.1) r.2.2
          retire (acquireNow a { s1 with user := { s1.user with vflags := s1.user.vflags ||| r.2.1 } })
      else startAtomic a op bytes (ea s) operand expected s

def execAmoswapW (a : RT) : State → Out := atomicInstr (.amoswapW a) a .swap 4
def execAmoswapD (a : RT) : State → Out := atomicInstr (.amoswapD a) a .swap 8
def execAmoaddW (a : RT) : State → Out := atomicInstr (.amoaddW a) a .add 4
def execAmoaddD (a : RT) : State → Out := atomicInstr (.amoaddD a) a .add 8
def execAmoandW (a : RT) : State → Out := atomicInstr (.amoandW a) a .and 4
def execAmoandD (a : RT) : State → Out := atomicInstr (.amoandD a) a .and 8
def execAmoorW (a : RT) : State → Out := atomicInstr (.amoorW a) a .or 4
def execAmoorD (a : RT) : State → Out := atomicInstr (.amoorD a) a .or 8
def execAmoxorW (a : RT) : State → Out := atomicInstr (.amoxorW a) a .xor 4
def execAmoxorD (a : RT) : State → Out := atomicInstr (.amoxorD a) a .xor 8
def execAmominW (a : RT) : State → Out := atomicInstr (.amominW a) a .min 4
def execAmominD (a : RT) : State → Out := atomicInstr (.amominD a) a .min 8
def execAmominuW (a : RT) : State → Out := atomicInstr (.amominuW a) a .minu 4
def execAmominuD (a : RT) : State → Out := atomicInstr (.amominuD a) a .minu 8
def execAmomaxW (a : RT) : State → Out := atomicInstr (.amomaxW a) a .max 4
def execAmomaxD (a : RT) : State → Out := atomicInstr (.amomaxD a) a .max 8
def execAmomaxuW (a : RT) : State → Out := atomicInstr (.amomaxuW a) a .maxu 4
def execAmomaxuD (a : RT) : State → Out := atomicInstr (.amomaxuD a) a .maxu 8
def execFamoaddS (a : RT) : State → Out := atomicInstr (.famoaddS a) a .faddS 4
def execFamominS (a : RT) : State → Out := atomicInstr (.famominS a) a .fminS 4
def execFamomaxS (a : RT) : State → Out := atomicInstr (.famomaxS a) a .fmaxS 4
def execCasD (a : RT) : State → Out := atomicInstr (.casD a) a .casD 8

/-! ## LR and SC (R22, R226) -/

/-- The aligned 8-byte word of a local address. -/
def reservedWord (s : State) (ea : Word) : Nat := localKey s (ea.toNat / 8 * 8)

/-- LR: an acquire with aq = 1, never a release (R220, R221). -/
def lrInstr (i : Instr) (a : RT) (bytes : Nat) : State → Out :=
  let ea := atomicAddr a
  instr [noPrefix i, checkSources [srcX a.rs1 false],
      checkAligned 6 ea bytes, checkAtomicClass ea bytes true, checkDest (dstX a.rd), checkAccess,
      checkAcquire a.aq, checkOwnStores ea]
    fun s =>
      let key := localKey s (ea s).toNat
      if poisoned s key bytes then retire (acquireNow a (atomicFault a s))
      else
        let s1 := setX a.rd (signedOf bytes (natOf (readKey s key bytes))) s
        retire (acquireNow a
          { s1 with hart := { s1.hart with resv := some (reservedWord s (ea s), s.sched.clock) } })

/-- Whether the reservation of the word still stands. -/
def reservationHolds (s : State) (ea : Word) : Bool :=
  match s.hart.resv with
  | some (w, t) => w == reservedWord s ea && decide (s.sched.clock ≤ t + 256)
  | none => false

/-- SC: a release with rl = 1, never an acquire (R220, R221). -/
def scInstr (i : Instr) (a : RT) (bytes : Nat) : State → Out :=
  let ea := atomicAddr a
  instr [noPrefix i, stopIf (fun s => a.rl && s.sup.dheld) trapDeferredStore,
      checkSources [srcX a.rs1 false, srcX a.rs2 false],
      checkAligned 6 ea bytes, checkAtomicClass ea bytes true, checkDest (dstX a.rd), checkAccess,
      checkAtomicOrder ea a, checkOwnStores ea]
    fun s =>
      let done := reservationHolds s (ea s)
      let s1 := if done then writeKey s (localKey s (ea s).toNat) (wordToBytes bytes (xval s a.rs2)) else s
      let s2 := { s1 with hart := { s1.hart with resv := none } }
      retire (setX a.rd (if done then 0 else 1) s2)

def execLrW (a : RT) : State → Out := lrInstr (.lrW a) a 4
def execLrD (a : RT) : State → Out := lrInstr (.lrD a) a 8
def execScW (a : RT) : State → Out := scInstr (.scW a) a 4
def execScD (a : RT) : State → Out := scInstr (.scD a) a 8

end Sys2Proof.Machine
end

