-- ==== Sys2Proof/Machine/Base.lean ====
section
/-!
DEFINITION. The base instructions other than loads, stores and atomics (R22): integer operations, multiplication and
division, bit manipulation, branches, jumps, fences, environment calls.
-/
namespace Sys2Proof.Machine

/-! ## Arithmetic -/

/-- The low 32 bits, sign-extended (RV64I word operations). -/
def sextW (w : BitVec 32) : Word := w.signExtend 64

def low32 (w : Word) : BitVec 32 := w.setWidth 32

def boolWord (b : Bool) : Word := if b then 1 else 0

/-- The register-register operations of RV64I. -/
def aluReg (op : AluOp) (a b : Word) : Word :=
  match op with
  | .add => a + b
  | .sub => a - b
  | .sll => a <<< (b.toNat % 64)
  | .slt => boolWord (a.slt b)
  | .sltu => boolWord (a.ult b)
  | .xor => a ^^^ b
  | .srl => a >>> (b.toNat % 64)
  | .sra => a.sshiftRight (b.toNat % 64)
  | .or => a ||| b
  | .and => a &&& b
  | .addw => sextW (low32 a + low32 b)
  | .subw => sextW (low32 a - low32 b)
  | .sllw => sextW (low32 a <<< (b.toNat % 32))
  | .srlw => sextW (low32 a >>> (b.toNat % 32))
  | .sraw => sextW ((low32 a).sshiftRight (b.toNat % 32))

/-- The operations with a 12-bit immediate. -/
def aluImm (op : AluImmOp) (a : Word) (imm : BitVec 12) : Word :=
  let b : Word := imm.signExtend 64
  match op with
  | .addi => a + b
  | .slti => boolWord (a.slt b)
  | .sltiu => boolWord (a.ult b)
  | .xori => a ^^^ b
  | .ori => a ||| b
  | .andi => a &&& b
  | .addiw => sextW (low32 a + low32 b)

/-- The shifts by an immediate; a word shift takes the low five bits of its amount. -/
def aluShift (op : ShiftOp) (a : Word) (sh : BitVec 6) : Word :=
  match op with
  | .slli => a <<< sh.toNat
  | .srli => a >>> sh.toNat
  | .srai => a.sshiftRight sh.toNat
  | .slliw => sextW (low32 a <<< (sh.toNat % 32))
  | .srliw => sextW (low32 a >>> (sh.toNat % 32))
  | .sraiw => sextW ((low32 a).sshiftRight (sh.toNat % 32))

/-- Signed division of RV64M at any width: −1 for a divisor of zero, the dividend on overflow. -/
def divSigned {n : Nat} (a b : BitVec n) : BitVec n := if b = 0 then BitVec.allOnes n else a.sdiv b
def remSigned {n : Nat} (a b : BitVec n) : BitVec n := if b = 0 then a else a.srem b
def divUnsigned {n : Nat} (a b : BitVec n) : BitVec n := if b = 0 then BitVec.allOnes n else a / b
def remUnsigned {n : Nat} (a b : BitVec n) : BitVec n := if b = 0 then a else a % b

def mulDiv (op : MulDivOp) (a b : Word) : Word :=
  match op with
  | .mul => a * b
  | .mulh => BitVec.ofInt 64 (a.toInt * b.toInt / 2 ^ 64)
  | .mulhsu => BitVec.ofInt 64 (a.toInt * (b.toNat : Int) / 2 ^ 64)
  | .mulhu => BitVec.ofNat 64 (a.toNat * b.toNat / 2 ^ 64)
  | .div => divSigned a b
  | .divu => divUnsigned a b
  | .rem => remSigned a b
  | .remu => remUnsigned a b
  | .mulw => sextW (low32 a * low32 b)
  | .divw => sextW (divSigned (low32 a) (low32 b))
  | .divuw => sextW (divUnsigned (low32 a) (low32 b))
  | .remw => sextW (remSigned (low32 a) (low32 b))
  | .remuw => sextW (remUnsigned (low32 a) (low32 b))

/-- The low 32 bits, zero-extended (Zba). -/
def zextW (w : Word) : Word := (low32 w).setWidth 64

/-- The two-register operations of Zba and Zbb. -/
def bitReg (op : BitRegOp) (a b : Word) : Word :=
  match op with
  | .adduw => b + zextW a
  | .sh1add => b + (a <<< 1)
  | .sh1adduw => b + (zextW a <<< 1)
  | .sh2add => b + (a <<< 2)
  | .sh2adduw => b + (zextW a <<< 2)
  | .sh3add => b + (a <<< 3)
  | .sh3adduw => b + (zextW a <<< 3)
  | .andn => a &&& ~~~b
  | .orn => a ||| ~~~b
  | .xnor => ~~~(a ^^^ b)
  | .max => if a.slt b then b else a
  | .maxu => if a.ult b then b else a
  | .min => if b.slt a then b else a
  | .minu => if b.ult a then b else a
  | .rol => a.rotateLeft (b.toNat % 64)
  | .rolw => sextW ((low32 a).rotateLeft (b.toNat % 32))
  | .ror => a.rotateRight (b.toNat % 64)
  | .rorw => sextW ((low32 a).rotateRight (b.toNat % 32))

/-- Zero bits above the highest set bit of a number of n bits. -/
def leadingZeros (n v : Nat) : Nat := if v = 0 then n else n - 1 - v.log2

/-- Zero bits below the lowest set bit, looking at n bits. -/
def trailingZeros : Nat → Nat → Nat
  | 0, _ => 0
  | n + 1, v => if v % 2 = 1 then 0 else 1 + trailingZeros n (v / 2)

/-- Set bits among the low n. -/
def countOnes : Nat → Nat → Nat
  | 0, _ => 0
  | n + 1, v => v % 2 + countOnes n (v / 2)

/-- The one-register operations of Zbb. -/
def bitUn (op : BitUnOp) (a : Word) : Word :=
  match op with
  | .clz => place (leadingZeros 64 a.toNat) 0
  | .clzw => place (leadingZeros 32 (low32 a).toNat) 0
  | .ctz => place (trailingZeros 64 a.toNat) 0
  | .ctzw => place (trailingZeros 32 (low32 a).toNat) 0
  | .cpop => place (countOnes 64 a.toNat) 0
  | .cpopw => place (countOnes 32 (low32 a).toNat) 0
  | .sextb => (a.setWidth 8).signExtend 64
  | .sexth => (a.setWidth 16).signExtend 64
  | .zexth => (a.setWidth 16).setWidth 64
  | .orcb => bytesToWord ((wordToBytes 8 a).map fun b => if b = 0 then 0 else 0xFF)
  | .rev8 => bytesToWord (wordToBytes 8 a).reverse

def bitShift (op : BitShiftOp) (a : Word) (sh : BitVec 6) : Word :=
  match op with
  | .slliuw => zextW a <<< sh.toNat
  | .rori => a.rotateRight sh.toNat
  | .roriw => sextW ((low32 a).rotateRight (sh.toNat % 32))

/-! ## Register instructions -/

/-- An instruction that computes rd from x registers in the pipeline (R50, R51, R39). -/
def regInstr (i : Instr) (srcs : List RegIdx) (rd : RegIdx) (f : State → Word) : State → Out :=
  instr [noPrefix i, checkSources (srcs.map fun r => srcX r false), checkDest (dstX rd)]
    fun s => retire (setX rd (f s) s)

def execIntegerOp (op : IntOp) (s : State) : Out :=
  match op with
  | .reg o rd rs1 rs2 => regInstr (.integerOp op) [rs1, rs2] rd (fun t => aluReg o (xval t rs1) (xval t rs2)) s
  | .imm o rd rs1 imm => regInstr (.integerOp op) [rs1] rd (fun t => aluImm o (xval t rs1) imm) s
  | .shift o rd rs1 sh => regInstr (.integerOp op) [rs1] rd (fun t => aluShift o (xval t rs1) sh) s

def execMultiplyDivide (op : MulDivOp) (rd rs1 rs2 : RegIdx) : State → Out :=
  regInstr (.multiplyDivide op rd rs1 rs2) [rs1, rs2] rd fun t => mulDiv op (xval t rs1) (xval t rs2)

def execBitManipulation (op : BitOp) (s : State) : Out :=
  match op with
  | .reg o rd rs1 rs2 => regInstr (.bitManipulation op) [rs1, rs2] rd (fun t => bitReg o (xval t rs1) (xval t rs2)) s
  | .un o rd rs1 => regInstr (.bitManipulation op) [rs1] rd (fun t => bitUn o (xval t rs1)) s
  | .shift o rd rs1 sh => regInstr (.bitManipulation op) [rs1] rd (fun t => bitShift o (xval t rs1) sh) s

/-- The 20-bit immediate of lui and auipc in bits [31:12], sign-extended. -/
def upperImm (imm : BitVec 20) : Word := (imm ++ (0 : BitVec 12)).signExtend 64

def execLui (rd : RegIdx) (imm : BitVec 20) : State → Out :=
  regInstr (.lui rd imm) [] rd fun _ => upperImm imm

def execAuipc (rd : RegIdx) (imm : BitVec 20) : State → Out :=
  regInstr (.auipc rd imm) [] rd fun t => t.hart.pc + upperImm imm

/-! ## Branches and jumps -/

def branchTaken (c : BranchCond) (a b : Word) : Bool :=
  match c with
  | .eq => a == b
  | .ne => a != b
  | .lt => a.slt b
  | .ge => !a.slt b
  | .ltu => a.ult b
  | .geu => !a.ult b

/-- The target of a branch: the pc plus an offset of 13 bits whose bit 0 is 0. -/
def branchTarget (a : BranchArgs) (pc : Word) : Word := pc + (a.off ++ (0 : BitVec 1)).signExtend 64

/-- A target that is not 4-byte aligned takes cause 0 (R22). -/
def checkTarget (taken : State → Bool) (target : State → Word) : Check := fun s =>
  if taken s && (target s).toNat % 4 != 0 then some (trap 0 (target s) s) else none

def execBranch (a : BranchArgs) : State → Out :=
  let taken (s : State) : Bool := branchTaken a.cond (xval s a.rs1) (xval s a.rs2)
  let target (s : State) : Word := branchTarget a s.hart.pc
  instr [noPrefix (.branch a), checkSources [srcX a.rs1 false, srcX a.rs2 false], checkTarget taken target]
    fun s => if taken s then goTo (target s) s else retire s

/-- The target of a jump. -/
def jumpTarget (op : JumpOp) (s : State) : Word :=
  match op with
  | .jal _ off => s.hart.pc + (off ++ (0 : BitVec 1)).signExtend 64
  | .jalr _ rs1 imm => (xval s rs1 + imm.signExtend 64) &&& ~~~(1 : Word)

def jumpDest : JumpOp → RegIdx
  | .jal rd _ | .jalr rd _ _ => rd

def jumpSources : JumpOp → List Source
  | .jal _ _ => []
  | .jalr _ rs1 _ => [srcX rs1 false]

def execJump (op : JumpOp) : State → Out :=
  instr [noPrefix (.jump op), checkSources (jumpSources op), checkTarget (fun _ => true) (jumpTarget op),
      checkDest (dstX (jumpDest op))]
    fun s => goTo (jumpTarget op s) (setX (jumpDest op) (s.hart.pc + 4) s)

/-! ## Fences (R219 to R221) -/

/-- A set of a fence names reads (R or I) and writes (W or O): bits I, O, R, W from bit 3. -/
def fenceReads (f : BitVec 4) : Bool := f.getLsbD 1 || f.getLsbD 3
def fenceWrites (f : BitVec 4) : Bool := f.getLsbD 0 || f.getLsbD 2

/-- A fence that acquires and releases as said: it waits for what it orders and then completes at once. -/
def fenceInstr (i : Instr) (acq rel : Bool) : State → Out :=
  instr [noPrefix i, stopIf (fun s => rel && s.sup.dheld) trapDeferredStore,
      checkAcquire acq, stopIf (fun s => rel && writesOutstanding s) stall]
    fun s => retire (if acq then invalidateStrand s else s)

def execFence (fm : BitVec 4) (a : FenceArgs) : State → Out :=
  let both := a.pred != 0 && a.succ != 0
  fenceInstr (.fence fm a) (both && fenceReads a.pred) (both && fenceWrites a.pred)

def execFenceTso (a : FenceArgs) : State → Out := fenceInstr (.fenceTso a) true true

/-- fence.i: the instruction cache is invalidated; later fetches follow this hart's earlier stores (R22). -/
def execFenceI (imm : BitVec 12) (rs1 rd : RegIdx) : State → Out :=
  instr [noPrefix (.fenceI imm rs1 rd), stopIf (fun s => !s.sup.dheld && writesOutstanding s) stall]
    fun s => retire { s with stn := { s.stn with icache := [], badLines := [] } }

/-! ## Environment calls (R54) -/

def execEcall : State → Out :=
  instr [noPrefix .ecall] fun s => trap (match s.hart.priv with | .user => 8 | .supervisor => 9 | .machine => 11) 0 s

def execEbreak : State → Out := instr [noPrefix .ebreak] fun s => trap 3 s.hart.pc s

end Sys2Proof.Machine
end

