-- ==== Sys2Proof/Machine/Transfer.lean ====
section
/-!
DEFINITION. The copy engine (chapter 14): launches, the modes, CONTROL, tile slots and `tmov`.
A transfer advances by rows, elements or steps; each is one step of the engine.
-/
namespace Sys2Proof.Machine

/-! ## Launch checks (R346 to R349) -/

def snapRop (v : Vector Word 12) : Nat := field v[6] 4 4

/-- cectl bits that the mode gives meaning to. -/
def ctlUsed (mode : Nat) : Word :=
  if mode = 0 ∨ mode = 3 then 0xFFFF80000 ||| 0xF
  else if mode = 1 then 0x41FF0 ||| 0xF
  else if mode = 5 then 0x3FF00 ||| 0xF
  else 0xF

/-- cerows bits that the mode gives meaning to. -/
def rowsUsed (mode : Nat) : Word :=
  if mode = 3 then 0xFFFFFFFFFFFF else if mode = 4 ∨ mode = 6 then 0 else 0xFFFFFFFF

/-- The registers of the shadow set that the mode gives meaning to, besides cectl (R345, R346, R349, assumption 32). -/
def regUsed (v : Vector Word 12) (n : Nat) : Bool :=
  let mode := snapMode v
  if mode = 6 then n == 11
  else if mode = 4 then n == 0 || n == 1 || n == 7 || n == 8 || n == 11
  else if n = 9 ∨ n = 10 then mode == 3
  else if n = 11 then mode == 2 || (mode == 1 && snapSkip v)
  else true

/-- A field that the mode does not use is not zero (R349). -/
def unusedSet (v : Vector Word 12) : Bool :=
  v[6] &&& ~~~(ctlUsed (snapMode v)) != 0 || v[3] &&& ~~~(rowsUsed (snapMode v)) != 0
    || (List.range 12).any fun n => n != 6 && n != 3 && !regUsed v n && v.toList.getD n 0 != 0

/-- Formats that REDUCE accepts: f32, bf16, f16, i32, n32, i64, n64. -/
def reduceFmt (f : Nat) : Bool := decide (f ≤ 2) || (decide (12 ≤ f) && decide (f ≤ 15))

def aligned8 (w : Word) : Bool := w.toNat % 8 == 0

/-- The rows of R349 that take cause 2 whatever the addresses. DEDUCED: CONVERT takes every convertible format (assumption 77). -/
def launchIllegal (s : State) (v : Vector Word 12) : Bool :=
  let mode := snapMode v
  decide (6 < mode) || (mode == 6 && s.hart.priv != .supervisor)
    || unusedSet v
    || (mode != 4 && mode != 6 && (field v[2] 32 32 != 0
        || !(aligned8 v[0] && aligned8 v[1] && aligned8 v[2] && aligned8 v[4] && aligned8 v[5])))
    || (mode == 1 && (decide (5 < snapRop v) || !reduceFmt (snapFmt v)
        || (snapSkip v && (decide (3 ≤ snapRop v) || isIntFmt (snapFmt v)))))
    || (mode == 3 && v[9] != 0 && decide (2 ^ 64 < v[10].toNat + snapRows v))
    || (mode == 4 && (field v[0] 6 58 != 0 || field v[11] 0 40 != 0))
    || (mode == 5 && (!convertFmt (snapFmt v) || !convertFmt (snapDfmt v)
        || snapLen v * fmtWidth (snapDfmt v) % (8 * fmtWidth (snapFmt v)) != 0))
    || (mode == 6 && (field v[11] 10 54 != 0 || field v[11] 8 2 == 3))
    || (snapMcast v && snapMask v == 0) || (!snapMcast v && snapMask v != 0)

/-- The ranges of R212. -/
def actorRanges (s : State) : List (Nat × Nat) :=
  if s.act.name = 0 then []
  else
    [(s.act.sbase.toNat, s.act.slimit.toNat), (s.act.wbase.toNat, s.act.wlimit.toNat)]
      ++ ((List.range 64).filter fun n => (tslots s).getLsbD n).map fun n => (n * 0x2000, (n + 1) * 0x2000)

/-- The first byte of [a, e) in none of the ranges. -/
def firstHole (ranges : List (Nat × Nat)) : Nat → Nat → Nat → Option Nat
  | 0, a, e => if a < e then some a else none
  | fuel + 1, a, e =>
    if e ≤ a then none
    else
      match ranges.find? fun r => decide (r.1 ≤ a) && decide (a < r.2) with
      | some r => firstHole ranges fuel r.2 e
      | none => some a

/-- The first byte of a row that a transfer may not touch: GROUP, RESERVED, or outside the actor's bounds (R349). -/
def rowFail (s : State) (a len : Nat) : Option Nat :=
  let e := a + len
  let localEnd := min e scratchBytes
  match (if s.hart.priv = .user && decide (a < scratchBytes) then firstHole (actorRanges s) 70 a localEnd else none) with
  | some x => some x
  | none => if decide (2 ^ 56 < e) && len != 0 then some (max a (2 ^ 56)) else none

/-- The first failing byte of n rows, from row j on. -/
def rowsFail (s : State) (base stride : Word) (len : Nat) : Nat → Nat → Option Nat
  | 0, _ => none
  | n + 1, j =>
    if len = 0 then none
    else
      match rowFail s (base + stride * BitVec.ofNat 64 j).toNat len with
      | some x => some x
      | none => if stride = 0 then none else rowsFail s base stride len n (j + 1)

/-- Whether n rows lie wholly in the scratchpad. -/
def rowsLocal (base stride : Word) (len : Nat) : Nat → Bool
  | 0 => true
  | n + 1 =>
    (len == 0 || decide ((base + stride * BitVec.ofNat 64 n).toNat + len ≤ scratchBytes))
      && rowsLocal base stride len n

/-- Destinations that must be LOCAL (R349). -/
def localIllegal (v : Vector Word 12) : Bool :=
  (snapMcast v && !rowsLocal v[1] v[5] (destLen v) (destRows v))
    || (snapMode v == 1 && snapSkip v
        && !(rowsLocal v[1] v[5] (destLen v) (destRows v) && rowsLocal v[11] 0 (countLen v) 1))

/-- The first failing byte of the index list, which lies in the scratchpad (R353). DESIGN CHOICE: a list that reaches outside
fails at its first byte there (assumption 112). -/
def indexFail (s : State) (v : Vector Word 12) : Option Nat :=
  let len := 4 * snapRows v
  match rowsFail s v[11] 0 len 1 0 with
  | some x => some x
  | none => if rowsLocal v[11] 0 len 1 then none else some (max v[11].toNat scratchBytes)

/-- The trap of a launch that R349 turns away: cause and value. -/
def launchTrap (s : State) (word : Word) (v : Vector Word 12) : Option (Nat × Word) :=
  let mode := snapMode v
  let at_ (c : Nat) (x : Option Nat) : Option (Nat × Word) := x.map fun a => (c, place a 0)
  if launchIllegal s v then some (2, word)
  else if mode = 6 then none
  else if mode = 4 then
    let n := field v[0] 0 6
    if s.act.name ≠ 0 ∧ Tab.find? s.actors.slotOwner (ownCore s * 64 + n) = some s.act.name then none
    else some (7, place (n * 0x2000) 0)
  else if localIllegal v then some (2, word)
  else
    (at_ 5 (if mode = 2 then none else rowsFail s v[0] v[4] (snapLen v) (snapRows v) 0)).orElse fun _ =>
      (at_ 7 (rowsFail s v[1] v[5] (destLen v) (destRows v) 0)).orElse fun _ =>
        if mode = 1 && snapSkip v then at_ 7 (rowsFail s v[11] 0 (countLen v) 1 0)
        else if mode = 2 then at_ 7 (indexFail s v)
        else none

/-! ## What the engine reads and writes (R350) -/

def engineIssuer (s : State) (t : Transfer) : Issuer :=
  { pid := t.pid, cluster := ownCluster s, actor := t.actor, anyJob := false }

/-- What the engine comes to with a row or an element: its bytes are all there or written, a request to another package
is out, a dead actor's transfer has stopped at a boundary, or it fails. -/
inductive Engine where
  | on (t : Transfer) (s : State)
  | waits (s : State)
  | stopped (s : State)
  | failed (d : Detail) (s : State)

def findTransfer (s : State) (id : Nat) : Option Transfer := s.transfers.find? fun t => t.id == id

def dropTransfer (id : Nat) (s : State) : State := { s with transfers := s.transfers.filter fun t => t.id != id }

def setTransfer (t : Transfer) (s : State) : State :=
  { s with transfers := updateFirst (fun u => u.id == t.id) (fun _ => t) s.transfers }

/-- A request of the engine to another package; one for a lost peer fails. -/
def engineAsk (t : Transfer) (pkg : Nat) (ev : Instr) (s : State) : Engine :=
  if reachable s pkg then .waits (postTo pkg .request ev (setTransfer { t with busy := true } s))
  else .failed dLostPeer s

/-- The engine reads bytes up to `len`, from `a` on, into its buffer, in chunks that stay within a page; a READ to
another package is answered later (R350, R405). -/
def engineRead (a : Word) (len : Nat) : Nat → Transfer → State → Engine
  | 0, t, s => .on t s
  | fuel + 1, t, s =>
    if len ≤ t.buf.length then .on t s
    else
      let p := a + BitVec.ofNat 64 t.buf.length
      let n := min (len - t.buf.length) (4096 - p.toNat % 4096)
      let take (key : Nat) (s1 : State) : Engine :=
        if poisoned s1 key n then .failed dMemoryUncorrectable s1
        else engineRead a len fuel { t with buf := t.buf ++ readKey s1 key n } s1
      if classOf p = .scratch then take (localKey s p.toNat) s
      else
        match translate s (stationOf (ownCore s)) t.pid p .load with
        | (s1, .error (d, _)) => .failed d s1
        | (s1, .ok x) =>
          if x.aperture = 1 then engineAsk t x.pkg (.homeRead x.key n (.transfer t.id)) s1
          else match homeAnswers s1 x with
            | some d => .failed d s1
            | none => take x.key s1

/-- The engine writes the bytes of a row that are not written yet; what was written stays when it fails. A transfer whose
actor has died goes on to the next aligned 64-byte boundary (R362). -/
def engineWrite (a : Word) (data : List Byte) : Nat → Transfer → State → Engine
  | 0, t, s => .on t s
  | fuel + 1, t, s =>
    if data.length ≤ t.done then .on t s
    else
      let p := a + BitVec.ofNat 64 t.done
      let page := if t.stop then 64 else 4096
      let n := min (data.length - t.done) (page - p.toNat % page)
      let t1 := { t with done := t.done + n }
      if t.stop && p.toNat % 64 == 0 then .stopped s
      else if classOf p = .scratch then
        engineWrite a data fuel t1 (writeKey s (localKey s p.toNat) ((data.drop t.done).take n))
      else
        match translate s (stationOf (ownCore s)) t.pid p .store with
        | (s1, .error (d, _)) => .failed d s1
        | (s1, .ok x) =>
          if x.aperture = 1 then
            engineAsk t1 x.pkg (.homeWrite x.key ((data.drop t.done).take n) (.transfer t.id)) s1
          else
            match homeAnswers s1 x with
            | some d => .failed d s1
            | none =>
              if inDeadChannel s1 x.key n then .failed dMemoryUncorrectable s1
              else engineWrite a data fuel t1 (writeKey s1 x.key ((data.drop t.done).take n))

/-- Whether every byte lies in the job's tile-slot pool of a core (R350). -/
def inTilePool (s : State) (core : Nat) (pid : Pid) (a len : Nat) : Bool :=
  match placement s core pid with
  | none => false
  | some e => len == 0 ||
      (List.range ((a + len - 1) / 0x2000 + 1 - a / 0x2000)).all fun i => bit e.tslots (a / 0x2000 + i)

/-- Writes a row on the members of MASK, in ascending order (R350). -/
def multicast (pid : Pid) (mask a : Nat) (data : List Byte) (s : State) : Option Detail × State :=
  ((List.range 16).filter fun m => mask / 2 ^ m % 2 == 1).foldl
    (fun r m =>
      match r with
      | (some d, t) => (some d, t)
      | (none, t) =>
        let core := ownCluster s * 16 + m
        if core ≠ ownCore s ∧ dirPoisoned t core then (some dMemoryUncorrectable, t)
        else if core = ownCore s || inTilePool t core pid a data.length then (none, writeKey t (scratchKey core a) data)
        else (some dPagePermission, t)) (none, s)

/-- Chunks that n bytes can take. -/
def chunks (n : Nat) : Nat := n / 4096 + 2

/-- Writes a destination row. A transfer whose actor has died stops at the next aligned 64-byte boundary (R362). -/
def writeRow (a : Word) (data : List Byte) (t : Transfer) (s : State) : Engine :=
  if t.stop && t.done == 0 && a.toNat % 64 == 0 then .stopped s
  else if snapMcast t.snap then
    let part := if t.stop then data.take (64 - a.toNat % 64) else data
    match multicast t.pid (snapMask t.snap) a.toNat part s with
    | (some d, s1) => .failed d s1
    | (none, s1) => if part.length < data.length then .stopped s1 else .on { t with done := data.length } s1
  else engineWrite a data (chunks data.length) t s

/-- What becomes of a counter add of an engine or a collective entry (R361, R374): applied at the counter's home, on its
way to another package, or refused. -/
inductive Added where
  | done (s : State)
  | sent (s : State)
  | failed (d : Detail) (s : State)

def engineAdd (h n : Word) (src : Issuer) (rto : ReplyTo) (s : State) : Added :=
  let pkg := hPkg h
  if pkg = herePkg s then
    match applyAdd h n src s with
    | .ok (_, t) => .done t
    | .error d => .failed d s
  else if reachable s pkg then .sent (postTo pkg .request (.homeCadd h n src rto) s)
  else .failed dLostPeer s

/-! ## Ends and failures (R343, R344, R361) -/

/-- LOCATION of a transfer's record (R477). -/
def transferLocation (s : State) (t : Transfer) (unit : Nat) : Nat :=
  snapMode t.snap * 2 ^ 28 + t.id % 256 * 2 ^ 20 + ownMember s * 2 ^ 16 + unit % 65536

/-- The transfer has failed: its actor receives a signal, or the cluster log a record (R361, R477). -/
def failTransfer (t : Transfer) (unit : Nat) (reason : BitVec 8) (d : Detail) (s : State) : State :=
  let s1 := dropTransfer t.id s
  if t.actor ≠ 0 ∧ isLive s t.actor then
    signalSelf t.actor reason
      (place unit 32 ||| place (t.id % 256) 24 ||| place (snapMode t.snap) 20 ||| place d.toNat 0) s1
  else logCluster 8 3 d.toNat (transferLocation s t unit) s1

/-- A refused done add that finds the counters of a dead actor freed: it is discarded and logged (R361, R362). -/
def addDiscarded (t : Transfer) (d : Detail) (s : State) : Bool :=
  d == dStaleCounter && t.actor != 0 && !isLive s t.actor

def logDiscarded (t : Transfer) (d : Detail) (s : State) : State :=
  logCluster 8 3 d.toNat (transferLocation s t t.step) s

/-- The done add of a transfer or a step (R361). -/
def doneAdd (t : Transfer) (s : State) : Added :=
  if t.snap[7] = 0 then .done s
  else
    match engineAdd t.snap[7] t.snap[8] (engineIssuer s t) (.transfer t.id) (setTransfer { t with adding := true } s) with
    | .done u => .done (setTransfer t u)
    | .sent u => .sent u
    | .failed d u => if addDiscarded t d u then .done (logDiscarded t d (setTransfer t u)) else .failed d u

/-- Every write is performed: the done add, and the position is free. DESIGN CHOICE: the UNIT of a done add that fails is the
number of rows (assumption 113). -/
def completeTransfer (t : Transfer) (s : State) : State :=
  match doneAdd t s with
  | .done u => dropTransfer t.id u
  | .sent u => u
  | .failed d u => failTransfer t t.step 0x0B d u

/-! ## Owners of tile slots (R356) -/

def slotKey (core slot : Nat) : Nat := core * 64 + slot

def setOwner (core slot : Nat) (name : Word) (s : State) : State :=
  { s with actors := { s.actors with slotOwner := Tab.put s.actors.slotOwner (slotKey core slot) name } }

def freeSlot (core slot : Nat) (s : State) : State :=
  { s with actors := { s.actors with slotOwner := Tab.drop s.actors.slotOwner (slotKey core slot) } }

/-- The owner of a slot while a move of it is in progress: nobody, and nobody may claim it. -/
def inMove (name : Word) : Word := name &&& ~~~(0x3FFFFFFF : Word)

/-- The actor has its slot again, or the slot is free if it has died (R356). -/
def regain (core slot : Nat) (name : Word) (s : State) : State :=
  if isLive s name then setOwner core slot name s else freeSlot core slot s

/-- The slot of a move that is turned away. -/
def regainSlot (t : Transfer) (s : State) : State :=
  regain (coreIndex s (namePkg t.actor) (nameCore t.actor)) (field t.snap[0] 0 6) t.actor s

/-! ## WALK (R354) -/

/-- A step boundary of a WALK: pause, the next gate wait, the next step, or the end. -/
def walkBegin (t : Transfer) (s : State) : State :=
  if snapRows t.snap ≤ t.step then dropTransfer t.id s
  else if t.pause then setTransfer { t with st := .paused, pause := false } s
  else if t.snap[9] = 0 then post (.walkStepDone t.id) (setTransfer { t with st := .active } s)
  else
    postTo (hPkg t.snap[9]) .request
      (.homeCwait t.snap[9] (t.snap[10] + BitVec.ofNat 64 t.step) (engineIssuer s t) (.transfer t.id))
      (setTransfer { t with st := .gated } s)

/-! ## The launch (R348) -/

/-- The shadow set at one instant. -/
def shadowSet (s : State) : Vector Word 12 := s.user.shadow

/-- The transfer takes its position and begins. -/
def beginTransfer (s : State) : State :=
  let t : Transfer :=
    { id := s.launches, snap := shadowSet s, actor := s.act.name, pid := s.sup.pid, st := .active, step := 0, elem := 0
      pause := false, reply := none, stop := false, buf := [], done := 0, busy := false, key := none, adding := false }
  let s1 := { s with transfers := s.transfers ++ [t], launches := s.launches + 1 }
  let v := t.snap
  match snapMode v with
  | 1 => post (if snapRows v = 0 ∨ snapLen v = 0 then .transferComplete t.id else .reduceElementUpdate t.id) s1
  | 3 => if snapRows v = 0 then post (.transferComplete t.id) s1 else walkBegin t s1
  | 4 =>
    let n := field v[0] 0 6
    post (.move { start := none, slot := BitVec.ofNat 6 n, actor := t.actor, receiver := v[1], tag := BitVec.ofNat 32 (field v[11] 48 16)
                  flags := BitVec.ofNat 8 (field v[11] 40 8), pid := t.pid, replyTo := .transfer t.id })
      { s1 with actors := { s1.actors with
          slotOwner := Tab.put s1.actors.slotOwner (ownCore s * 64 + n) (t.actor &&& ~~~(0x3FFFFFFF : Word)) } }
  | _ => post (.transferComplete t.id) s1

/-- STATE of a transfer (R363). -/
def transferCode (t : Transfer) : Nat :=
  match t.st with | .active => 1 | .gated => 2 | .paused => 3

def steps (t : Transfer) : Nat := t.step

/-- CONTROL (R363): the transfer after the action, and the status (assumption 33). -/
def controlTransfer (s : State) (word : Word) : Word × State :=
  let id := field word 0 8
  match s.transfers.find? fun t => t.reply.isNone && t.id % 256 == id with
  | none => (place id 0, s)
  | some t =>
    let walk := snapMode t.snap == 3
    let action := field word 8 2
    let s1 :=
      if walk && action == 1 && t.pid == s.sup.pid && t.st != .paused then setTransfer { t with pause := true } s
      else if walk && action == 2 && t.st == .paused then walkBegin { t with st := .active } s
      else s
    let t1 := (findTransfer s1 t.id).getD t
    (place (steps t1) 32 ||| place (transferCode t1) 8 ||| place id 0, s1)

/-- The read of celaunch: the value it returns, and its effect. -/
def launchRead (s : State) : Word × State :=
  if snapMode (shadowSet s) = 6 then controlTransfer s (shadowSet s)[11]
  else (place (s.launches % 256) 0, beginTransfer s)

/-- What a read of celaunch checks, in order (R55, R348, R349). -/
def launchChecks (word : Word) : List Check :=
  let control (s : State) : Bool := snapMode (shadowSet s) == 6
  [fun s => (launchTrap s word (shadowSet s)).map fun t => trap t.1 t.2 s,
   stopIf (fun s => !control s && decide (4 ≤ s.transfers.length)) stallCsr,
   stopIf (fun s => !control s && accessBlocked s) stall,
   stopIf (fun s => !control s && writesOutstanding s) stall]

/-- An instruction that reads celaunch into rd. -/
def launchInstr (i : Instr) (rd : RegIdx) (srcs : List Source) : State → Out :=
  instr ([noPrefix i, checkHeld, checkSources srcs] ++ launchChecks (wordOf i) ++ [checkDest (dstX rd)])
    fun s => let r := launchRead s; retire (setX rd r.1 r.2)

/-- `csrrs rd, celaunch, x0`. -/
def readLaunch (rd : RegIdx) : Instr := .csrrs { rd := rd, src := 0, csr := 0x83F }

/-- A launch whose shadow set has the mode; in another mode the row says nothing. -/
def launchOf (mode : Nat) (rd : RegIdx) (s : State) : Out :=
  if snapMode (shadowSet s) = mode then launchInstr (readLaunch rd) rd [] s else .next s

def execLaunchCopy (rd : RegIdx) (s : State) : Out := launchOf 0 rd s
def execLaunchReduce (rd : RegIdx) (s : State) : Out := launchOf 1 rd s
def execLaunchGather (rd : RegIdx) (s : State) : Out := launchOf 2 rd s
def execLaunchWalk (rd : RegIdx) (s : State) : Out := launchOf 3 rd s
def execLaunchTilemove (rd : RegIdx) (s : State) : Out := launchOf 4 rd s
def execLaunchConvert (rd : RegIdx) (s : State) : Out := launchOf 5 rd s

/-- CONTROL with the given action. -/
def controlOf (action : Nat) (rd : RegIdx) (s : State) : Out :=
  if field (shadowSet s)[11] 8 2 = action then launchOf 6 rd s else .next s

def execControlQuery (rd : RegIdx) (s : State) : Out := controlOf 0 rd s
def execControlPause (rd : RegIdx) (s : State) : Out := controlOf 1 rd s
def execControlResume (rd : RegIdx) (s : State) : Out := controlOf 2 rd s

/-! ## Rows, elements and steps -/

/-- Where row j is read (R351, R353, R355): the address, or the detail of a gathered row outside the TRANSLATED class or
of an index that cannot be read (R361). -/
def rowSource (s : State) (t : Transfer) (j : Nat) : Except Detail Word :=
  let v := t.snap
  if snapMode v = 2 then
    let key := localKey s (v[11].toNat + 4 * j)
    let idx := natOf (readKey s key 4)
    let a := v[0] + BitVec.ofNat 64 idx * v[4]
    if poisoned s key 4 then .error dMemoryUncorrectable
    else if classOf a = .translated && (snapLen v == 0 || classOf (a + BitVec.ofNat 64 (snapLen v - 1)) == .translated) then .ok a
    else .error dPageInvalid
  else .ok (v[0] + BitVec.ofNat 64 j * v[4])

/-- The bytes of a row as they are written: CONVERT changes their format (R355). -/
def rowData (v : Vector Word 12) (b : List Byte) : List Byte :=
  if snapMode v = 5 then
    let ws := fmtWidth (snapFmt v)
    let wd := fmtWidth (snapDfmt v)
    let es := elemsOf ws (natOf b) (b.length * 8 / ws)
    let out := es.map fun e =>
      ((convertElem false false (decodeElem (snapFmt v) e) (snapDfmt v) .rne).map (·.1)).getD 0
    bytesOf (es.length * wd / 8) (packElems wd out)
  else b

/-- One row of COPY, GATHER or CONVERT, or one step of WALK, into destination row r. -/
def moveRow (t : Transfer) (r : Nat) (s : State) : Engine :=
  match rowSource s t t.step with
  | .error d => .failed d s
  | .ok a =>
    match engineRead a (snapLen t.snap) (chunks (snapLen t.snap)) t s with
    | .on t1 s1 => writeRow (t.snap[1] + BitVec.ofNat 64 r * t.snap[5]) (rowData t.snap t1.buf) t1 s1
    | .waits s1 => .waits s1
    | .stopped s1 => .stopped s1
    | .failed d s1 => .failed d s1

/-- The next row or step. -/
def nextRow (t : Transfer) : Transfer := { t with step := t.step + 1, elem := 0, buf := [], done := 0, key := none, adding := false }

/-- The slot of a finished move to another package, and what its transfer or `tmov` comes to (R356, R359, R360); a transfer
whose actor has died makes no done add (R362). -/
def moveAnswered (t : Transfer) (v : Word) (s : State) : State :=
  let core := coreIndex s (namePkg t.actor) (nameCore t.actor)
  let slot := field t.snap[0] 0 6
  let s1 := if bit v 63 then freeSlot core slot s else regain core slot t.actor s
  if t.stop then dropTransfer t.id s1
  else match t.reply with
  | some job => reply (.job job 0) (.value v) (dropTransfer t.id s1)
  | none =>
    if bit v 63 then completeTransfer t s1
    else if v = 0x06 then dropTransfer t.id s1
    else failTransfer t 0 (v.setWidth 8) dNone s1

/-- TRANSFER_COMPLETE (R344): the next row, and behind the last one the done add; the end of an add or of a move at
another package. -/
def execTransferComplete (id : Nat) (s : State) : Out :=
  .next (match findTransfer s id with
    | none => s
    | some t =>
      let mode := snapMode t.snap
      if t.busy then s
      else if t.adding then dropTransfer id s
      else if t.reply.isSome ∨ mode = 4 then (if t.buf = [] then s else moveAnswered t (bytesToWord t.buf) s)
      else if (mode = 0 ∨ mode = 2 ∨ mode = 5) ∧ t.step < snapRows t.snap then
        match moveRow t t.step s with
        | .failed d s1 => failTransfer t t.step 0x0B d s1
        | .stopped s1 => dropTransfer id s1
        | .waits s1 => s1
        | .on t1 s1 => post (.transferComplete id) (setTransfer (nextRow t1) s1)
      else if mode = 6 ∨ (mode = 3 ∧ snapRows t.snap ≠ 0) ∨ (mode = 1 ∧ t.step < snapRows t.snap ∧ snapLen t.snap ≠ 0)
      then s
      else if t.stop then dropTransfer id s
      else completeTransfer t s)

/-- Behind a WALK step's add: the next step. -/
def walkNext (t : Transfer) (s : State) : State :=
  if t.stop then dropTransfer t.id s else walkBegin (nextRow t) (setTransfer (nextRow t) s)

/-- WALK_STEP_DONE (R354): a step's writes and its done add. -/
def execWalkStepDone (id : Nat) (s : State) : Out :=
  .next (match findTransfer s id with
    | none => s
    | some t =>
      if snapMode t.snap ≠ 3 ∨ t.st ≠ .active ∨ snapRows t.snap ≤ t.step ∨ t.busy then s
      else if t.adding then walkNext t s
      else
        match moveRow t (t.step % snapRing t.snap) s with
        | .failed d s1 => failTransfer t t.step 0x0B d s1
        | .stopped s1 => dropTransfer id s1
        | .waits s1 => s1
        | .on t1 s1 =>
          if t.stop then dropTransfer id s1
          else
            match doneAdd t1 (setTransfer t1 s1) with
            | .failed d s2 => failTransfer t1 t1.step 0x0B d s2
            | .sent s2 => s2
            | .done s2 => walkNext t1 s2)

/-- WALK_GATE_OPENS: the gate has reached the step's threshold. -/
def execWalkGateOpens (id : Nat) (s : State) : Out :=
  .next (match findTransfer s id with
    | none => s
    | some t => if t.st = .gated then post (.walkStepDone id) (setTransfer { t with st := .active } s) else s)

/-- TRANSFER_FAILURE (R361): the unit is the row or step the transfer has come to. A move that another package turns away
leaves the slot with its actor (R359). -/
def execTransferFailure (id : Nat) (detail : BitVec 16) (s : State) : Out :=
  .next (match findTransfer s id with
    | none => s
    | some t =>
      let s0 := if t.reply.isSome || snapMode t.snap == 4 then regainSlot t s else s
      match t.reply with
      | some job =>
        reply (.job job 0) (.failed detail (BitVec.ofNat 12 (namePkg t.snap[1]))) (dropTransfer id s0)
      | none =>
        if t.adding && addDiscarded t detail s0 then
          let s1 := logDiscarded t detail s0
          if snapMode t.snap = 3 then walkNext t s1 else dropTransfer id s1
        else failTransfer t t.step 0x0B detail s0)

/-! ### REDUCE (R352) -/

def redOpOf (n : Nat) : RedOp :=
  if n = 0 then .sum else if n = 1 then .min else if n = 2 then .max else if n = 3 then .and else if n = 4 then .or else .xor

/-- The new destination element, and whether it is counted; a NaN result is the canonical NaN (R352). -/
def reduceNew (op f : Nat) (skip : Bool) (d e : Nat) : Nat × Bool :=
  if skip && (decodeElem f e).isNaN then (canonicalise f d, false)
  else (canonicalise f (if skip && (decodeElem f d).isNaN then e else (node (redOpOf op) f .rne Mods.none d e).1), skip)

/-- Where the transfer's element lies in a row of its destination. -/
def elementOffset (t : Transfer) : Word := BitVec.ofNat 64 (t.elem * (fmtWidth (snapFmt t.snap) / 8))

/-- The count of the transfer's element (R352). -/
def countKey (s : State) (t : Transfer) : Nat :=
  localKey s (t.snap[11].toNat + 4 * (t.step * (snapLen t.snap / (fmtWidth (snapFmt t.snap) / 8)) + t.elem))

/-- One element's update at its home, in one step. -/
def updateElement (t : Transfer) (k : Nat) (s : State) : Except Detail State :=
  let v := t.snap
  let wb := fmtWidth (snapFmt v) / 8
  let r := reduceNew (snapRop v) (snapFmt v) (snapSkip v) (natOf (readKey s k wb)) (natOf t.buf)
  if poisoned s k wb || (r.2 && poisoned s (countKey s t) 4) then .error dMemoryUncorrectable
  else
    let s1 := writeKey s k (bytesOf wb r.1)
    .ok (if r.2 then writeKey s1 (countKey s1 t) (bytesOf 4 (natOf (readKey s1 (countKey s1 t)  4) + 1)) else s1)

/-- One element: its source is read, and its destination is updated at its home, which may be another package's (R352,
R405). -/
def reduceElement (t : Transfer) (s : State) : Engine :=
  let v := t.snap
  let wb := fmtWidth (snapFmt v) / 8
  let a := v[1] + BitVec.ofNat 64 t.step * v[5] + elementOffset t
  match engineRead (v[0] + BitVec.ofNat 64 t.step * v[4] + elementOffset t) wb 2 t s with
  | .on t1 s1 =>
    let here (k : Nat) (u : State) : Engine :=
      match updateElement t1 k u with
      | .ok u1 => .on t1 u1
      | .error d => .failed d u
    if t.key.isSome then .on t1 s1
    else if classOf a = .scratch then here (localKey s1 a.toNat) s1
    else
      match translate s1 (stationOf (ownCore s1)) t.pid a .atomic with
      | (s2, .error (d, _)) => .failed d s2
      | (s2, .ok x) =>
        if x.aperture = 1 then engineAsk { t1 with key := some x.key } x.pkg (.reduceElementUpdate t.id) s2
        else here x.key s2
  | r => r

/-- The element behind the current one. -/
def nextElement (per : Nat) (t : Transfer) : Transfer :=
  if t.elem + 1 = per then nextRow t else { t with elem := t.elem + 1, buf := [], key := none }

/-- A dead actor's REDUCE stops before an element at an aligned 64-byte boundary (R362). -/
def reduceStops (t : Transfer) : Bool :=
  t.stop && t.buf == []
    && (t.snap[1] + BitVec.ofNat 64 t.step * t.snap[5] + elementOffset t).toNat % 64 == 0

/-- The update of an element at the package that holds it: the packet is answered (R405). -/
def updateThere (t : Transfer) (s : State) : State :=
  match s.sched.packet, t.key with
  | some (src, ch, rid), some k =>
    let back : ReplyTo := .over
      { src := src, dst := BitVec.ofNat 12 (herePkg s), ch := ch, rid := rid, kind := 2, pid := t.pid } (.transfer t.id)
    match updateElement t k s with
    | .ok s1 => reply back (.value 0) s1
    | .error d => reply back (.failed d (BitVec.ofNat 12 (herePkg s))) s
  | _, _ => s

/-- REDUCE_ELEMENT_UPDATE: one element, then the next one, or the end. -/
def execReduceElementUpdate (id : Nat) (s : State) : Out :=
  .next (match findTransfer s id with
    | none => s
    | some t =>
      let per := snapLen t.snap * 8 / fmtWidth (snapFmt t.snap)
      if snapMode t.snap ≠ 1 ∨ snapRows t.snap ≤ t.step ∨ per ≤ t.elem then s
      else if s.sched.place.isSome then updateThere t s
      else if t.busy then s
      else if reduceStops t then dropTransfer id s
      else
        match reduceElement t s with
        | .failed d s1 => failTransfer t t.step 0x0B d s1
        | .waits s1 | .stopped s1 => s1
        | .on t1 s1 =>
          let t2 := nextElement per t1
          post (if snapRows t.snap ≤ t2.step then .transferComplete id else .reduceElementUpdate id) (setTransfer t2 s1))

/-! ## Tile slots (R356 to R360) -/

/-- The lowest slot of the job's pool on a core with no owner. -/
def unownedSlot (s : State) (core : Nat) (pid : Pid) : Option Nat :=
  match placement s core pid with
  | none => none
  | some e => (List.range 64).find? fun n => bit e.tslots n && (Tab.find? s.actors.slotOwner (slotKey core n)).isNone

/-- What a move comes to. -/
inductive MoveResult where
  | moved (m : Nat)
  | noActor | outOfRoom | mailboxFull
  | failed (d : Detail)
  deriving DecidableEq, Repr

/-- The TILE record (R357). -/
def tileRecord (m : MoveReq) (slot core : Nat) : Record :=
  { dst := m.receiver, flood := false, kind := 2, flags := m.flags, tag := m.tag, sender := m.actor, pid := m.pid
    payload := wordToBytes 8 (place (slot * 0x2000) 0) ++ wordToBytes 8 (place m.slot.toNat 16 ||| place core 0) }

/-- The receiver takes no record: it is not live, or belongs to another job. -/
def receiverGone (m : MoveReq) (s : State) : Bool := !((liveActor s m.receiver).any fun b => b.pid == m.pid)

/-- A move to another core, at that core: a slot there, the copy, and the TILE record. -/
def moveAcross (m : MoveReq) (s : State) : MoveResult × State :=
  let core := coreIndex s (namePkg m.actor) (nameCore m.actor)
  let target := coreIndex s (namePkg m.receiver) (nameCore m.receiver)
  let src := scratchKey core (m.slot.toNat * 0x2000)
  if receiverGone m s then (.noActor, noActor m.actor m.receiver s)
  else if dirPoisoned s target then (.failed dMemoryUncorrectable, s)
  else
    match unownedSlot s target m.pid with
    | none => (.outOfRoom, s)
    | some k =>
      if poisoned s src 0x2000 then (.failed dMemoryUncorrectable, s)
      else
        let s1 := setOwner target k m.receiver (writeKey s (scratchKey target (k * 0x2000)) (readKey s src 0x2000))
        match admitRecord (tileRecord m k (core % 4096)) s1 with
        | (.committed, s2) => (.moved k, s2)
        | (.full, s2) | (.absent, s2) => (.mailboxFull, freeSlot target k s2)

/-- Move (R356) within a package, once it need not wait. -/
def moveSlot (m : MoveReq) (s : State) : MoveResult × State :=
  let core := coreIndex s (namePkg m.actor) (nameCore m.actor)
  let n := m.slot.toNat
  if coreIndex s (namePkg m.receiver) (nameCore m.receiver) = core then
    if receiverGone m s then (.noActor, regain core n m.actor (noActor m.actor m.receiver s))
    else
      match admitRecord (tileRecord m n (core % 4096)) (setOwner core n m.receiver s) with
      | (.committed, s2) => (.moved n, s2)
      | (.full, s2) | (.absent, s2) => (.mailboxFull, regain core n m.actor s2)
  else
    match moveAcross m s with
    | (.moved k, s1) => (.moved k, freeSlot core n s1)
    | (r, s1) => (r, regain core n m.actor s1)

/-- A result word of `tmov` (R358). -/
def moveWord : MoveResult → Word
  | .moved m => place 1 63 ||| place m 0
  | .noActor => 0x06
  | .mailboxFull => 0x04
  | .outOfRoom => 0x0C
  | .failed _ => 0

/-- The position of the engine that a `tmov` MOVE takes. -/
def tmovTransfer (s : State) (jobId slot : Nat) (receiver : Word) : Transfer :=
  { id := 2 ^ 64 + jobId, snap := ((Vector.replicate 12 0).set 0 (place slot 0)).set 1 receiver
    actor := s.act.name, pid := s.sup.pid, st := .active, step := 0, elem := 0, pause := false, reply := some jobId
    stop := false, buf := [], done := 0, busy := false, key := none, adding := false }

/-- The transfer that a move answers: a TILEMOVE's, or the position of a `tmov`. -/
def moveTransfer : ReplyTo → Nat
  | .transfer id => id
  | .job id _ => 2 ^ 64 + id
  | _ => 0

/-- A move that takes effect: CLAIM is answered at once; FREE and MOVE wait until the slot is at rest (R356, R359). -/
def startMove (op : BitVec 2) (m0 : MoveReq) (s : State) : State :=
  let m := { m0 with start := none }
  let core := ownCore s
  if op = 1 then
    if dirPoisoned s core then reply m.replyTo (.failed dMemoryUncorrectable s.ras.pkg) s
    else
    match unownedSlot s core m.pid with
    | some k => reply m.replyTo (.value (moveWord (.moved k))) (setOwner core k m.actor s)
    | none => reply m.replyTo (.value (moveWord .outOfRoom)) s
  else if op = 2 then post (.move m) s
  else post (.move m) (setOwner core m.slot.toNat (inMove m.actor) s)

/-- A move within the package has come to its result: for a TILEMOVE, or for a `tmov`. -/
def moveDone (m : MoveReq) (s : State) : State :=
  match m.replyTo with
  | .transfer id =>
    match findTransfer s id with
    | none => freeSlot (coreIndex s (namePkg m.actor) (nameCore m.actor)) m.slot.toNat s
    | some t =>
      match moveSlot m s with
      | (.moved _, s1) => completeTransfer t s1
      | (.noActor, s1) => dropTransfer id s1
      | (.outOfRoom, s1) => failTransfer t 0 0x0C dNone s1
      | (.mailboxFull, s1) => failTransfer t 0 0x04 dNone s1
      | (.failed d, s1) => failTransfer t 0 0x0B d s1
  | rto =>
    match moveSlot m (dropTransfer (moveTransfer rto) s) with
    | (.failed d, s1) => reply rto (.failed d (BitVec.ofNat 12 (namePkg m.receiver))) s1
    | (r, s1) => reply rto (.value (moveWord r)) s1

/-- The move at the package of its receiver: the result goes back (R405). -/
def moveThere (m : MoveReq) (s : State) : State :=
  match moveAcross m s with
  | (.failed d, s1) => reply m.replyTo (.failed d (BitVec.ofNat 12 (herePkg s))) s1
  | (r, s1) => reply m.replyTo (.value (moveWord r)) s1

/-- A request of `tmov` that frees its slot, and names no receiver. -/
def isFree (m : MoveReq) : Bool :=
  match m.replyTo with
  | .job _ _ => m.receiver == 0
  | _ => false

/-- A move goes to the package of its receiver: its transfer waits for the answer, and where that has stopped meanwhile the
slot is freed (R356, R362). -/
def moveAway (m : MoveReq) (s : State) : State :=
  let id := moveTransfer m.replyTo
  match findTransfer s id with
  | none => freeSlot (coreIndex s (namePkg m.actor) (nameCore m.actor)) m.slot.toNat s
  | some t =>
    postTo (namePkg m.receiver) .message (.move { m with replyTo := .transfer id }) (setTransfer { t with busy := true } s)

/-- MOVE (R356), as a packet at the package of its receiver, or at the core of its sender. -/
def execMove (m : MoveReq) (s : State) : Out :=
  let core := coreIndex s (namePkg m.actor) (nameCore m.actor)
  .next (if s.sched.packet.isSome then moveThere m s
    else
      match m.start with
      | some op => startMove op m s
      | none =>
        if isFree m then
          reply m.replyTo (.value (place 1 63 ||| place m.slot.toNat 0)) (freeSlot core m.slot.toNat s)
        else if namePkg m.receiver = herePkg s then moveDone m s
        else moveAway m s)

/-! ## tmov (R358, R359) -/

def tmovOp (d : Word) : Nat := field d 8 2
def tmovSlot (d : Word) : Nat := field d 0 6

def ownsSlot (s : State) (n : Nat) : Bool :=
  Tab.find? s.actors.slotOwner (slotKey (ownCore s) n) == some s.act.name

/-- A descriptor that takes MESSAGE_ERROR. -/
def tmovBad (name d : Word) : Bool :=
  tmovOp d == 3 || field d 10 30 != 0 || field d 6 2 != 0
    || (tmovOp d == 0 && name == 0)
    || (tmovOp d != 0 && (name != 0 || field d 40 24 != 0))
    || (tmovOp d == 1 && tmovSlot d != 0)

/-- The request of a `tmov`, which answers job `id`. -/
def tmovReq (d name : Word) (id : Nat) (s : State) : MoveReq :=
  { start := some (BitVec.ofNat 2 (tmovOp d)), slot := BitVec.ofNat 6 (tmovSlot d), actor := s.act.name, receiver := name
    tag := BitVec.ofNat 32 (field d 48 16), flags := BitVec.ofNat 8 (field d 40 8), pid := s.sup.pid
    replyTo := .job id 0 }

/-- A MOVE takes its position of the engine at issue (R359). -/
def takePosition (d name : Word) (id : Nat) (s : State) : State :=
  if tmovOp d = 0 then { s with transfers := s.transfers ++ [tmovTransfer s id (tmovSlot d) name] } else s

/-- The effect of a `tmov`: at once, or as a release behind the hart's earlier writes (R221). -/
def tmovEffect (rl : Bool) (m : MoveReq) (s : State) : State :=
  let es : List Effect := [{ pkg := s.ras.pkg.toNat, ch := .message, ev := .move m }]
  if rl && writesOutstanding s then release es s else if rl then awaitEffects s.off.nextId es s else s

def execTmov (a : RT) : State → Out :=
  let d (s : State) : Word := xval s a.rs2
  instr [noPrefix (.tmov a), checkHandler (.tmov a), stopIf (fun s => a.rl && s.sup.dheld) trapDeferredStore,
      checkSources [srcX a.rs1 false, srcX a.rs2 false],
      fun s => if (tmovOp (d s) = 0 ∨ tmovOp (d s) = 2) ∧ !ownsSlot s (tmovSlot (d s)) then
          some (trap 7 (place (tmovSlot (d s) * 0x2000) 0) s) else none,
      fun s => if tmovBad (xval s a.rs1) (d s) then some (trap 30 (d s) s) else none,
      checkDest (dstX a.rd), checkAccess, checkAcquire a.aq, checkReleaseWait (a.rl && (a.aq || a.rd == 0)),
      stopIf (fun s => decide (4 ≤ s.transfers.length)) stall, checkResources]
    fun s =>
      let id := s.off.nextId
      let m := tmovReq (d s) (xval s a.rs1) id s
      let s1 := tmovEffect a.rl m (takePosition (d s) (xval s a.rs1) id s)
      let s2 := startJob (simpleJob s (.x a.rd.toNat) 9 a.aq) (nextPc s) s1
      retire (if a.rl && writesOutstanding s then s2 else startMove (BitVec.ofNat 2 (tmovOp (d s))) m s2)

end Sys2Proof.Machine
end

