-- ==== Sys2Proof/Machine/Collective.lean ====
section
/-!
DEFINITION. Collectives (chapter 14): descriptors, `colset` and `colclr`, firing, sending and combining.
-/
namespace Sys2Proof.Machine

/-! ## The descriptor (R368) -/

/-- Destination j of a descriptor: package and cluster. -/
def colDest (d : Nat → Word) (j : Nat) : Nat × Nat :=
  let f := field (d (5 + j / 3)) (20 * (j % 3)) 20
  (f / 256, f % 256)

def colFmt (d : Nat → Word) : Nat := field (d 1) 59 5
def colNdest (d : Nat → Word) : Nat := field (d 0) 0 4
def colLines (d : Nat → Word) : Nat := field (d 1) 44 8
def colSkip (d : Nat → Word) : Bool := bit (d 0) 8
def colId (d : Nat → Word) : BitVec 32 := BitVec.ofNat 32 (field (d 0) 32 32)

/-- R368. -/
def colMalformed (d : Nat → Word) : Bool :=
  let op := field (d 0) 4 4
  field (d 1) 39 5 != 0 || ((List.range 3).any fun i => field (d (5 + i)) 60 4 != 0)
    || colId d == 0 || decide (5 < op) || (colSkip d && (decide (3 ≤ op) || isIntFmt (colFmt d)))
    || !reduceFmt (colFmt d) || decide (64 < field (d 1) 52 7) || (bit (d 0) 9 && field (d 1) 52 7 == 0)
    || colLines d == 0 || decide (128 < colLines d) || decide (8 < colNdest d)
    || ((List.range 9).any fun j => decide (colNdest d ≤ j) && colDest d j != (0, 0))
    || (field (d 1) 52 7 == 0 && colNdest d == 0)

/-- Bytes of the count plane. -/
def countPlane (lines fmt : Nat) : Nat := lines * 64 * 4 * 8 / fmtWidth fmt

/-- The entry that a descriptor installs. -/
def colEntry (s : State) (d : Nat → Word) : Coll :=
  { cluster := ownCluster s, pid := s.sup.pid, colid := colId d, owner := s.act.name, core := ownCore s
    group := BitVec.ofNat 16 (field (d 0) 16 16), own := BitVec.ofNat 6 (field (d 0) 10 6), self := bit (d 0) 9
    skip := colSkip d, op := field (d 0) 4 4, fmt := colFmt d, expect := field (d 1) 52 7, lines := colLines d
    cnt := field (d 1) 26 13 * 64, res := field (d 1) 13 13 * 64, src := field (d 1) 0 13 * 64
    arm := d 2, thresh := d 3, donec := d 4
    dests := (List.range (colNdest d)).map fun j =>
      { cluster := clusterIndex s (colDest d j).1 (colDest d j).2, acked := false }
    st := .waiting, bitmap := 0, sent := [], absent := [], first := true, clearing := false
    adding := false }

/-! ## The table (R366) -/

def isColl (cl : Nat) (pid : Pid) (colid : BitVec 32) (c : Coll) : Bool :=
  c.cluster == cl && c.pid == pid && c.colid == colid

def findColl (s : State) (cl : Nat) (pid : Pid) (colid : BitVec 32) : Option Coll :=
  s.colls.find? (isColl cl pid colid)

def setColl (c : Coll) (s : State) : State :=
  { s with colls := updateFirst (isColl c.cluster c.pid c.colid) (fun _ => c) s.colls }

def dropColl (c : Coll) (s : State) : State :=
  { s with colls := s.colls.filter fun x => !isColl c.cluster c.pid c.colid x }

def collTo (c : Coll) : ReplyTo := .collective c.cluster c.pid c.colid

/-- An entry is cleared: its arm waiter is withdrawn, and it becomes FREE (R370). -/
def clearColl (c : Coll) (s : State) : State := dropColl c (cancelRequest (collTo c) s)

/-! ## Completion and combining (R373, R374) -/

def collBytes (c : Coll) : Nat := c.lines * 64

def collElems (c : Coll) : Nat := collBytes c * 8 / fmtWidth c.fmt

def collIssuer (c : Coll) : Issuer := { pid := c.pid, cluster := c.cluster, actor := c.owner, anyJob := false }

def countBits (b : BitVec 64) : Nat := ((List.range 64).filter fun i => b.getLsbD i).length

/-- Elements that are still absent receive the identity (R373). -/
def fillAbsent (c : Coll) (s : State) : State :=
  let wb := fmtWidth c.fmt / 8
  ((List.range (collElems c)).filter fun e => c.absent.getD e false).foldl
    (fun t e => writeKey t (scratchKey c.core (c.res + e * wb)) (bytesOf wb (identityOf (redOpOf c.op) c.fmt))) s

/-- An entry whose contributions and sends are complete adds 1 to DONEC and is DONE (R374, R375). -/
def collComplete (c : Coll) (s : State) : State :=
  if c.st = .active ∧ !c.clearing ∧ !c.adding ∧ c.expect ≤ countBits c.bitmap ∧ (c.dests.all fun d => d.acked) then
    let s1 := fillAbsent c s
    if c.donec = 0 then setColl { c with st := .done } s1
    else
      match engineAdd c.donec 1 (collIssuer c) (collTo c) s1 with
      | .done s2 => setColl { c with st := .done } s2
      | .sent s2 => setColl { c with adding := true } s2
      | .failed d s2 => failColl c.cluster c.pid c.colid d s2
  else s

/-- One element of a contribution: the element's new value and whether it is now present, or none for an absent one. -/
def collElement (c : Coll) (copy absent : Bool) (d e : Nat) : Option Nat :=
  if c.skip && (decodeElem c.fmt e).isNaN then none
  else if copy || absent then some e
  else some (canonicalise c.fmt (node (redOpOf c.op) c.fmt .rne Mods.none d e).1)

/-- A contribution is combined into RES, element by element (R373). -/
def combine (c : Coll) (data : List Byte) (s : State) : Coll × State :=
  let wb := fmtWidth c.fmt / 8
  let copy := c.first && !c.self && !c.skip
  let r := (List.range (collElems c)).foldl
    (fun (acc : List Bool × State) e =>
      let key := scratchKey c.core (c.res + e * wb)
      let absent := c.skip && acc.1.getD e false
      match collElement c copy absent (natOf (readKey acc.2 key wb)) (natOf ((data.drop (e * wb)).take wb)) with
      | none => acc
      | some v =>
        let t := writeKey acc.2 key (bytesOf wb v)
        if c.skip then
          let ck := scratchKey c.core (c.cnt + 4 * e)
          (setAt acc.1 e false, writeKey t ck (bytesOf 4 (natOf (readKey t ck 4) + 1)))
        else (acc.1, t)) (c.absent, s)
  ({ c with absent := r.1, first := false }, r.2)

/-! ## Firing (R371) -/

/-- The contribution of an entry to a destination. -/
def contributionOf (c : Coll) (dst : Nat) : Contribution :=
  { dst := dst, src := c.cluster, colid := c.colid, group := c.group, own := c.own, pid := c.pid
    op := BitVec.ofNat 4 c.op, fmt := BitVec.ofNat 5 c.fmt, lines := c.lines, data := c.sent }

/-- The entry's own source counts as its contribution, and the count plane starts (R371). -/
def fireSelf (c : Coll) (src : List Byte) (s : State) : Coll × State :=
  let wb := fmtWidth c.fmt / 8
  let nan (e : Nat) : Bool := (decodeElem c.fmt (natOf ((src.drop (e * wb)).take wb))).isNaN
  let s1 := if c.self then writeKey s (scratchKey c.core c.res) src else s
  let absent := if c.skip then (List.range (collElems c)).map fun e => !c.self || nan e else []
  let s2 := if c.skip then
      writeKey s1 (scratchKey c.core c.cnt) (absent.flatMap fun a => bytesOf 4 (if a then 0 else 1))
    else s1
  ({ c with
      absent := absent
      bitmap := if c.self then c.bitmap ||| BitVec.ofNat 64 (1 <<< c.own.toNat) else c.bitmap }, s2)

/-- One send of an entry (R371): on its way, held at the source while 256 contributions to its package are unanswered (R411),
or discarded where its package cannot be reached (R375, R413). -/
def sendContribution (c : Contribution) (s : State) : State :=
  let pkg := pkgOfCluster s c.dst
  if !reachable s pkg then s
  else if contributionFits s pkg then postTo pkg .collective (.contributionArrival c) s
  else post (.contributionResend c) s

/-- An entry fires: an acquire, its own contribution, and one send to each destination; a send to a package that cannot be
reached fails the entry. -/
def fire (c0 : Coll) (s : State) : State :=
  let lost (d : CollDest) : Bool := !reachable s (pkgOfCluster s d.cluster)
  let c := { c0 with st := .active, dests := c0.dests.map fun d => if lost d then { d with acked := true } else d }
  let key := scratchKey c.core c.src
  if poisoned s key (collBytes c) then
    failColl c.cluster c.pid c.colid dMemoryUncorrectable (setColl { c with dests := [] } s)
  else
    let src := readKey s key (collBytes c)
    let r := fireSelf { c with sent := src } src (setColl c s)
    let s1 := r.1.dests.foldl (fun t d => sendContribution (contributionOf r.1 d.cluster) t) (setColl r.1 r.2)
    if c.dests.any lost then failColl c.cluster c.pid c.colid dLostPeer s1 else collComplete r.1 s1

/-- COLLECTIVE_FIRE (R367): the arm counter has reached the threshold, or the done add at another package has been
applied (R374). -/
def execCollectiveFire (cluster : Nat) (pid : Pid) (colid : BitVec 32) (s : State) : Out :=
  .next (match findColl s cluster pid colid with
    | some c =>
      if c.st = .waiting then fire c s
      else if c.adding ∧ c.st = .active then setColl { c with st := .done, adding := false } s
      else s
    | none => s)

/-! ## Contributions (R371, R372) -/

/-- A record of KIND 7 in the log of the entry's cluster, which is this one or keeps its own (R477). -/
def logDropped (c : Contribution) (why : Nat) (s : State) : State :=
  if c.dst = ownCluster s then logCluster 7 3 (why * 256 + c.own.toNat) c.colid.toNat s else s

/-- What a contribution is combined with cannot be read (R375, R426): RES, unless the contribution is copied there, or the count
plane. -/
def combineLost (s : State) (e : Coll) : Bool :=
  (poisoned s (scratchKey e.core e.res) (collBytes e) && !(e.first && !e.self && !e.skip))
    || (e.skip && poisoned s (scratchKey e.core e.cnt) (countPlane e.lines e.fmt))

/-- CONTRIBUTION_ARRIVAL (R372). -/
def execContributionArrival (c : Contribution) (s : State) : Out :=
  .next (match findColl s c.dst c.pid c.colid with
    | none => answerContribution c false false s
    | some e =>
      if e.st = .waiting then answerContribution c false false s
      else if e.st = .failed then answerContribution c true false s
      else if e.group ≠ c.group ∨ e.op ≠ c.op.toNat ∨ e.fmt ≠ c.fmt.toNat ∨ e.lines ≠ c.lines then
        answerContribution c true false (logDropped c 2 s)
      else if e.bitmap.getLsbD c.own.toNat then answerContribution c true false (logDropped c 1 s)
      else if e.expect ≤ countBits e.bitmap then answerContribution c true false (logDropped c 3 s)
      else if combineLost s e then
        answerContribution c true false (failColl e.cluster e.pid e.colid dMemoryUncorrectable s)
      else
        let r := combine { e with bitmap := e.bitmap ||| BitVec.ofNat 64 (1 <<< c.own.toNat) } c.data s
        answerContribution c true false (collComplete r.1 (setColl r.1 r.2)))

/-- CANSWER_ARRIVAL (R371, R372): an accepted send is acknowledged; another one is sent again, until it is accepted or the
entry is cleared. -/
def execCanswerArrival (c : Contribution) (accepted : Bool) (s : State) : Out :=
  .next (match findColl s c.src c.pid c.colid with
    | none => s
    | some e =>
      if e.st ≠ .active ∧ e.st ≠ .failed then s
      else if accepted then
        let e1 := { e with dests := updateFirst (fun d => d.cluster == c.dst && !d.acked) (fun d => { d with acked := true }) e.dests }
        collComplete e1 (setColl e1 s)
      else
        let e1 := { e with dests := updateFirst (fun d => d.cluster == c.dst && !d.acked) (fun d => { d with retried := true }) e.dests }
        post (.contributionResend c) (setColl e1 s))

/-- CONTRIBUTION_RESEND (R371, R411): a send that its source has held, or the same bytes again, until it is accepted or the
entry is gone. -/
def execContributionResend (c : Contribution) (s : State) : Out :=
  .next (match findColl s c.src c.pid c.colid with
    | none => s
    | some e =>
      if (e.st == .active || e.st == .failed) && e.dests.any fun d => d.cluster == c.dst && !d.acked then
        sendContribution c s
      else s)

/-! ## colset and colclr (R369, R370) -/

/-- Word n of the descriptor at a local address, as the hart reads it. -/
def descWord (s : State) (a n : Nat) : Word := bytesToWord (readLocal s (a + 8 * n) 8)

def colDesc (s : State) (a : RT) : Nat → Word := descWord s (xval s a.rs1).toNat

/-- The descriptor as it was read when the registration went out (R369). -/
def heldDesc (s : State) : Nat → Word := fun n => s.hart.desc.getD n 0

/-- The descriptor's place: LOCAL, aligned, within bounds, readable (assumption 31). -/
def descOk (s : State) (ea : Word) (align len : Nat) : Bool :=
  classOf ea == .scratch && ea.toNat % align == 0 && decide (ea.toNat + len ≤ scratchBytes) && localOk s ea.toNat len
    && !poisoned s (localKey s ea.toNat) len

/-- A range of the entry that the issuing actor may not use: cause and address. -/
def colRangeFail (s : State) (c : Coll) : Option (Nat × Nat) :=
  let bad (a n : Nat) : Bool := decide (scratchBytes < a + n) || !localOk s a n
  if bad c.src (collBytes c) then some (5, c.src)
  else if bad c.res (collBytes c) then some (7, c.res)
  else if c.skip && bad c.cnt (countPlane c.lines c.fmt) then some (7, c.cnt)
  else none

/-- The waiter that is registered for this hart. -/
def hartWaiter (s : State) (w : Waiter) : Bool := !w.isArm && replyKey s w.replyTo == (s.ras.pkg.toNat, .hart)

/-- The answer goes to another end of the same package. -/
def rebase (r inner : ReplyTo) : ReplyTo :=
  match r with
  | .over o _ => .over o inner
  | _ => inner

/-- The arm waiter of the entry is the one that was registered for this hart. -/
def adoptWaiter (c : Coll) (s : State) : State :=
  { s with ctr := { s.ctr with
      waiters := updateFirst (hartWaiter s) (fun w => { w with replyTo := rebase w.replyTo (collTo c) }) s.ctr.waiters } }

/-- The answer to the registration has come: COUNTER_ERROR, firing at once, or WAITING. A waiter that has been woken
since the answer was sent has a second answer on its way. -/
def colAnswered : Check := fun s =>
  let d := heldDesc s
  match s.hart.wait, s.hart.answer with
  | .registration, .failed x =>
    let s1 := { s with sup := { s.sup with dfpc := s.hart.pc, dfinfo := dfinfoWord (hPkg (d 2)) 0 0 3 x } }
    some (trap 28 (d 2) s1)
  | .registration, .accepted v =>
    let c := colEntry s d
    let s1 := { s with colls := s.colls ++ [c] }
    if c.thresh.toNat ≤ v.toNat then some (retire (fire c s1))
    else if s.ctr.waiters.any (hartWaiter s) then some (retire (adoptWaiter c s1))
    else some { s with hart := { s.hart with answer := .none } }
  | _, _ => none

def execColset (a : RT) : State → Out :=
  let i : Instr := .colset a
  let entry (s : State) : Coll := colEntry s (colDesc s a)
  instr [colAnswered, noPrefix i, checkSources [srcX a.rs1 false],
      fun s => if descOk s (xval s a.rs1) 64 64 then none else some (trap 5 (xval s a.rs1) s),
      fun s => if colMalformed (colDesc s a) || (findColl s (ownCluster s) s.sup.pid (colId (colDesc s a))).isSome
        then some (trapIllegal i s) else none,
      fun s => (colRangeFail s (entry s)).map fun r => trap r.1 (place r.2 0) s,
      stopIf (fun s => decide (256 ≤ (s.colls.filter fun c => c.cluster == ownCluster s).length)) stallBlocked]
    fun s =>
      let d := colDesc s a
      let s1 := { s with hart := { s.hart with desc := (List.range 8).map d } }
      hold .registration (postTo (hPkg (d 2)) .request (.homeCwait (d 2) (d 3) (issuerOf s) .hart) s1)

def execColclr (a : RT) : State → Out :=
  let found (s : State) : Option Coll := findColl s (ownCluster s) s.sup.pid ((xval s a.rs1).setWidth 32)
  instr [noPrefix (.colclr a), checkSources [srcX a.rs1 false],
      fun s => if field (xval s a.rs1) 32 32 ≠ 0 then some (trap 30 (xval s a.rs1) s) else none,
      fun s => match found s with
        | some c =>
          if collBusy c then some (stall (setColl { c with clearing := true } (cancelRequest (collTo c) s))) else none
        | none => none]
    fun s => retire (match found s with | some c => clearColl c s | none => s)

end Sys2Proof.Machine
end

