-- ==== Sys2Proof/Machine/Csr.lean ====
section
/-!
DEFINITION. CSRs (R22, R42, R103 to R110, R137, R152, R175, R179, R345, R429 to R433) and the privileged instructions.
-/
namespace Sys2Proof.Machine

/-! ## Standard CSRs (R22, R56, R111; assumption 6) -/

/-- The causes that exist and can be delegated: 0 to 9, 12, 24 to 30. -/
def medelegMask : Word := 0x7F0013FF

/-- The interrupts that can be delegated (R56): 1, 9, 16 to 19. -/
def midelegMask : Word := 0xF0202

/-- The interrupts of R56. -/
def mieMask : Word := 0xF0A0A

/-- actdeleg's fields (R108). -/
def actdelegMask : Word := 0x7F0010FF

/-- The reserved bits of dfinfo (R106). -/
def dfinfoMask : Word := ~~~(0x0F000000 : Word)

/-- mstatus as it reads (R111). -/
def mstatusWord (st : MStatus) : Word :=
  flag st.sie 1 ||| flag st.mie 3 ||| flag st.spie 5 ||| flag st.mpie 7 ||| flag st.spp 8 ||| place (privCode st.mpp) 11
    ||| flag st.mprv 17 ||| flag st.tvm 20 ||| flag st.tw 21 ||| flag st.tsr 22 ||| place 2 32 ||| place 2 34

/-- sstatus as it reads. -/
def sstatusWord (st : MStatus) : Word := flag st.sie 1 ||| flag st.spie 5 ||| flag st.spp 8 ||| place 2 32

/-- MPP holds a legal mode: a write of 2 leaves it. -/
def mppOf (old : Priv) (n : Nat) : Priv :=
  if n = 0 then .user else if n = 1 then .supervisor else if n = 3 then .machine else old

def writeSstatus (v : Word) (st : MStatus) : MStatus := { st with sie := bit v 1, spie := bit v 5, spp := bit v 8 }

def writeMstatus (v : Word) (st : MStatus) : MStatus :=
  { writeSstatus v st with
    mie := bit v 3, mpie := bit v 7, mpp := mppOf st.mpp (field v 11 2), mprv := bit v 17, tvm := bit v 20
    tw := bit v 21, tsr := bit v 22 }

/-- A trap vector: modes 0 and 1. -/
def tvecOf (v : Word) : Word := v &&& ~~~(2 : Word)

/-- An exception pc: bits [1:0] are 0. -/
def epcOf (v : Word) : Word := v &&& ~~~(3 : Word)

/-- Replaces the bits of the mask. -/
def merge (mask old v : Word) : Word := (old &&& ~~~mask) ||| (v &&& mask)

/-- A write of mip from M-mode, or of sip from S-mode (R56): it acts on no source. A write of 1 does not set bit 11
(assumption 7). -/
def writePending (machine : Bool) (v : Word) (s : State) : State :=
  let mask := if machine then mieMask else midelegMask &&& s.mach.mideleg
  let v' := if bit s.mach.mip 11 then v else setBit v 11 false
  { s with mach := { s.mach with mip := merge mask s.mach.mip v' } }

/-- misa: RV64, A, I, M, S, U and non-standard extensions. -/
def misaWord : Word := place 2 62 ||| place 1 0 ||| place 1 8 ||| place 1 12 ||| place 1 18 ||| place 1 20 ||| place 1 23

/-! ## Values -/

/-- vfmt (R137). -/
def vfmtWord (u : UserCsrs) : Word := flag u.oft 7 ||| place u.rm.toNat 5 ||| place u.fmt.toNat 0

def writeVfmt (v : Word) (u : UserCsrs) : UserCsrs :=
  { u with oft := bit v 7, rm := v.extractLsb' 5 2, fmt := v.extractLsb' 0 5 }

/-- tbase (R179). -/
def tbaseWord (u : UserCsrs) : Word := place u.tcount.toNat 4 ||| place u.tbaseReg.toNat 0

def writeTbase (v : Word) (u : UserCsrs) : UserCsrs :=
  { u with tcount := v.extractLsb' 4 5, tbaseReg := v.extractLsb' 0 4 }

def pfxstWord (fv mv : Bool) : Word := flag mv 1 ||| flag fv 0

/-- KPEND: a held death waits for the context of the actor that actname names (R109, R476). -/
def killPending (s : State) : Bool :=
  s.act.name != 0 && ((liveActor s s.act.name).bind fun a => a.held).isSome

/-- jctl (R109). -/
def jctlWord (s : State) : Word :=
  flag (killPending s) 7 ||| flag s.sup.mdfrom 6 ||| flag s.sup.hangen 5 ||| flag s.sup.dheld 2 ||| flag s.sup.dfrom 1
    ||| flag s.sup.dspgo 0

/-- outreq (R105). -/
def outreqWord (s : State) : Word := place (drainCount s) 16 ||| place (slotsUsed s) 8 ||| place (opsUsed s) 0

/-- The log that mlogc selects (R431). -/
def selectedLog (s : State) : List LogRecord := if s.ras.mlogPkg then s.ras.packageLog else s.ras.clusterLog
def selectedOvf (s : State) : Bool := if s.ras.mlogPkg then s.ras.packageOvf else s.ras.clusterOvf

def mlogcWord (s : State) : Word := flag s.ras.mlogPkg 63 ||| flag (selectedOvf s) 62 ||| place (selectedLog s).length 0

/-- A level with a scrubber (R429). -/
def scrubbed (n : Nat) : Bool := n == 1 || n == 2 || n == 3 || n == 5

def levelAt (s : State) (n : Nat) : Level := s.ras.levels.getD n (Level.reset n)
def setLevel (n : Nat) (l : Level) (s : State) : State :=
  { s with ras := { s.ras with levels := s.ras.levels.setIfInBounds n l } }

def mscrubWord (l : Level) : Word :=
  flag l.ie 63 ||| flag l.tie 62 ||| place l.passes.toNat 32 ||| place l.period.toNat 0

def merrcntWord (l : Level) : Word := place l.lasting.toNat 48 ||| place l.transient.toNat 32 ||| place l.corrected.toNat 0

/-! ## Writes with effects -/

/-- pfxst (R40, R42): the words become pending, and the writing instruction counts as the first prefix word. -/
def writePfxst (v : Word) (s : State) : State :=
  { s with hart := { s.hart with pend := { s.hart.pend with
      fv := bit v 0, mv := bit v 1
      first := if bit v 0 || bit v 1 then s.hart.pc else s.hart.pend.first } } }

/-- DRN (R118): the failed store is retried by the drain. -/
def resumeDrain (s : State) : State := { s with sup := { s.sup with dheld := false } }

/-- DDROP (R118): the held stores are never performed. -/
def dropHeld (s : State) : State := if s.sup.dheld then discardStores s else s

/-- jctl (R109): DDROP before DRN. -/
def writeJctl (v : Word) (s : State) : State :=
  let s1 := { s with sup := { s.sup with hangen := bit v 5, dspgo := bit v 0 } }
  if bit v 4 then dropHeld s1 else if bit v 3 then resumeDrain s1 else s1

/-- sjob (R110). -/
def writeSjob (v : Word) (s : State) : State := { s with sup := { s.sup with pid := v.extractLsb' 0 16, reports := 0 } }

/-- hangst (R110): writing 1 clears HUNG. -/
def writeHangst (v : Word) (s : State) : State :=
  if bit v 0 then { s with sup := { s.sup with hung := false } } else s

/-- mlogc (R431): PKG first, then OVF on the log that it selects. -/
def writeMlogc (v : Word) (s : State) : State :=
  let pkg := bit v 63
  { s with ras := { s.ras with
      mlogPkg := pkg
      packageOvf := s.ras.packageOvf && (!pkg || bit v 62), clusterOvf := s.ras.clusterOvf && (pkg || bit v 62) } }

/-- mpkg (R433), while SET = 0. -/
def writeMpkg (v : Word) (s : State) : State :=
  if s.ras.pkgSet then s else { s with ras := { s.ras with pkg := v.extractLsb' 0 12, pkgSet := true } }

/-- mscrub (R429). -/
def writeMscrub (n : Nat) (v : Word) (s : State) : State :=
  let l := levelAt s n
  setLevel n { l with ie := bit v 63, tie := bit v 62, period := if scrubbed n then v.extractLsb' 0 32 else l.period } s

/-- merrcnt (R430). -/
def writeMerrcnt (n : Nat) (v : Word) (s : State) : State :=
  setLevel n { levelAt s n with
    lasting := v.extractLsb' 48 16, transient := v.extractLsb' 32 16, corrected := v.extractLsb' 0 32 } s

/-- A write of qres discards every entry (R192). -/
def discardResults (s : State) : State := { s with arr := { s.arr with results := [] } }

/-! ## The registers by number (R22, R103) -/

/-- One CSR: its number, what it reads and what a write does. -/
structure Csr where
  no : Nat
  read : State → Word
  write : Word → State → State

def ro (no : Nat) (read : State → Word) : Csr := { no := no, read := read, write := fun _ s => s }

def updUser (f : UserCsrs → UserCsrs) (s : State) : State := { s with user := f s.user }
def updSup (f : SupCsrs → SupCsrs) (s : State) : State := { s with sup := f s.sup }
def updMach (f : MachCsrs → MachCsrs) (s : State) : State := { s with mach := f s.mach }
def updHart (f : Hart → Hart) (s : State) : State := { s with hart := f s.hart }

/-- The physical register whose shape a CSR number names (R179). -/
def shapeNo (s : State) (n : Nat) : Nat := if s.hart.priv = .user then s.user.tbaseReg.toNat + n else n

def userCsrs : List Csr :=
  [⟨0x800, fun s => vfmtWord s.user, fun v => updUser (writeVfmt v)⟩,
   ⟨0x801, fun s => s.user.vflags.setWidth 64, fun v => updUser fun u => { u with vflags := v.extractLsb' 0 5 }⟩,
   ⟨0x804, fun s => s.hart.pend.f.setWidth 64, fun v =>
     updHart fun h => { h with pend := { h.pend with f := v.extractLsb' 0 32 } }⟩,
   ⟨0x805, fun s => s.hart.pend.m.setWidth 64, fun v =>
     updHart fun h => { h with pend := { h.pend with m := v.extractLsb' 0 32 } }⟩,
   ⟨0x806, fun s => pfxstWord s.hart.pend.fv s.hart.pend.mv, writePfxst⟩,
   ⟨0x808, fun s => s.hart.loop0.start, fun v =>
     updHart fun h => { h with loop0 := { h.loop0 with start := epcOf v } }⟩,
   ⟨0x809, fun s => s.hart.loop0.last, fun v =>
     updHart fun h => { h with loop0 := { h.loop0 with last := epcOf v } }⟩,
   ⟨0x80A, fun s => s.hart.loop0.count, fun v => updHart fun h => { h with loop0 := { h.loop0 with count := v } }⟩,
   ⟨0x80B, fun s => s.hart.loop1.start, fun v =>
     updHart fun h => { h with loop1 := { h.loop1 with start := epcOf v } }⟩,
   ⟨0x80C, fun s => s.hart.loop1.last, fun v =>
     updHart fun h => { h with loop1 := { h.loop1 with last := epcOf v } }⟩,
   ⟨0x80D, fun s => s.hart.loop1.count, fun v => updHart fun h => { h with loop1 := { h.loop1 with count := v } }⟩,
   ⟨0x820, fun s => s.user.aweight.setWidth 64, fun v => updUser fun u => { u with aweight := v.extractLsb' 0 4 }⟩,
   ⟨0x821, fun s => s.arr.results.headD 0, fun _ => discardResults⟩,
   ⟨0x822, fun s => tbaseWord s.user, fun v s => if s.hart.priv = .user then s else updUser (writeTbase v) s⟩,
   ro 0x83F fun s => (launchRead s).1,
   ⟨0x840, fun s => s.user.ctimeout.setWidth 64, fun v => updUser fun u => { u with ctimeout := v.extractLsb' 0 40 }⟩]

/-- tshape0 to tshape15 (R175, R179). -/
def shapeCsrs : List Csr :=
  (List.range 16).map fun n =>
    ⟨0x810 + n, fun s => (s.user.tshape.getD (shapeNo s n) 0).setWidth 64, fun v s =>
      updUser (fun u => { u with tshape := u.tshape.setIfInBounds (shapeNo s n) (v.extractLsb' 0 22) }) s⟩

/-- The copy engine's shadow set (R345). -/
def shadowCsrs : List Csr :=
  (List.range 12).map fun n =>
    ⟨0x830 + n, fun s => s.user.shadow.getD n 0, fun v =>
      updUser fun u => { u with shadow := u.shadow.setIfInBounds n v }⟩

/-- The identity and actor CSRs and outreq (R104, R105), and the counters of R22. -/
def readOnlyCsrs : List Csr :=
  [ro 0xCC0 fun s => s.coreid.setWidth 64, ro 0xCC1 fun s => s.ras.pkg.setWidth 64, ro 0xCC2 fun s => s.act.name,
   ro 0xCC3 fun s => s.act.typ.setWidth 64, ro 0xCC4 fun s => s.act.sbase.setWidth 64,
   ro 0xCC5 fun s => (s.act.slimit.extractLsb' 0 19).setWidth 64, ro 0xCC6 fun s => s.act.wbase.setWidth 64,
   ro 0xCC7 fun s => (s.act.wlimit.extractLsb' 0 19).setWidth 64, ro 0xCC8 fun s => s.act.clrbase.setWidth 64,
   ro 0xCC9 fun s => (s.act.clrlimit.extractLsb' 0 19).setWidth 64, ro 0xCCA outreqWord,
   ro 0xCCB fun s => s.sup.pid.setWidth 64, ro 0xCCC tslots,
   ro 0xC00 fun s => s.mach.mcycle, ro 0xC01 fun s => s.ctr.timeline, ro 0xC02 fun s => s.mach.minstret]

/-- The S-mode CSRs. The manual does not list senvcfg (0x10A): DESIGN CHOICE, it is implemented and reads 0 (assumption 6). -/
def supervisorCsrs : List Csr :=
  [⟨0x100, fun s => sstatusWord s.mach.status, fun v => updMach fun m => { m with status := writeSstatus v m.status }⟩,
   ⟨0x104, fun s => s.mach.mie &&& s.mach.mideleg, fun v =>
     updMach fun m => { m with mie := merge (mieMask &&& m.mideleg) m.mie v }⟩,
   ⟨0x105, fun s => s.sup.stvec, fun v => updSup fun c => { c with stvec := tvecOf v }⟩,
   ⟨0x106, fun s => s.sup.scounteren.setWidth 64, fun v => updSup fun c => { c with scounteren := v.extractLsb' 0 3 }⟩,
   ro 0x10A fun _ => 0,
   ⟨0x140, fun s => s.sup.sscratch, fun v => updSup fun c => { c with sscratch := v }⟩,
   ⟨0x141, fun s => s.sup.sepc, fun v => updSup fun c => { c with sepc := epcOf v }⟩,
   ⟨0x142, fun s => s.sup.scause, fun v => updSup fun c => { c with scause := v }⟩,
   ⟨0x143, fun s => s.sup.stval, fun v => updSup fun c => { c with stval := v }⟩,
   ⟨0x144, fun s => s.mach.mip &&& s.mach.mideleg, writePending false⟩,
   ⟨0x5C0, fun s => s.sup.actdeleg, fun v => updSup fun c => { c with actdeleg := v &&& actdelegMask }⟩,
   ⟨0x5C1, fun s => s.sup.dfpc, fun v => updSup fun c => { c with dfpc := v }⟩,
   ⟨0x5C2, fun s => s.sup.dfinfo, fun v => updSup fun c => { c with dfinfo := v &&& dfinfoMask }⟩,
   ⟨0x5C3, fun s => s.sup.spf.setWidth 64, fun v => updSup fun c => { c with spf := v.extractLsb' 0 32 }⟩,
   ⟨0x5C4, fun s => s.sup.spm.setWidth 64, fun v => updSup fun c => { c with spm := v.extractLsb' 0 32 }⟩,
   ⟨0x5C5, fun s => pfxstWord s.sup.spfv s.sup.spmv, fun v =>
     updSup fun c => { c with spfv := bit v 0, spmv := bit v 1 }⟩,
   ⟨0x5C8, jctlWord, writeJctl⟩,
   ⟨0x5C9, fun s => s.sup.sctxptr, fun v => updSup fun c => { c with sctxptr := v }⟩,
   ⟨0x5CA, fun s => place s.sup.reports.toNat 32 ||| flag s.sup.hung 0, writeHangst⟩,
   ⟨0x5CB, fun s => s.sup.hrem, fun v => updSup fun c => { c with hrem := v }⟩,
   ⟨0x5CC, fun s => s.sup.pid.setWidth 64, writeSjob⟩]

/-- The M-mode CSRs. The manual does not list menvcfg (0x30A), mcountinhibit (0x320) and mconfigptr (0xF15): DESIGN CHOICE,
they are implemented and read 0 (assumption 6). -/
def machineCsrs : List Csr :=
  [⟨0x300, fun s => mstatusWord s.mach.status, fun v => updMach fun m => { m with status := writeMstatus v m.status }⟩,
   ro 0x301 fun _ => misaWord,
   ⟨0x302, fun s => s.mach.medeleg, fun v => updMach fun m => { m with medeleg := v &&& medelegMask }⟩,
   ⟨0x303, fun s => s.mach.mideleg, fun v => updMach fun m => { m with mideleg := v &&& midelegMask }⟩,
   ⟨0x304, fun s => s.mach.mie, fun v => updMach fun m => { m with mie := v &&& mieMask }⟩,
   ⟨0x305, fun s => s.mach.mtvec, fun v => updMach fun m => { m with mtvec := tvecOf v }⟩,
   ⟨0x306, fun s => s.mach.mcounteren.setWidth 64, fun v =>
     updMach fun m => { m with mcounteren := v.extractLsb' 0 3 }⟩,
   ro 0x30A fun _ => 0, ro 0x320 fun _ => 0,
   ⟨0x340, fun s => s.mach.mscratch, fun v => updMach fun m => { m with mscratch := v }⟩,
   ⟨0x341, fun s => s.mach.mepc, fun v => updMach fun m => { m with mepc := epcOf v }⟩,
   ⟨0x342, fun s => s.mach.mcause, fun v => updMach fun m => { m with mcause := v }⟩,
   ⟨0x343, fun s => s.mach.mtval, fun v => updMach fun m => { m with mtval := v }⟩,
   ⟨0x344, fun s => s.mach.mip, writePending true⟩,
   ⟨0xB00, fun s => s.mach.mcycle, fun v => updMach fun m => { m with mcycle := v }⟩,
   ⟨0xB02, fun s => s.mach.minstret, fun v => updMach fun m => { m with minstret := v }⟩,
   ro 0xF11 fun _ => Config.vendorId, ro 0xF12 fun _ => Config.archId, ro 0xF13 fun _ => Config.impId,
   ro 0xF14 fun s => s.coreid.setWidth 64, ro 0xF15 fun _ => 0,
   ⟨0x7E0, mlogcWord, writeMlogc⟩, ro 0x7E1 (fun s => ((selectedLog s).head?.map fun r => r.word0).getD 0),
   ro 0x7E2 fun s => s.ras.mlog1,
   ⟨0x7E8, fun s => flag s.ras.pkgSet 63 ||| s.ras.pkg.setWidth 64, writeMpkg⟩]

/-- mscrub0 to mscrub7 (R429) and merrcnt0 to merrcnt7 (R430). -/
def levelCsrs : List Csr :=
  ((List.range 8).map fun n => ⟨0x7C0 + n, fun s => mscrubWord (levelAt s n), writeMscrub n⟩)
    ++ (List.range 8).map fun n => ⟨0x7D0 + n, fun s => merrcntWord (levelAt s n), writeMerrcnt n⟩

def allCsrs : List Csr :=
  userCsrs ++ shapeCsrs ++ shadowCsrs ++ readOnlyCsrs ++ supervisorCsrs ++ machineCsrs ++ levelCsrs

/-- The CSR of a number; any other number takes cause 2 (R103). -/
def csrOf (n : BitVec 12) : Option Csr := allCsrs.find? fun c => c.no == n.toNat

/-! ## Access checks (R22, R103, R179, R433) -/

/-- The lowest privilege of a number: its bits [9:8]. -/
def csrPriv (n : BitVec 12) : Nat := (n.extractLsb' 8 2).toNat

/-- mlog1 is read-only (R103), and so are the numbers with bits [11:10] = 11. A write to a read-only CSR takes cause 2 (R22).
DEDUCED for mlog1, whose access code RO also means that writes are ignored (R7; assumption 104). -/
def csrReadOnly (n : BitVec 12) : Bool := n.extractLsb' 10 2 == 3#2 || n == 0x7E2#12

/-- cycle, time and instret below M-mode (R22). -/
def counterEnabled (s : State) (n : BitVec 12) : Bool :=
  let k := (n - 0xC00#12).toNat
  match s.hart.priv with
  | .machine => true
  | .supervisor => s.mach.mcounteren.getLsbD k
  | .user => s.mach.mcounteren.getLsbD k && s.sup.scounteren.getLsbD k

def isUserCounter (n : BitVec 12) : Bool := n == 0xC00#12 || n == 0xC01#12 || n == 0xC02#12

def isShapeNo (n : BitVec 12) : Bool := decide (0x810 ≤ n.toNat) && decide (n.toNat ≤ 0x81F)

/-- Whether the access is allowed. -/
def csrAllowed (s : State) (n : BitVec 12) (writes : Bool) : Bool :=
  (csrOf n).isSome && decide (csrPriv n ≤ privCode s.hart.priv) && !(writes && csrReadOnly n)
    && (!isUserCounter n || counterEnabled s n)
    && (!isShapeNo n || decide (n.toNat - 0x810 < usableTiles s))
    && !(writes && n == 0x7E8#12 && s.ras.pkgSet)

/-! ## Reads and writes -/

/-- A read of mlog0 pops the oldest record and latches its word 1 (R431). -/
def popLog (s : State) : State :=
  match selectedLog s with
  | [] => s
  | r :: rest =>
    { s with ras := { s.ras with
        mlog1 := r.time
        packageLog := if s.ras.mlogPkg then rest else s.ras.packageLog
        clusterLog := if s.ras.mlogPkg then s.ras.clusterLog else rest } }

/-- What a read does besides returning the value. -/
def readEffect (n : BitVec 12) (s : State) : State :=
  if n = 0x821#12 then { s with arr := { s.arr with results := s.arr.results.tail } }
  else if n = 0x7E1#12 then popLog s
  else if n = 0x83F#12 then (launchRead s).2
  else s

def readCsr (s : State) (n : BitVec 12) : Word :=
  match csrOf n with
  | some c => c.read s
  | none => 0

def writeCsr (n : BitVec 12) (v : Word) (s : State) : State :=
  match csrOf n with
  | some c => c.write v s
  | none => s

/-! ## The instructions -/

inductive CsrOp where
  | write | set | clear
  deriving DecidableEq, Repr

def csrNew (op : CsrOp) (old v : Word) : Word :=
  match op with
  | .write => v
  | .set => old ||| v
  | .clear => old &&& ~~~v

/-- Zicsr: csrrw with rd = x0 does not read, csrrs and csrrc with rs1 = x0 or 0 do not write. -/
def csrReads (op : CsrOp) (a : CsrArgs) : Bool := op != .write || a.rd != 0
def csrWrites (op : CsrOp) (a : CsrArgs) : Bool := op == .write || a.src != 0

/-- Retirement of a CSR instruction: a prefix made pending and a count of retired instructions that it wrote stay. -/
def csrRetire (wrote : Bool) (n : BitVec 12) (s : State) : State :=
  let t := retire s
  { t with
    hart := { t.hart with pend := s.hart.pend }
    mach := { t.mach with minstret := if wrote && n == 0xB02#12 then s.mach.minstret else t.mach.minstret } }

/-- The effect of a CSR instruction with the operand value v. -/
def csrEffect (op : CsrOp) (a : CsrArgs) (v : Word) (s : State) : State :=
  let old := readCsr s a.csr
  let s1 := if csrReads op a then setX a.rd old (readEffect a.csr s) else s
  let s2 := if csrWrites op a then writeCsr a.csr (csrNew op old v) s1 else s1
  csrRetire (csrWrites op a) a.csr s2

def csrInstr (i : Instr) (op : CsrOp) (a : CsrArgs) (imm : Bool) : State → Out :=
  let srcs := if imm then [] else [srcX a.src false]
  let launch := csrReads op a && a.csr == 0x83F#12
  instr ([noPrefix i, stopIf (fun s => !csrAllowed s a.csr (csrWrites op a)) (trapIllegal i)]
      ++ (if launch then [checkHeld] else []) ++ [checkSources srcs]
      ++ (if launch then launchChecks (wordOf i) else [])
      ++ [stopIf (fun s => csrReads op a && a.csr == 0x821#12 && s.arr.results.isEmpty) stallCsr, checkDest (dstX a.rd)])
    fun s => csrEffect op a (if imm then a.src.setWidth 64 else xval s a.src) s

def execCsrrw (a : CsrArgs) : State → Out := csrInstr (.csrrw a) .write a false
def execCsrrs (a : CsrArgs) : State → Out := csrInstr (.csrrs a) .set a false
def execCsrrc (a : CsrArgs) : State → Out := csrInstr (.csrrc a) .clear a false
def execCsrrwi (a : CsrArgs) : State → Out := csrInstr (.csrrwi a) .write a true
def execCsrrsi (a : CsrArgs) : State → Out := csrInstr (.csrrsi a) .set a true
def execCsrrci (a : CsrArgs) : State → Out := csrInstr (.csrrci a) .clear a true

/-! ## The effects that have rows of their own -/

/-- QRES_READ: `csrrs rd, qres, x0` (R192). -/
def execQresRead (rd : RegIdx) (s : State) : Out :=
  csrInstr (.csrrs { rd := rd, src := 0, csr := 0x821 }) .set { rd := rd, src := 0, csr := 0x821 } false s

/-- MLOG0_READ: `csrrs rd, mlog0, x0` (R431). -/
def execMlog0Read (rd : RegIdx) (s : State) : Out :=
  csrInstr (.csrrs { rd := rd, src := 0, csr := 0x7E1 }) .set { rd := rd, src := 0, csr := 0x7E1 } false s

/-- QRES_WRITE (R192). -/
def execQresWrite (s : State) : Out := .next (discardResults s)

/-- PFXST_WRITE (R42). -/
def execPfxstWrite (v : Word) (s : State) : Out := .next (writePfxst v s)

/-- JCTL_DRN and JCTL_DDROP (R118). -/
def execJctlDrn (s : State) : Out := .next (resumeDrain s)
def execJctlDdrop (s : State) : Out := .next (dropHeld s)

/-- SJOB_WRITE and HANGST_CLEAR (R110). -/
def execSjobWrite (v : Word) (s : State) : Out := .next (writeSjob v s)
def execHangstClear (s : State) : Out := .next (writeHangst 1 s)

/-- INTERRUPT_PENDING_WRITE (R56). -/
def execInterruptPendingWrite (machine : Bool) (v : Word) (s : State) : Out := .next (writePending machine v s)

/-- MLOGC_WRITE (R431) and MPKG_WRITE (R433). -/
def execMlogcWrite (v : Word) (s : State) : Out := .next (writeMlogc v s)
def execMpkgWrite (v : Word) (s : State) : Out := .next (writeMpkg v s)

/-- CSR_WRITE (R103): a write to any register stores the value. -/
def execCsrWrite (csr : BitVec 12) (v : Word) (s : State) : Out := .next (writeCsr csr v s)

/-! ## Privileged instructions (R22, R100) -/

def checkPriv (i : Instr) (ok : State → Bool) : Check := stopIf (fun s => !ok s) (trapIllegal i)

def execMret : State → Out :=
  instr [noPrefix .mret, checkPriv .mret fun s => s.hart.priv == .machine] returnM

/-- sret is illegal in S-mode under mstatus.TSR. -/
def execSret : State → Out :=
  instr [noPrefix .sret, checkPriv .sret fun s => s.hart.priv == .machine ||
      (s.hart.priv == .supervisor && !s.mach.status.tsr)] returnS

/-- wfi waits without a bound until an interrupt is pending and enabled at any privilege; under mstatus.TW it is
illegal in S-mode. -/
def execWfi : State → Out :=
  instr [noPrefix .wfi, checkPriv .wfi fun s => s.hart.priv == .machine ||
      (s.hart.priv == .supervisor && !s.mach.status.tw)]
    fun s => if pendingEnabled s = 0 then hold .wfi s else retire s

/-- sfence.vma is illegal in every mode. -/
def execSfenceVma (rs1 rs2 : RegIdx) : State → Out :=
  instr [noPrefix (.sfenceVma rs1 rs2)] (trapIllegal (.sfenceVma rs1 rs2))

end Sys2Proof.Machine
end

