-- ==== Sys2Proof/Machine/Context.lean ====
section
/-!
DEFINITION. The save area, ctxsave and ctxload (R122 to R131).
-/
namespace Sys2Proof.Machine

/-! ## The operand and the area (R122, R126) -/

def areaBytes : Nat := 0x24000

/-- The operand: rs1, or sctxptr when rs1 is x0. -/
def ctxOperand (s : State) (rs1 : RegIdx) : Word := if rs1 = 0 then s.sup.sctxptr else xval s rs1

def ctxAddr (op : Word) : Nat := op.toNat / 4096 * 4096
def ctxTile (op : Word) : Bool := bit op 2
def ctxVec (op : Word) : Bool := bit op 1

def areaLocal (op : Word) : Bool := decide (ctxAddr op + areaBytes ≤ scratchBytes)

def areaOk (op : Word) : Bool :=
  field op 3 9 == 0 && !bit op 0
    && (areaLocal op || (decide (scratchBytes ≤ ctxAddr op) && decide (ctxAddr op + areaBytes ≤ 2 ^ 56)))

/-! ## Bytes of the area (R127, R129) -/

/-- Writes bytes of a TRANSLATED area page by page, past the strand buffer; the first failure. A page of a peer is written
within the step, as the instruction waits for it (assumption 87). -/
def writeTranslated : Nat → Nat → List Byte → State → State × Option (Detail × Nat)
  | 0, _, _, s => (s, none)
  | fuel + 1, va, data, s =>
    if data.isEmpty then (s, none)
    else
      let n := 4096 - va % 4096
      let here : State × Option (Detail × Nat) :=
        match translate s (stationOf (ownCore s)) s.sup.pid (place va 0) .store with
        | (s1, .error (d, pkg)) => (s1, some (d, pkg.toNat))
        | (s1, .ok x) =>
          match homeAnswers s1 x with
          | some d => (s1, some (d, x.pkg))
          | none =>
            let b := data.take n
            (writeKey s1 x.key b,
              if inDeadChannel s1 x.key b.length then some (dMemoryUncorrectable, x.pkg) else none)
      let rest := writeTranslated fuel (va + n) (data.drop n) here.1
      (rest.1, here.2.orElse fun _ => rest.2)

/-- Writes bytes at an offset of the area. -/
def areaWrite (op : Word) (off : Nat) (data : List Byte) (s : State) : State × Option (Detail × Nat) :=
  if areaLocal op then (writeKey s (localKey s (ctxAddr op + off)) data, none)
  else writeTranslated (data.length / 4096 + 2) (ctxAddr op + off) data s

/-- Reads bytes of a TRANSLATED area page by page. -/
def readTranslated : Nat → Nat → Nat → State → State × Except (Detail × Nat) (List Byte)
  | 0, _, _, s => (s, .ok [])
  | fuel + 1, va, len, s =>
    if len = 0 then (s, .ok [])
    else
      let n := min len (4096 - va % 4096)
      match translate s (stationOf (ownCore s)) s.sup.pid (place va 0) .load with
      | (s1, .error (d, pkg)) => (s1, .error (d, pkg.toNat))
      | (s1, .ok x) =>
        match homeAnswers s1 x with
        | some d => (s1, .error (d, x.pkg))
        | none =>
          if poisoned s1 x.key n then (s1, .error (dMemoryUncorrectable, x.pkg))
          else
            let r := readTranslated fuel (va + n) (len - n) s1
            (r.1, r.2.map fun b => readKey s1 x.key n ++ b)

/-- Reads bytes at an offset of the area. -/
def areaRead (op : Word) (off len : Nat) (s : State) : State × Except (Detail × Nat) (List Byte) :=
  if areaLocal op then
    let key := localKey s (ctxAddr op + off)
    (s, if poisoned s key len then .error (dMemoryUncorrectable, s.ras.pkg.toNat) else .ok (readKey s key len))
  else readTranslated (len / 4096 + 2) (ctxAddr op + off) len s

/-! ## Quiescing (R126) -/

/-- The hart waits for its bounded producers, then for the executing Array command where TILE is named, then for the
drain queue. The queue starts no other command meanwhile. -/
def checkQuiet (op : State → Word) : Check := fun s =>
  let tile := ctxTile (op s)
  if boundedOutstanding s || (tile && s.arr.running.isSome) || !(s.off.drain.isEmpty || s.sup.dheld) then
    some (stall { s with arr := { s.arr with stop := tile } })
  else none

/-- A wait to be reissued: its register, kind, handle or count, threshold and deadline, and its producer's PC. -/
structure Reissue where
  reg : Nat
  kind : Nat
  handle : Word
  threshold : Word
  deadline : Word
  pc : Word
  deriving DecidableEq, Repr

def destReg : Dest → Nat
  | .x n => n
  | .nothing | .v _ _ | .m _ _ => 0

/-- The waits that are withdrawn or detached, in order of issue. -/
def reissues (tile : Bool) (s : State) : List Reissue :=
  s.off.jobs.filterMap fun j => j.wait.map fun w =>
    { reg := destReg j.dest, kind := if w.kind = 3 ∧ !tile then 4 else w.kind, handle := w.handle, threshold := w.threshold
      deadline := w.deadline, pc := j.pc }

/-- A held store as records hold it: address, PC, dfinfo and contiguous bytes. -/
structure HeldStore where
  addr : Word
  pc : Word
  info : Word
  data : List Byte
  deriving DecidableEq, Repr

/-- Records of held stores that an area has room for. -/
def heldRoom : Nat := 16

/-- The held entries, a record for each contiguous run, at most 16 (assumption 19). -/
def heldStores (s : State) : List HeldStore :=
  let entries := (drainStores s).filter fun e => !e.lost
  let head := ((drainStores s).head?.map fun e => e.id).getD 0
  let runs := entries.flatMap fun e => (runsOf e.bytes).map fun r => (e, r)
  let record (x : StoreEntry × Nat × List Byte) : HeldStore :=
    { addr := x.1.addr + place x.2.1 0, pc := x.1.pc, info := if x.1.id = head then s.off.heldInfo else 0, data := x.2.2 }
  (runs.map record).take heldRoom

/-- What of the queue no record holds, each item with the number of records in front of it: releases, a `trapx`, runs that
find no room, and an entry that could not be read (R117, assumptions 19 and 44). -/
def unrecorded : Nat → List DrainItem → List (Nat × DrainItem)
  | _, [] => []
  | n, .store e :: rest =>
    let runs := runsOf e.bytes
    if e.lost then (n, .store e) :: unrecorded n rest
    else if n + runs.length ≤ heldRoom then unrecorded (n + runs.length) rest
    else
      let kept := (runs.take (heldRoom - n)).foldl (fun t r => t + r.2.length) 0
      (heldRoom, .store { e with bytes := e.bytes.drop kept }) :: unrecorded heldRoom rest
  | n, .release id es :: rest => (n, .release id es) :: unrecorded n rest
  | n, .trapx id name on :: rest => (n, .trapx id name on) :: unrecorded n rest
  | n, .atomic id e :: rest => (n, .atomic id e) :: unrecorded n rest
  | n, .sent id es :: rest => (n, .sent id es) :: unrecorded n rest

/-- What a save takes away from the hart. -/
structure Quiet where
  waits : List Reissue
  cmds : List ArrayCmd
  results : List Word
  lanes : Nat
  held : List HeldStore
  dheld : Bool
  deriving DecidableEq, Repr

/-- The lane groups leased: of a lease that holds or has held them, or that a `ctxload` requested (R182). -/
def lanesLeased (s : State) : Nat :=
  let l := leaseOf s (ownMember s)
  match l.st with
  | .none => 0
  | .requested => if s.arr.job.isNone then l.count else 0
  | .held | .yielded => l.count

/-- What a save takes: as many commands and results as the area has room for (R125). -/
def quietOf (tile : Bool) (s : State) : Quiet :=
  { waits := reissues tile s, cmds := if tile then s.arr.queue.take 8 else []
    results := if tile then s.arr.results.take 16 else []
    lanes := lanesLeased s, held := if s.sup.dheld then heldStores s else [], dheld := s.sup.dheld }

/-- The hart after it: withdrawn registers hold 0, the Array's commands, results and lease are gone where TILE is named,
and no store is held (R126). A lease request that is left pending counts no operation and no slot any more (assumption 89).
-/
def afterQuiet (tile : Bool) (q : Quiet) (s : State) : State :=
  let s1 := withdrawWaits s
  let s2 := q.waits.foldl (fun t w => writeX w.reg 0 t) s1
  let s3 : State :=
    { s2 with
      arr := { s2.arr with job := none, stop := false }
      sup := { s2.sup with dheld := false }
      off := { s2.off with drain := s2.off.drain.filter fun
        | .store _ => false
        | .release _ _ | .trapx _ _ _ | .atomic _ _ | .sent _ _ => true }
      hart := { s2.hart with x0 := s2.hart.x0.filter fun w => w.failed.isSome } }
  if tile then
    let s4 := q.cmds.foldl (fun t c => c.dest.foldl (fun u n => setRegState (.m n) .full u) t) s3
    releaseLease { s4 with arr := { s4.arr with queue := [], results := [] } }
  else s3

/-! ## The image (R123 to R125) -/

def wordsBytes (ws : List Word) : List Byte := ws.flatMap (wordToBytes 8)

def flagsWord (q : Quiet) : Word :=
  place q.lanes 0 ||| flag q.dheld 4 ||| place q.held.length 5 ||| place q.cmds.length 10 ||| place q.results.length 14
    ||| place q.waits.length 19

/-- 0x000 to 0x067: the always-saved words before those of the TILE part. -/
def headerFirst (op : Word) (q : Quiet) (s : State) : List Word :=
  [place 1 0 ||| place s.sup.pid.toNat 16 ||| place 1 32 ||| flag (ctxVec op) 33 ||| flag (ctxTile op) 34, flagsWord q,
   vfmtWord s.user, s.user.vflags.setWidth 64, s.sup.spf.setWidth 64, s.sup.spm.setWidth 64,
   pfxstWord s.sup.spfv s.sup.spmv, s.hart.loop0.start, s.hart.loop0.last, s.hart.loop0.count, s.hart.loop1.start,
   s.hart.loop1.last, s.hart.loop1.count]

/-- 0x068 to 0x0FF: aweight, tbase, ctimeout and the shapes. -/
def headerTile (s : State) : List Word :=
  [s.user.aweight.setWidth 64, tbaseWord s.user, s.user.ctimeout.setWidth 64]
    ++ s.user.tshape.toList.map fun h => h.setWidth 64

/-- 0x100 to 0x1FF: the shadow set, the actor CSRs, hrem and DISP. -/
def headerLast (s : State) : List Word :=
  s.user.shadow.toList
    ++ [s.act.name, s.act.typ.setWidth 64, s.act.sbase.setWidth 64, s.act.slimit.setWidth 64, s.act.wbase.setWidth 64,
        s.act.wlimit.setWidth 64, s.act.clrbase.setWidth 64, s.act.clrlimit.setWidth 64, tslots s,
        s.sup.pid.setWidth 64, s.sup.hrem, flag s.sup.dfrom 0]
    ++ List.replicate 8 0

/-- The code of a register that is not EMPTY. -/
def faultCode : RegState → Nat
  | .faulted _ _ => 2
  | .full | .empty _ => 0

/-- State codes of all 80 registers with their producer records: a producer with destination x0 counts as index 0. -/
def stateRecords (q : Quiet) (s : State) : List (Nat × Word × Word) :=
  (List.range 80).map fun n =>
    match q.waits.find? fun w => n < 32 && w.reg == n with
    | some w => (1, w.pc, 0)
    | none =>
      if n = 0 then
        match s.hart.x0.find? fun w => w.failed.isSome with
        | some w => (2, w.pc, w.failed.getD 0)
        | none => (0, 0, 0)
      else
        let r : RegName := if n < 32 then .x n else if n < 64 then .v (n - 32) else .m (n - 64)
        match q.cmds.find? fun c => 64 ≤ n && c.dest.contains (n - 64) with
        | some c => (1, (match regState s r with | .empty pc => pc | .full | .faulted _ _ => c.pc), 0)
        | none =>
          match regState s r with
          | .faulted pc info => (2, pc, info)
          | .full | .empty _ => (0, 0, 0)

/-- Four codes in a byte, lowest index first. -/
def packCodes : List Nat → List Byte
  | a :: b :: c :: d :: rest => BitVec.ofNat 8 (a + 4 * b + 16 * c + 64 * d) :: packCodes rest
  | _ => []

/-- The x values: 0 for a register that is not FULL. -/
def xWords (s : State) : List Word :=
  (List.range 32).map fun n => match (getX s n).st with | .full => (getX s n).val | .empty _ | .faulted _ _ => 0

def reissueBytes (w : Reissue) : List Byte :=
  wordsBytes [place w.reg 0 ||| place w.kind 8, w.handle, w.threshold, w.deadline]

def heldBytes (h : HeldStore) : List Byte :=
  padTo 128 (wordsBytes [h.addr, h.pc, place h.data.length 0, h.info] ++ h.data)

/-- A command: its word with physical tile numbers and the d field as written, and its FMT word. -/
def cmdBytes (c : ArrayCmd) : List Byte :=
  let keep := c.word &&& ~~~(0x1FF8F80 : IWord)
  let w : IWord := keep ||| BitVec.ofNat 32 (c.d <<< 7) ||| BitVec.ofNat 32 (c.a <<< 15) ||| BitVec.ofNat 32 (c.b <<< 20)
  wordsBytes [w.setWidth 64 ||| place c.dField 32,
    match c.fmtWord with | some f => f.setWidth 64 ||| place 1 32 | none => 0]

/-- The contents of a v or tile register: the manual leaves open what is written for one that is FAULTED. -/
def savedBytes (free n : Nat) (st : RegState) (v : Nat) : List Byte :=
  match st with
  | .faulted _ _ => (List.range (n / 8)).flatMap fun i => wordToBytes 8 (Config.freeWord (free + i))
  | .full | .empty _ => bytesOf n v

def vecBytes (s : State) : List Byte :=
  (List.range 32).flatMap fun n => savedBytes (s.sched.free + 8 * n) 64 (getV s n).st (getV s n).val.toNat

def tileBytes (s : State) : List Byte :=
  (List.range 16).flatMap fun n => savedBytes (s.sched.free + 256 + 1024 * n) 8192 (getM s n).st (getM s n).val.toNat

/-- The pieces of the image that are written: offset and bytes. -/
def imageOf (op : Word) (q : Quiet) (s : State) : List (Nat × List Byte) :=
  let recs := stateRecords q s
  let always := [(0, wordsBytes (headerFirst op q s)), (0x100, wordsBytes (headerLast s) ++ wordsBytes (xWords s)),
    (0x300, padTo 64 (packCodes (recs.map (·.1)))), (0x340, recs.flatMap fun r => wordsBytes [r.2.1, r.2.2]),
    (0x840, padTo 2048 ((q.waits.take 64).flatMap reissueBytes)), (0x1040, padTo 2048 (q.held.flatMap heldBytes)),
    (0x19C0, List.replicate 0x640 (0 : Byte)), (0x2800, List.replicate 0x1800 (0 : Byte))]
  let tile := [(0x68, wordsBytes (headerTile s)), (0x1840, padTo 128 (q.cmds.flatMap cmdBytes)),
    (0x18C0, padTo 256 (q.results.flatMap fun w => wordsBytes [w, 0])), (0x4000, tileBytes s)]
  always ++ (if ctxVec op then [(0x2000, vecBytes s)] else []) ++ (if ctxTile op then tile else [])

/-! ## ctxsave (R126, R127, R129) -/

/-- Writes every piece; the first failure. -/
def writeImage (op : Word) : List (Nat × List Byte) → State → State × Option (Detail × Nat)
  | [], s => (s, none)
  | (off, b) :: rest, s =>
    let here := areaWrite op off b s
    let more := writeImage op rest here.1
    (more.1, here.2.orElse fun _ => more.2)

/-- The checks that both instructions make before anything else. -/
def ctxChecks (i : Instr) (rs1 : RegIdx) (cause : Nat) : List Check :=
  [noPrefix i, checkS i, checkSources [srcX rs1 false],
   stopIf (fun s => !areaOk (ctxOperand s rs1)) (fun s => trap cause (ctxOperand s rs1) s),
   checkQuiet fun s => ctxOperand s rs1]

/-- `ctxsave` sets aside what no record holds: it takes effect once the held stores are resumed (R117, R221). -/
def parkRest (s : State) : State :=
  let rest := (unrecorded 0 s.off.drain).map fun x => { actor := s.act.name, before := x.1, item := x.2 : Parked }
  { s with off := { s.off with drain := drainStores s |>.map .store, parked := s.off.parked ++ rest } }

/-- The run's count of `mmaq` commands is kept with the actor while its context is SAVED (R192). -/
def keepSeq (s : State) : State :=
  if isLive s s.act.name then updateActor (actorIx s s.act.name) (fun a => { a with seq := s.arr.seq }) s else s

def saveContext (op : Word) (s : State) : State :=
  let q := quietOf (ctxTile op) s
  let w := writeImage op (imageOf op q s) s
  let s1 := { w.1 with sched := { w.1.sched with free := w.1.sched.free + 0x4100 } }
  let s2 := invalidateStrand (afterQuiet (ctxTile op) q (parkRest (keepSeq s1)))
  match w.2 with
  | some (d, pkg) =>
    trap 7 (place (ctxAddr op) 0) { s2 with sup := { s2.sup with dfinfo := dfinfoWord pkg 0 0 1 d } }
  | none => retire { s2 with hart := { s2.hart with saved := true } }

def execCtxsave (a : RT) : State → Out :=
  instr (ctxChecks (.ctxsave a) a.rs1 7) fun s => saveContext (ctxOperand s a.rs1) s

/-! ## ctxload (R130) -/

/-- A word of an image by its offset. -/
def imageWord (img : List Byte) (off : Nat) : Word := bytesToWord ((img.drop off).take 8)

/-- Limits of FLAGS. -/
def imageOk (img : List Byte) : Bool :=
  let f := imageWord img 8
  field (imageWord img 0) 0 16 == 1 && decide (field f 5 5 ≤ 16) && decide (field f 10 4 ≤ 8) && decide (field f 14 5 ≤ 16)
    && decide (field f 19 7 ≤ 64) && (field f 0 4 == 0 || field f 0 4 == 1 || field f 0 4 == 2 || field f 0 4 == 4)

/-- The words before the TILE part's, those after it, and the TILE part's. -/
def loadFirst (img : List Byte) (s : State) : State :=
  let w (n : Nat) : Word := imageWord img n
  let csr (no off : Nat) (t : State) : State := writeCsr (BitVec.ofNat 12 no) (w off) t
  let s1 := [(0x800, 0x10), (0x801, 0x18), (0x5C3, 0x20), (0x5C4, 0x28), (0x5C5, 0x30), (0x808, 0x38), (0x809, 0x40),
    (0x80A, 0x48), (0x80B, 0x50), (0x80C, 0x58), (0x80D, 0x60)].foldl (fun t (no, off) => csr no off t) s
  let s2 := (List.range 12).foldl (fun t n => csr (0x830 + n) (0x100 + 8 * n) t) s1
  let act : ActCsrs :=
    { name := w 0x160, typ := (w 0x168).setWidth 8, sbase := (w 0x170).setWidth 19, slimit := (w 0x178).setWidth 20
      wbase := (w 0x180).setWidth 19, wlimit := (w 0x188).setWidth 20, clrbase := (w 0x190).setWidth 19
      clrlimit := (w 0x198).setWidth 20, tslots := 0 }
  { s2 with
    act := { act with tslots := if isLive s2 act.name then 0 else w 0x1A0 }
    sup := { s2.sup with hrem := w 0x1B0, dspgo := bit (w 0x1B8) 0, spfirst := none }
    arr := { s2.arr with seq := if isLive s2 act.name then (actorAt s2 (actorIx s2 act.name)).seq else 0 } }

def loadTile (img : List Byte) (s : State) : State :=
  { s with user := { s.user with
      aweight := (imageWord img 0x68).setWidth 4, tcount := (imageWord img 0x70).extractLsb' 4 5
      tbaseReg := (imageWord img 0x70).setWidth 4, ctimeout := (imageWord img 0x78).setWidth 40
      tshape := Vector.ofFn fun n => (imageWord img (0x80 + 8 * n.val)).setWidth 22 } }

/-- The code of a register in the state map. -/
def codeOf (img : List Byte) (n : Nat) : Nat := (natOf ((img.drop (0x300 + n / 4)).take 1) >>> (2 * (n % 4))) % 4

def recordOf (img : List Byte) (n : Nat) : Word × Word := (imageWord img (0x340 + 16 * n), imageWord img (0x348 + 16 * n))

def formatInfo (s : State) : Word := dfinfoWord s.ras.pkg.toNat 0 0 12 dContextFormat
def readInfo (s : State) : Word := dfinfoWord s.ras.pkg.toNat 0 0 12 dContextRead

/-- A register FAULTED by this ctxload. -/
def badFormat (s : State) : RegState := .faulted s.hart.pc (formatInfo s)

/-- The first reissue record of an x register. -/
def reissueOf (img : List Byte) (n : Nat) : Option Reissue :=
  (List.range (field (imageWord img 8) 19 7)).findSome? fun k =>
    let w (i : Nat) : Word := imageWord img (0x840 + 32 * k + 8 * i)
    if field (w 0) 0 7 = n then
      some { reg := n, kind := field (w 0) 8 8, handle := w 1, threshold := w 2, deadline := w 3, pc := (recordOf img n).1 }
    else none

/-- The job of a reissued wait. -/
def reissueJob (w : Reissue) (cls : BitVec 8) (kind : Nat) (s : State) : Job :=
  { simpleJob s (.x w.reg) cls false with
    pc := w.pc, wait := some { kind := kind, handle := w.handle, threshold := w.threshold, deadline := w.deadline } }

/-- The job starts; a wait with destination x0 is at the return address. -/
def startReissue (j : Job) (s : State) : State :=
  let s1 := startJob j 0 s
  { s1 with hart := { s1.hart with
      x0 := s1.hart.x0.map fun w => if w.job = j.id then { w with atReturn := true } else w } }

/-- A cwait or cwaitt is a new request; a deadline that has passed ends it as a timeout. -/
def reissueWait (w : Reissue) (s : State) : State :=
  let j := reissueJob w 3 w.kind s
  let s1 := startReissue j s
  let s2 := sendEffect
    { pkg := hPkg w.handle, ch := .request, ev := .homeCwait w.handle w.threshold (issuerOf s) (.job j.id 0) } s1
  if w.kind = 2 ∧ w.deadline.toNat ≤ s2.ctr.timeline.toNat then post (.cwaittDeadline j.id) s2 else s2

/-- An x register becomes FAULTED; for x0 the failed producer is waited for at the return address (R48, R130). -/
def faultX (n : Nat) (pc info : Word) (s : State) : State :=
  if n = 0 then
    { s with hart := { s.hart with
        x0 := s.hart.x0 ++ [{ job := 0, pc := pc, next := 0, atReturn := true, failed := some info }] } }
  else setRegState (.x n) (.faulted pc info) s

/-- A register whose record cannot be honoured. -/
def refuseReissue (w : Reissue) (s : State) : State := faultX w.reg s.hart.pc (formatInfo s) s

/-- Reissue by the record's kind (R130). A record of kind 3 on a core that has a lease is refused (assumption 90). -/
def reissue (img : List Byte) (w : Reissue) (s : State) : State :=
  let l := leaseOf s (ownMember s)
  if w.kind = 1 ∨ w.kind = 2 then reissueWait w s
  else if w.kind = 3 then
    if field (imageWord img 8) 0 4 = 0 ∧ l.st = .none ∧ countOk w.handle then
      let j := reissueJob w 7 3 s
      requestLease w.handle.toNat (some j.id) (startReissue j s)
    else refuseReissue w s
  else if w.kind = 4 ∧ !bit (imageWord img 0) 34 ∧ l.count = w.handle.toNat then
    match l.st with
    | .held | .yielded => writeX w.reg (place l.count 4 ||| place l.first.toNat 0) s
    | .requested =>
      if s.arr.job.isNone then
        let j := reissueJob w 7 3 s
        startReissue j { s with arr := { s.arr with job := some j.id } }
      else refuseReissue w s
    | .none => refuseReissue w s
  else refuseReissue w s

/-- The records in order, each for its register. -/
def reissueAll (img : List Byte) (s : State) : State :=
  (List.range (field (imageWord img 8) 19 7)).foldl (fun t k =>
    let n := field (imageWord img (0x840 + 32 * k)) 0 7
    let earlier := (List.range k).any fun j => field (imageWord img (0x840 + 32 * j)) 0 7 == n
    if n < 32 ∧ codeOf img n = 1 ∧ !earlier then
      match reissueOf img n with
      | some w => reissue img w t
      | none => t
    else t) s

/-- The x registers: FULL, FAULTED, or as their records say. -/
def loadX (img : List Byte) (s : State) : State :=
  let s1 := (List.range 32).foldl (fun t n =>
    match codeOf img n with
    | 0 => writeX n (imageWord img (0x200 + 8 * n)) t
    | 2 => faultX n (recordOf img n).1 (recordOf img n).2 t
    | 1 => if (reissueOf img n).isSome then t else faultX n t.hart.pc (formatInfo t) t
    | _ => faultX n t.hart.pc (formatInfo t) t) { s with hart := { s.hart with x0 := [] } }
  reissueAll img s1

/-- One v or tile register with what could be read of it; a v register with code 01 is FAULTED with CONTEXT_FORMAT
(assumption 88). -/
def loadReg (img : List Byte) (n : Nat) (r : RegName) (put : Nat → State → State) (named : Option Word)
    (data : Option (List Byte)) (s : State) : State :=
  match codeOf img n, data, named with
  | 1, some b, some pc => setRegState r (.empty pc) (put (natOf b) s)
  | 1, none, some pc => setRegState r (.empty pc) s
  | _, none, _ => setRegState r (.faulted s.hart.pc (readInfo s)) s
  | 0, some b, _ => put (natOf b) s
  | 2, some _, _ => setRegState r (.faulted (recordOf img n).1 (recordOf img n).2) s
  | _, some _, _ => setRegState r (badFormat s) s

/-- Bytes of a register of the area, or none where they cannot be read. -/
def areaReg (op : Word) (off len : Nat) (s : State) : Option (List Byte) × State :=
  match areaRead op off len s with
  | (t, .ok b) => (some b, t)
  | (t, .error _) => (none, t)

def loadV (op : Word) (img : List Byte) (s : State) : State :=
  (List.range 32).foldl (fun t n =>
    let r := areaReg op (0x2000 + 64 * n) 64 t
    loadReg img (32 + n) (.v n) (fun v => writeV n (BitVec.ofNat 512 v)) none r.1 r.2) s

/-- The instruction of a saved command, with its kind. -/
def savedMat (w : IWord) : Option (MatKind × VT) :=
  match decode w with
  | .ok (.mma a) => some (.mma, a)
  | .ok (.mmz a) => some (.mmz, a)
  | .ok (.mmaq a) => some (.mmaq, a)
  | _ => none

/-- Saved command k, rebuilt from its word with the restored shapes; its PC is that of its destination's record. -/
def savedCmd (img : List Byte) (k : Nat) (s : State) : Option ArrayCmd :=
  let w0 := imageWord img (0x1840 + 16 * k)
  let w1 := imageWord img (0x1848 + 16 * k)
  (savedMat (w0.setWidth 32)).map fun (kind, a) =>
    let pend : Pending := { f := w1.setWidth 32, m := 0, fv := bit w1 32, mv := false, first := 0 }
    let t : State := { s with hart := { s.hart with pend := pend, pc := (recordOf img (64 + a.d.toNat)).1 } }
    { matCommand kind (w0.setWidth 32) a t with dField := field w0 32 4 }

/-- The saved commands; each `mmaq` keeps its place in the run's count. A word that is no matrix command is dropped
(assumption 91). -/
def savedCmds (img : List Byte) (s : State) : List ArrayCmd :=
  let cs := (List.range (field (imageWord img 8) 10 4)).filterMap fun k => savedCmd img k s
  let quiet := (cs.filter fun c => c.kind == .mmaq).length
  (numbered cs).map fun x =>
    { x.2 with seq := (s.arr.seq - quiet + ((cs.take x.1).filter fun c => c.kind == .mmaq).length) % 256 }

/-- The tile registers, and the commands marked whose tiles could not be read. -/
def loadM (op : Word) (img : List Byte) (cmds : List ArrayCmd) (s : State) : List ArrayCmd × State :=
  (List.range 16).foldl (fun (cs, t) n =>
    let r := areaReg op (0x4000 + 8192 * n) 8192 t
    let named := (cmds.find? fun c => c.dest.contains n).map fun _ => (recordOf img (64 + n)).1
    let t1 := loadReg img (64 + n) (.m n) (fun v => writeM n (BitVec.ofNat 65536 v)) named r.1 r.2
    let lost := r.1.isNone
    (cs.map fun c => if lost && (c.dest.contains n || c.sources.contains n) then
        { c with doom := some (t1.hart.pc, readInfo t1) } else c, t1)) (cmds, s)

/-- Where TILE is loaded: the lease is requested again, the commands queued behind it, the results restored. -/
def loadArray (img : List Byte) (cmds : List ArrayCmd) (s : State) : State :=
  let f := imageWord img 8
  let results := (List.range (field f 14 5)).map fun k => imageWord img (0x18C0 + 16 * k)
  let s1 : State := { s with arr := { s.arr with queue := cmds, results := results } }
  if field f 0 4 = 0 then s1 else requestLease (field f 0 4) none s1

/-- An item of the drain queue under a new number. -/
def renumber (id : Nat) : DrainItem → DrainItem
  | .store e => .store { e with id := id }
  | .release _ es => .release id es
  | .trapx _ name on => .trapx id name on
  | .atomic _ e => .atomic id e
  | .sent _ es => .sent id es

/-- Items join the drain queue, each under the next number. -/
def joinDrain (items : List DrainItem) (s : State) : State :=
  items.foldl (fun t i =>
    { t with off := { t.off with nextId := t.off.nextId + 1, drain := t.off.drain ++ [renumber t.off.nextId i] } }) s

/-- The store of held record k. -/
def heldItem (img : List Byte) (pid : Pid) (k : Nat) : DrainItem :=
  let base := 0x1040 + 128 * k
  let w (i : Nat) : Word := imageWord img (base + 8 * i)
  .store { id := 0, addr := w 0, scratch := isLocal (w 0), pc := w 1, elem := field (w 3) 28 12, pid := pid
           bytes := numbered ((img.drop (base + 32)).take (min 64 (field (w 2) 0 7))), out := none, landed := false
           lost := false }

/-- The held stores come back in order, with what was set aside behind them; the drain goes on with the head. -/
def loadHeld (img : List Byte) (s : State) : State :=
  let n := field (imageWord img 8) 5 5
  let mine := s.off.parked.filter fun p => p.actor == s.act.name
  let at_ (k : Nat) : List DrainItem := (mine.filter fun p => p.before == k).map fun p => p.item
  let items := ((List.range n).flatMap fun k => at_ k ++ [heldItem img s.sup.pid k])
    ++ (mine.filter fun p => decide (n ≤ p.before)).map fun p => p.item
  joinDrain items { s with off := { s.off with parked := s.off.parked.filter fun p => p.actor != s.act.name } }

/-- A failed ctxload: LOAD_ACCESS_FAULT with the reason in dfinfo. -/
def failLoad (op : Word) (d : Detail) (pkg : Nat) (s : State) : State :=
  trap 5 op { s with sup := { s.sup with dfinfo := dfinfoWord pkg 0 0 12 d } }

/-- The fixed part of the image: the header to the held stores, and with TILE the commands and results. -/
def readFixed (op : Word) (s : State) : State × Except (Detail × Nat) (List Byte) :=
  match areaRead op 0 0x1840 s with
  | (s1, .error e) => (s1, .error e)
  | (s1, .ok b) =>
    if ctxTile op && bit (imageWord b 0) 34 then
      let r := areaRead op 0x1840 0x180 s1
      (r.1, r.2.map fun c => b ++ c)
    else (s1, .ok b)

/-- The context is replaced. -/
def replaceContext (op : Word) (img : List Byte) (s : State) : State :=
  let vec := ctxVec op && bit (imageWord img 0) 33
  let tile := ctxTile op && bit (imageWord img 0) 34
  let s1 := loadFirst img s
  let s2 := if tile then loadTile img s1 else s1
  let s3 := loadX img s2
  let s4 := if vec then loadV op img s3 else s3
  let s5 :=
    if tile then
      let r := loadM op img (savedCmds img s4) s4
      loadArray img r.1 r.2
    else s4
  let s6 := loadHeld img s5
  invalidateStrand { s6 with hart := { s6.hart with saved := false } }

def loadContext (op : Word) (s0 : State) : State :=
  let s := afterQuiet (ctxTile op) (quietOf (ctxTile op) s0) s0
  match readFixed op s with
  | (s1, .error (d, pkg)) => failLoad op d pkg s1
  | (s1, .ok img) =>
    if imageOk img then retire (replaceContext op img s1) else failLoad op dContextFormat s1.ras.pkg.toNat s1

def execCtxload (a : RT) : State → Out :=
  instr (ctxChecks (.ctxload a) a.rs1 5) fun s => loadContext (ctxOperand s a.rs1) s

end Sys2Proof.Machine
end

