-- ==== Sys2Proof/Machine/Home.lean ====
section
/-!
DEFINITION. The steps of translation stations and homes (R210, R218, R224, R225, R238), and the events that end the
waits of the hart and its off-core operations.
-/
namespace Sys2Proof.Machine

/-! ## Homes -/

/-- Whether a location key lies in host memory (R237). -/
def isHostKey (key : Nat) : Bool := decide (hostBase ≤ key) && decide (key < ownBase)

/-- The bytes of a range that cannot be read (R423, R426). -/
def badBytes (s : State) (key len : Nat) : List Nat :=
  if poisoned s key len then (List.range len).filter fun i => poisoned s (key + i) 1 else []

/-- What the hart reads where the home has `b`: its own earlier stores that the home does not have yet lie over it (R213,
R225). -/
def withOwnStores (rto : ReplyTo) (key : Nat) (b : List Byte) (s : State) : List Byte :=
  match replyKey s rto with
  | (pkg, .job id _) => if pkg = s.ras.pkg.toNat then applyOwn (ownBytes s id key b.length) b else b
  | _ => b

/-- Whether the host does not complete a read: its link is down, 450 µs have passed since the issue, or it answers with
Unsupported Request or Completer Abort, which is a free value (R422). -/
def hostFails (s : State) (key : Nat) (rto : ReplyTo) : Bool :=
  !s.host.up || hostReadLate s rto || Config.hostRefuses (key - hostBase) s.sched.clock

/-- The answer of a home to a read: its bytes, with those named that are uncorrectable; none from a host that does not complete
it (R225, R422, R423). -/
def readAnswer (s : State) (key len : Nat) (rto : ReplyTo) : Response :=
  if isHostKey key && hostFails s key rto then .failed dHostLink s.ras.pkg
  else
    let b := withOwnStores rto key (readKey s key len) s
    match badBytes s key len with
    | [] => .bytes b
    | bad => .damaged b bad (pkgOfKey s key)

/-- HOME_READ (R225). -/
def execHomeRead (key len : Nat) (replyTo : ReplyTo) (s : State) : Out :=
  .next (reply replyTo (readAnswer s key len replyTo) s)

/-- A WRITE of this hart's drain queue has been performed (R215). -/
def writeLands (rto : ReplyTo) (s : State) : State :=
  match replyKey s rto with
  | (pkg, .drain id) => if pkg = s.ras.pkg.toNat then storeLands id s else s
  | _ => s

/-- HOME_WRITE (R224): performed and acknowledged; a write to the host needs its link (R422). -/
def execHomeWrite (key : Nat) (data : List Byte) (replyTo : ReplyTo) (s : State) : Out :=
  .next (if isHostKey key && !s.host.up then reply replyTo (.failed dHostLink s.ras.pkg) s
    else if inDeadChannel s key data.length then reply replyTo (.failed dMemoryUncorrectable (pkgOfKey s key)) s
    else reply replyTo (.value 0) (writeLands replyTo (writeKey s key data)))

def actionKind : MemAction → AccessKind
  | .read _ => .load
  | .write _ => .store
  | .atomic _ _ _ _ => .atomic

/-- The step at the home that follows a translation. -/
def homeStep (key : Nat) (replyTo : ReplyTo) : MemAction → Instr
  | .read len => .homeRead key len replyTo
  | .write data => .homeWrite key data replyTo
  | .atomic op bytes operand expected => .homeAtomic key op bytes operand expected replyTo

/-- STATION_TRANSLATE (R238): a failure goes back with its detail (R239); a translated request goes to its home. -/
def execStationTranslate (pid : Pid) (va : Word) (act : MemAction) (replyTo : ReplyTo) (s : State) : Out :=
  .next (match translate s (stationOf (ownCore s)) pid va (actionKind act) with
    | (s1, .error (d, pkg)) => reply replyTo (.failed d pkg) s1
    | (s1, .ok x) => postTo x.pkg .request (homeStep x.key replyTo act) s1)

/-! ## Answers and the drain queue -/

/-- PRODUCER_COMPLETION (R44, R115): the answer to a request of an off-core operation, or to the WRITE of a store (R116,
R405); the two share their numbers. -/
def execProducerCompletion (job part : Nat) (r : Response) (s : State) : Out :=
  .next (if s.off.jobs.any fun j => j.id == job then completePart job part r s else drainAnswered job r s)

/-- DRAIN_ENTRY_PERFORMED (R116): the head of the queue moves; without a store that can be performed nothing happens. -/
def execDrainEntryPerformed (s : State) : Out := .next (drainStore s)

/-- RELEASE_TAKES_EFFECT (R221). -/
def execReleaseTakesEffect (s : State) : Out := .next (drainRelease s)

/-! ## The ends of waits -/

/-- The hart is no longer held: the instruction at the pc is tried again. -/
def unhold (s : State) : State := hold .none s

/-- A failed producer with destination x0 whose wait has reached its address: DEFERRED_LOAD at the producer (R48). -/
def trapX0 (w : X0Wait) (info : Word) (s : State) : State :=
  let s1 := { s with
    sup := { s.sup with dfpc := w.pc, dfinfo := info }
    hart := { s.hart with x0 := eraseFirst (fun v => v.job == w.job) s.hart.x0, pc := w.pc } }
  trap 25 0 s1

/-- SOURCE_WAIT_ENDS (R50): the source check is repeated when no source is EMPTY any more or one is FAULTED; the wait
for a producer with destination x0 ends with its failure (R48). -/
def sourceWaitEnds (s : State) : State :=
  match s.hart.wait with
  | .source regs =>
    if (regs.all fun r => !(regState s r).isEmpty) || regs.any fun r => (regState s r).isFaulted then unhold s else s
  | .none =>
    match s.hart.x0.find? fun w => !w.atReturn && w.next == s.hart.pc && w.failed.isSome with
    | some w => trapX0 w (w.failed.getD 0) s
    | none => s
  | .dest _ | .issue _ _ | .csr _ | .response | .registration | .wfi | .runEnd _ => s

def execSourceWaitEnds (s : State) : Out := .next (sourceWaitEnds s)

/-- DESTINATION_WAIT_ENDS (R51, R190). -/
def execDestinationWaitEnds (s : State) : Out :=
  .next (match s.hart.wait with
    | .dest regs =>
      if regs.any fun r => (regState s r).isEmpty
          || (match r with | .m n => (lockedTiles s).contains n | .x _ | .v _ => false) then s
      else unhold s
    | .none | .source _ | .issue _ _ | .csr _ | .response | .registration | .wfi | .runEnd _ => s)

/-- ISSUE_STALL_ENDS (R49, R52): the stalled instruction is tried again; until it is, the hart counts as blocked where it
did (R98, R277). -/
def execIssueStallEnds (s : State) : Out :=
  .next (match s.hart.wait with
    | .issue _ b => { unhold s with hart := { (unhold s).hart with again := b } }
    | .csr _ => { unhold s with hart := { (unhold s).hart with again := true } }
    | .none | .source _ | .dest _ | .response | .registration | .wfi | .runEnd _ => s)

/-- WFI_WAKE (R22): an interrupt is pending and enabled at some privilege; wfi retires. -/
def execWfiWake (s : State) : Out :=
  .next (if s.hart.wait = .wfi ∧ pendingEnabled s ≠ 0 then retire s else s)

/-- INTERRUPT_TAKEN (R56). -/
def execInterruptTaken (s : State) : Out :=
  .next (match interruptToTake s with
    | some n => takeInterrupt n s
    | none => s)

/-- RESERVATION_EXPIRY (R22). -/
def execReservationExpiry (s : State) : Out :=
  .next (match s.hart.resv with
    | some (_, t) => if t + 256 ≤ s.sched.clock then { s with hart := { s.hart with resv := none } } else s
    | none => s)

/-- ILLEGAL_INSTRUCTION_WORD (R23, R35): cause 2 with the word. -/
def execIllegalInstructionWord (word : IWord) (s : State) : Out := .next (trap 2 (word.setWidth 64) s)

/-- INSTRUCTION_FETCH_FAULT (R209, R239): cause 1 or 12 with the address. -/
def execInstructionFetchFault (cause : BitVec 6) (addr : Word) (s : State) : Out :=
  .next (trap (if cause = 12 then 12 else 1) addr s)

/-- WAITER retries, deadlines and answers to the hart's own stalls: COUNTER_RESPONSE_ARRIVAL (R268, R369). -/
def execCounterResponseArrival (r : Response) (s : State) : Out :=
  .next (match s.hart.wait with
    | .response | .registration =>
      { s with hart := { s.hart with answer :=
          match r with
          | .value v => .accepted v
          | .bytes _ | .damaged _ _ _ => .accepted 0
          | .failed d _ => .failed d } }
    | .none | .source _ | .dest _ | .issue _ _ | .csr _ | .wfi | .runEnd _ => s)

end Sys2Proof.Machine
end

