-- ==== Sys2Proof/Machine/Host.lean ====
section
/-!
DEFINITION. The host (R274, R275, R339 to R342, R418 to R422): the counter window, arm slots, host queues, doorbells,
BAR0, BAR2, and the link. While the link is down, or before the firmware has declared it ready, nothing of the host comes in.
-/
namespace Sys2Proof.Machine

/-- Traffic of the host is served (R422, R432). -/
def hostServed (s : State) : Bool := s.host.up && s.host.ready

/-- A step of the host, when it is served. -/
def fromHost (f : State → State) (s : State) : Out := .next (if hostServed s then f s else s)

/-- A read of the host that is not served is answered with nothing. -/
def hostRead (tag : Nat) (f : State → State) (s : State) : Out :=
  .next (if hostServed s then f s else reply (.host tag) (.failed dHostLink 0) s)

def sendMsix (v : Nat) (s : State) : State := { s with host := { s.host with msix := s.host.msix ++ [v] } }

/-! ## The counter window (R274) -/

/-- LOCATION of a record about the window (R477): the cluster from bit 14, the index. -/
def logWindow (key detail : Nat) : State → State := logPackage 12 7 detail key

/-- An add through the window; one that cannot be applied is dropped and recorded. -/
def windowAdd (key : Nat) (n : Word) (s : State) : State :=
  let c := counterAt s key
  if key % 16384 = 0 then logWindow key 3 s
  else if c.st = .free then logWindow key 1 s
  else if c.st = .poisoned then logWindow key 2 s
  else
    match addTo key n s with
    | .ok (_, t) => t
    | .error _ => logWindow key 4 s

/-- What a read of the window returns. -/
def windowValue (s : State) (key : Nat) : Word :=
  let c := counterAt s key
  match c.st with
  | .free => 0
  | .live => c.value
  | .poisoned => BitVec.allOnes 64

/-! ## Arm slots (R275) -/

def HostArm.zero : HostArm := { handle := 0, threshold := 0, state := 0 }

def hostArmAt (s : State) (slot : Nat) : HostArm := Tab.getD s.ctr.hostArms slot HostArm.zero

def setHostArm (slot : Nat) (a : HostArm) (s : State) : State :=
  { s with ctr := { s.ctr with hostArms := Tab.put s.ctr.hostArms slot a } }

/-- The host's operations carry no PID and belong to no actor (R250). -/
def hostIssuer : Issuer := { pid := 0, cluster := 0, actor := 0, anyJob := true }

/-- The slot is armed with the handle that stands in it, in place of its old arm. -/
def armHostSlot (slot : Nat) (threshold : Word) (s : State) : State :=
  let a := hostArmAt s slot
  postTo (hPkg a.handle) .request (.homeCarm a.handle threshold hostIssuer .none (.hostArm slot))
    (setHostArm slot { a with threshold := threshold, state := 1 } (cancelRequest (.hostArm slot) s))

/-- A write of HANDLE, which arms nothing. -/
def writeHandle (slot : Nat) (v : Word) (s : State) : State := setHostArm slot { hostArmAt s slot with handle := v } s

/-- HOST_ARM_THRESHOLD_WRITE: the host's write of THRESHOLD, after that of HANDLE where it makes one. -/
def execHostArmThresholdWrite (slot : BitVec 6) (handle : Option Word) (threshold : Word) : State → Out :=
  fromHost fun s =>
    armHostSlot slot.toNat threshold (match handle with
      | some v => writeHandle slot.toNat v s
      | none => s)

/-! ## Host queues (R339 to R342) -/

def HostQueue.zero : HostQueue := { base := 0, state := 0, err := 0, cap := 0, actor := 0, tail := 0, head := 0 }

def queueAt (s : State) (q : Nat) : HostQueue := Tab.getD s.host.queues q HostQueue.zero

def setQueue (q : Nat) (h : HostQueue) (s : State) : State :=
  { s with host := { s.host with queues := Tab.put s.host.queues q h } }

/-- A queue that forwards: ACTIVE or STALLED. -/
def HostQueue.works (h : HostQueue) : Bool := h.state == 1 || h.state == 2

/-- The queue enters STOPPED with its error, MSI-X vector 64 and a record (R340, R421, R477). -/
def stopQueue (q err : Nat) (s : State) : State :=
  let s1 := setQueue q { queueAt s q with state := 3, err := err } s
  logPackage 12 7 (0x10 + err) (2 ^ 31 + q) (sendMsix 64 s1)

/-- ENABLE is written 1 with CAP while the queue is DISABLED: its positions and its error start at 0. -/
def enableQueue (q : BitVec 14) (cap : BitVec 32) (s : State) : State :=
  let h := queueAt s q.toNat
  if h.state = 0 then
    post (.hostQueueForward q)
      (setQueue q.toNat { h with state := 1, err := 0, cap := cap.toNat, tail := 0, head := 0 } s)
  else s

/-- BASE and ACTOR change only while ENABLE = 0 (R339). -/
def writeBase (q : BitVec 14) (v : Nat) (s : State) : State :=
  let h := queueAt s q.toNat
  if h.state = 0 then setQueue q.toNat { h with base := v } s else s

def writeActor (q : BitVec 14) (v : Word) (s : State) : State :=
  let h := queueAt s q.toNat
  if h.state = 0 then setQueue q.toNat { h with actor := v } s else s

/-- HOST_QUEUE_ENABLE: the host's write of CAP with ENABLE, after those of BASE and ACTOR where it makes them. -/
def execHostQueueEnable (q : BitVec 14) (base : Option (BitVec 45)) (cap : BitVec 32) (actor : Option Word) :
    State → Out :=
  fromHost fun s =>
    let s1 := match base with
      | some v => writeBase q v.toNat s
      | none => s
    enableQueue q cap (match actor with
      | some v => writeActor q v s1
      | none => s1)

/-- ENABLE is written 0: no record is in progress between steps. -/
def disableQueue (q : BitVec 14) (s : State) : State := setQueue q.toNat { queueAt s q.toNat with state := 0 } s

/-- HOST_QUEUE_DISABLE. -/
def execHostQueueDisable (q : BitVec 14) : State → Out := fromHost (disableQueue q)

/-- BAD_TAIL (R341). -/
def badTail (h : HostQueue) (tail : Nat) : Bool :=
  decide (tail < h.tail) || decide (h.head + h.cap < tail) || tail % 16 != 0

/-- HOST_QUEUE_TAIL_WRITE. -/
def writeTail (q : BitVec 14) (tail : Word) (s : State) : State :=
  let h := queueAt s q.toNat
  if h.works && badTail h tail.toNat then stopQueue q.toNat 4 s
  else
    let s1 := setQueue q.toNat { h with tail := tail.toNat } s
    if h.works then post (.hostQueueForward q) s1 else s1

def execHostQueueTailWrite (q : BitVec 14) (tail : Word) : State → Out := fromHost (writeTail q tail)

/-- HEAD goes past a record of n bytes, and the queue looks at the next one. -/
def advanceHead (q : BitVec 14) (n : Nat) (s : State) : State :=
  let h := queueAt s q.toNat
  post (.hostQueueForward q) (setQueue q.toNat { h with state := 1, head := h.head + n } s)

/-- Whether bytes of the ring can be read. DESIGN CHOICE: a ring that reaches beyond the package's HBM cannot (assumption
110). -/
def ringReadable (s : State) (off len : Nat) : Bool :=
  decide (off + len ≤ hbmBytes) && !poisoned s (ownBase + off) len

/-- The record at HEAD is admitted as KIND 5 with SENDER 0, or waits for room (R341, R342). -/
def forwardRecord (q : BitVec 14) (h : HostQueue) (a : Actor) (r : Record) (s0 : State) : State :=
  let core := coreIndex s0 (namePkg h.actor) (nameCore h.actor)
  let s := wakeCore core s0
  match mailboxBroken s core a with
  | some (reason, detail) => killActor h.actor (deathOf h.actor reason detail) s
  | none =>
    let n := recordBytes r.payload.length
    let p := ringPlace s core a n a.snap.mbox
    if p.2 then advanceHead q n (commitRecord core (nameSlot h.actor) p.1 r s)
    else setQueue q.toNat { h with state := 2 } s

/-- HOST_QUEUE_FORWARD: the checks of R341 on the record at HEAD. DESIGN CHOICE: a queue that is bound to an actor of another
package stops with NO_ACTOR (assumption 109), and a record that is both malformed and too large is malformed (assumption
111). -/
def forwardQueue (q : BitVec 14) (s : State) : State :=
  let h := queueAt s q.toNat
  if !h.works then s
  else
    match (liveActor s h.actor).filter fun _ => namePkg h.actor == s.ras.pkg.toNat with
    | none => stopQueue q.toNat 1 s
    | some a =>
      if h.head = h.tail then setQueue q.toNat { h with state := 1 } s
      else
        let off := h.base + h.head % h.cap
        if !ringReadable s off 16 then stopQueue q.toNat 5 s
        else
          let w := readWordKey s (ownBase + off)
          let len := field w 0 16
          let skip := field w 16 8 == 3
          let n := if skip then 16 + len else recordBytes len
          if 4080 < len ∨ h.tail < h.head + n then stopQueue q.toNat 3 s
          else if skip then advanceHead q n s
          else if a.snap.mbox < n then stopQueue q.toNat 2 s
          else if !ringReadable s (off + 16) len then stopQueue q.toNat 5 s
          else
            forwardRecord q h a
              { dst := h.actor, flood := false, kind := 5, flags := BitVec.ofNat 8 (field w 24 8)
                tag := BitVec.ofNat 32 (field w 32 32), sender := 0, pid := a.pid
                payload := readKey s (ownBase + off + 16) len } s

def execHostQueueForward (q : BitVec 14) (s : State) : Out := .next (forwardQueue q s)

/-! ## Doorbells (R420) -/

/-- A doorbell sets mip.SEIP of its core; a write of 0 is ignored. -/
def ringDoorbell (core : BitVec 12) (v : Word) (s : State) : State :=
  if !bit v 0 then s
  else if core = s.coreid then setPending 9 s
  else { s with host := { s.host with seip := Tab.put s.host.seip core.toNat true } }

/-- DOORBELL_WRITE. -/
def execDoorbellWrite (core : BitVec 12) (v : Word) : State → Out := fromHost (ringDoorbell core v)

/-- The bit of a doorbell. -/
def doorbellBit (s : State) (core : Nat) : Bool :=
  if core = ownCore s then bit s.mach.mip 9 else Tab.getD s.host.seip core false

/-! ## BAR0 (R419) -/

/-- What an aligned offset of BAR0 names. -/
inductive Bar0 where
  | queue (q : BitVec 14) (word : Nat)
  | doorbell (core : BitVec 12)
  | armSlot (slot word : Nat)
  | counter (key : Nat)
  deriving DecidableEq, Repr

/-- An aligned access of 8 bytes to a listed offset; any other one is not supported (R274, R339, R419; assumption 92). -/
def bar0At (offset len : Nat) : Option Bar0 :=
  if len ≠ 8 ∨ offset % 8 ≠ 0 then none
  else if offset < 0x100000 then some (.queue (BitVec.ofNat 14 (offset / 64)) (offset / 8 % 8))
  else if 0x800000 ≤ offset ∧ offset < 0x808000 then some (.doorbell (BitVec.ofNat 12 ((offset - 0x800000) / 8)))
  else if 0x1000000 ≤ offset ∧ offset < 0x1000400 then
    some (.armSlot ((offset - 0x1000000) / 16) (offset / 8 % 2))
  else if 0x2000000 ≤ offset ∧ offset < 0x4000000 then some (.counter ((offset - 0x2000000) / 8))
  else none

/-- A write to a descriptor word: BASE, CAP and ACTOR only while ENABLE = 0 (R339). -/
def writeDescriptor (q : BitVec 14) (word : Nat) (v : Word) (s : State) : State :=
  let h := queueAt s q.toNat
  let idle := h.state == 0
  if word = 0 then writeBase q (field v 0 45) s
  else if word = 1 then
    if bit v 63 then enableQueue q (v.setWidth 32) s
    else if idle then setQueue q.toNat { h with cap := field v 0 32 } s
    else disableQueue q s
  else if word = 2 then writeActor q v s
  else if word = 3 then writeTail q v s
  else s

/-- A descriptor word as the host reads it (R339). -/
def descriptorWord (h : HostQueue) (word : Nat) : Word :=
  if word = 0 then place h.base 0
  else if word = 1 then flag (h.state != 0) 63 ||| place h.state 60 ||| place h.err 40 ||| place h.cap 0
  else if word = 2 then h.actor
  else if word = 3 then place h.tail 0
  else if word = 4 then place h.head 0
  else 0

def bar0Write (at_ : Bar0) (v : Word) (s : State) : State :=
  match at_ with
  | .queue q word => writeDescriptor q word v s
  | .doorbell core => ringDoorbell core v s
  | .armSlot slot word =>
    if word = 0 then writeHandle slot v s else armHostSlot slot v s
  | .counter key => windowAdd key v s

def bar0Read (at_ : Bar0) (s : State) : Word :=
  match at_ with
  | .queue q word => descriptorWord (queueAt s q.toNat) word
  | .doorbell core => flag (doorbellBit s core.toNat) 0
  | .armSlot slot word => if word = 0 then (hostArmAt s slot).handle else place (hostArmAt s slot).state 0
  | .counter key => windowValue s key

/-- HOST_COUNTER_ADD: a write of `len` bytes of the host to BAR0; one that is not supported changes nothing. -/
def execHostCounterAdd (offset len : Nat) (value : Word) : State → Out :=
  fromHost fun s =>
    match bar0At offset len with
    | some at_ => bar0Write at_ value s
    | none => s

def answerHost (tag : Nat) (a : HostAnswer) (s : State) : State :=
  { s with host := { s.host with answers := s.host.answers ++ [(tag, a)] } }

/-- A configuration request: Request Retry Status until the link is ready (R432); the manual does not give the contents of
the configuration space. -/
def configRead (len tag : Nat) (s : State) : State :=
  if !s.host.up then s
  else if s.host.ready then
    let r := freeBytes len s
    answerHost tag (.data r.1) r.2
  else answerHost tag .retry s

/-- HOST_COUNTER_READ: a read of the host in BAR0, or a configuration request. -/
def execHostCounterRead (place : HostPlace) (len tag : Nat) (s : State) : Out :=
  match place with
  | .config _ => .next (configRead len tag s)
  | .bar0 offset =>
    hostRead tag (fun t =>
      match bar0At offset len with
      | some at_ => reply (.host tag) (.value (bar0Read at_ t)) t
      | none => answerHost tag .unsupported t) s

/-! ## BAR2 (R419) -/

/-- A write through BAR2: the bytes at 384 GB and above are discarded, with a record. -/
def bar2Put (offset : Nat) (data : List Byte) (s : State) : State :=
  let s1 := writeKey s (ownBase + offset) (data.take (hbmBytes - offset))
  if offset + data.length ≤ hbmBytes then s1 else logPackage 12 7 0x20 (offset / 4096) s1

def execBar2Write (offset : Nat) (data : List Byte) : State → Out := fromHost (bar2Put offset data)

/-- A read through BAR2: Unsupported Request above 384 GB, and no data of a word that cannot be read (R423). -/
def bar2Get (offset len tag : Nat) (s : State) : State :=
  if ringReadable s offset len then reply (.host tag) (.bytes (readKey s (ownBase + offset) len)) s
  else reply (.host tag) (.failed dMemoryUncorrectable s.ras.pkg) s

def execBar2Read (offset len tag : Nat) : State → Out := hostRead tag (bar2Get offset len tag)

/-! ## The link (R422, R432) -/

/-- The reads of host memory that are out fail with HOST_LINK. -/
def failHostReads (p : ReplyTo → Bool) (s : State) : State :=
  let gone := s.sched.agenda.filter fun e => hostReadOf p e.ev
  gone.foldl (fun t e => reply (replyToOf e.ev) (.failed dHostLink t.ras.pkg) t)
    { s with sched := { s.sched with agenda := s.sched.agenda.filter fun e => !hostReadOf p e.ev } }

/-- HOST_COMPLETION_TIMEOUT: 450 µs after the issue. -/
def execHostCompletionTimeout (replyTo : ReplyTo) (s : State) : Out :=
  .next (if hostReadLate s replyTo then failHostReads (fun r => r == replyTo) s else s)

/-- HOST_LINK_DOWN. -/
def execHostLinkDown (s : State) : Out :=
  .next (failHostReads (fun _ => true) { s with host := { s.host with up := false } })

/-- HOST_LINK_READY: the firmware declares the link ready, which is up then. -/
def execHostLinkReady (s : State) : Out := .next { s with host := { s.host with up := true, ready := true } }

end Sys2Proof.Machine
end

