-- ==== Sys2Proof/Machine/Link.lean ====
section
/-!
DEFINITION. Links, signals and supervision (chapter 15): link tables, the exit walk, and the restart engine.
-/
namespace Sys2Proof.Machine

/-! ## Link tables (R377) -/

def dropEntryOf (kind : LinkKind) (owner named : Word) (s : State) : State :=
  { s with actors := { s.actors with
      links := s.actors.links.filter fun l => !(l.kind == kind && l.owner == owner && l.named == named) } }

/-- The kinds of a link's or monitor's near and far entries (R386). -/
def nearKind (mon : Bool) : LinkKind := if mon then .watches else .link
def farKind (mon : Bool) : LinkKind := if mon then .watchedBy else .link

/-! ## Signals (R380, R382, R383, R385) -/

/-- A SIGNAL record. -/
def signalRecord (g : Signal) : Record :=
  { dst := g.dst, flood := false, kind := 1, flags := 0, tag := 0, sender := g.frm, pid := 0
    payload := wordToBytes 8 g.frm ++ wordToBytes 8 g.origin
      ++ wordToBytes 8 (flag g.cascade 9 ||| flag g.mon 8 ||| place g.reason.toNat 0) ++ wordToBytes 8 g.detail }

def sendSignal (g : Signal) (s : State) : State := postTo (namePkg g.dst) .message (.directSignal g) s

/-- DIRECT_SIGNAL (R385): judged by the receiver's trap-exits flag, but for a monitor's NO_ACTOR. -/
def execDirectSignal (g : Signal) (s : State) : Out :=
  .next (match liveActor s g.dst with
    | none => s
    | some a =>
      if g.mon || a.trapExits then (admitNamed (signalRecord g) s).2
      else killActor g.dst (deathOf g.dst g.reason g.detail) s)

/-! ## The supervision table (R389 to R391) -/

def setSup (u : Sup) (s : State) : State :=
  { s with actors := { s.actors with sups := updateFirst (fun v => v.name == u.name) (fun _ => u) s.actors.sups } }

/-- The supervisor dies, and its record is FREE (R391, R393, R397). -/
def supDies (name : Word) (reason : BitVec 8) (detail : Word) (s : State) : State :=
  killActor name (deathOf name reason detail) (dropSup name s)

/-- The index of the child with a current name. -/
def childOf (u : Sup) (name : Word) : Option Nat :=
  (List.range u.children.length).find? fun i => (u.children[i]?.map (·.name)) == some name

def setChild (u : Sup) (i : Nat) (f : Child → Child) : Sup :=
  match u.children[i]? with
  | some c => { u with children := setAt u.children i (f c) }
  | none => u

/-- Whether a link signal is for the restart engine: its FROM is a child, a name that the round replaces, or an older
incarnation, whose signal is dropped (R392). -/
def forEngine (u : Sup) (frm : Word) : Bool :=
  (childOf u frm).isSome || u.replaced.contains frm || u.past.contains frm

/-- The index of the child whose incarnation a signal ends: under its current name, or under the one that the round has
replaced. -/
def endedChild (u : Sup) (frm : Word) : Option Nat :=
  (childOf u frm).orElse fun _ => (List.range u.children.length).find? fun i =>
    u.st != .steady && frm != 0 && (u.children[i]?.map (·.old)) == some frm

/-- What ended an incarnation that the round replaces is kept for RESTARTED (R398). -/
def noteEnd (u : Sup) (g : Signal) : Sup :=
  match endedChild u g.frm with
  | some i => setChild u i fun c => { c with oldReason := g.reason, oldDetail := g.detail }
  | none => u

/-- The restart engine takes a child's signal (R392): absorbed by the round, or a failure event. -/
def takeSignal (u0 : Sup) (g : Signal) (s : State) : State :=
  if u0.st ≠ .steady ∧ u0.replaced.contains g.frm then
    let u := noteEnd u0 g
    let left := u.awaited.filter fun n => n != g.frm
    let s1 := setSup { u with awaited := left } s
    match (if u.awaited ≠ [] ∧ left = [] then u.todo else []) with
    | i :: _ => post (.childRestart u.name i) s1
    | [] => s1
  else
    let u := u0
    match childOf u g.frm with
    | none => s
    | some i =>
      let known := u.failures.any fun f => f.child == i
      let f : Failure := { child := i, name := g.frm, reason := g.reason, detail := g.detail }
      let s1 := setSup { u with failures := if known then u.failures else u.failures ++ [f] } s
      if u.st = .steady ∧ u.failures = [] then post (.restartRound u.name) s1 else s1

/-- LINK_SIGNAL (R382): the first row of the table that matches. -/
def execLinkSignal (g : Signal) (s : State) : Out :=
  let kind := nearKind g.mon
  .next (match liveActor s g.dst with
    | none => s
    | some a =>
      if !hasEntry s kind g.dst g.frm then s
      else
        let s1 := dropEntryOf kind g.dst g.frm s
        match (findSup s g.dst).filter fun u => forEngine u g.frm with
        | some u => takeSignal u g s1
        | none =>
          if g.mon then (admitNamed (signalRecord g) s1).2
          else if g.reason = 0 ∧ !a.trapExits then s1
          else if a.trapExits then (admitNamed (signalRecord g) s1).2
          else killActor g.dst { reason := g.reason, detail := g.detail, origin := g.origin, cascade := true } s1)

/-! ## The exit walk (R379) -/

/-- Whether a restart of a round has claimed a slot (R306): its request is at the slot's package. -/
def slotClaimed (s : State) (ix : Nat) : Bool :=
  s.sched.agenda.any fun e => restartSlot s e == some ix

/-- Step 2: transfers that touch local bytes stop (R362): a gated or paused one and a TILEMOVE that has not left this package,
another one at its next aligned 64-byte boundary, and a TILEMOVE that is out at another package with its answer (R356). -/
def stopTransfers (name : Word) (s : State) : State :=
  let mine (t : Transfer) : Bool :=
    t.actor == name && t.reply.isNone && !t.stop && touchesLocal (ownMember s) t.snap 0 scratchBytes
  let now (t : Transfer) : Bool := mine t && (t.st != .active || (snapMode t.snap == 4 && !t.busy))
  let s1 := { s with transfers := s.transfers.map fun t => if mine t && !now t then { t with stop := true } else t }
  (s.transfers.filter now).foldl (fun u t => dropTransfer t.id (cancelRequest (.transfer t.id) u)) s1

/-- Step 2: the actor's collective entries make no done add any more (R370). -/
def stopColls (name : Word) (s : State) : State :=
  { s with colls := s.colls.map fun (c : Coll) => if c.owner = name then { c with clearing := true } else c }

/-- One entry's signal or removal (step 5). -/
def walkEntry (name : Word) (d : Death) (s : State) (l : LinkEntry) : State :=
  let pkg := namePkg l.named
  match l.kind with
  | .watches => postTo pkg .message (.linkRemoval { mon := true, near := name, far := l.named, pid := 0 }) s
  | .link | .watchedBy =>
    postTo pkg .message
      (.linkSignal { dst := l.named, frm := name, origin := d.origin, reason := d.reason, detail := d.detail
                     mon := l.kind == .watchedBy, cascade := d.cascade }) s

/-- Step 6: the slot and everything it held. -/
def reclaim (name : Word) (s : State) : State :=
  let ix := actorIx s name
  let core := ix / 1024
  let s1 := { s with actors := { s.actors with
    slotOwner := s.actors.slotOwner.filter fun (k, o) => !(k / 64 == core && o == name) } }
  updateActor ix (fun a =>
    { Actor.zero with inc := a.inc, st := if slotClaimed s ix then .restarting else .free
                      pid := if slotClaimed s ix then a.pid else 0 }) s1

/-- The rest of step 2, and steps 3 to 6. -/
def walkSteps (name : Word) (d : Death) (s : State) : State :=
  let s1 := (s.colls.filter fun c => c.owner == name).foldl (fun t c => clearColl c t) s
  let s2 := dropSup name (freeOwned name s1)
  let mine := s2.actors.links.filter fun l => l.owner == name
  let s3 := mine.foldl (walkEntry name d) s2
  reclaim name { s3 with actors := { s3.actors with links := s3.actors.links.filter fun l => l.owner != name } }

/-- What an exit walk waits for: a transfer that goes on to its boundary (R362), or a collective entry with a send
unacknowledged (R370). -/
def walkWaits (name : Word) (s : State) : Bool :=
  (s.transfers.any fun t => t.actor == name && t.stop) || s.colls.any fun c => c.owner == name && collBusy c

/-- EXIT_WALK: it stops the actor's transfers and collective entries, and goes on when they have stopped. -/
def execExitWalk (name : Word) (s : State) : Out :=
  let a := actorAt s (actorIx s name)
  .next (if a.st = .exiting ∧ a.inc = nameInc name then
      let s1 := stopColls name (stopTransfers name s)
      if walkWaits name s1 then postFirst (.exitWalk name) s1 else walkSteps name (a.death.getD (deathOf name 0 0)) s1
    else s)

/-! ## link, unlink, mon and demon (R386 to R388) -/

/-- The near side of `link` and `mon`. -/
def linkNear (mon rl : Bool) (t : Word) (s : State) : State :=
  let me := s.act.name
  let kind := nearKind mon
  if t = me ∨ hasEntry s kind me t then s
  else if !reachable s (namePkg t) then
    sendSignal { dst := me, frm := t, origin := t, reason := 0x05, detail := place (namePkg t) 0, mon := false, cascade := false } s
  else if tableFull s me then signalSelf me 0x0C t s
  else
    sendActor rl [{ pkg := namePkg t, ch := .message, ev := .linkInstall { mon := mon, near := me, far := t, pid := s.sup.pid } }]
      (addEntry kind me t s)

/-- The near side of `unlink` and `demon`. -/
def unlinkNear (mon rl : Bool) (t : Word) (s : State) : State :=
  let me := s.act.name
  if t = me then s
  else
    sendActor rl [{ pkg := namePkg t, ch := .message, ev := .linkRemoval { mon := mon, near := me, far := t, pid := s.sup.pid } }]
      (dropEntryOf (nearKind mon) me t s)

/-- The four instructions' common form. -/
def linkInstr (i : Instr) (a : RT) (f : Word → State → State) : State → Out :=
  instr [noPrefix i, checkHandler i, stopIf (fun s => a.rl && s.sup.dheld) trapDeferredStore,
      checkSources [srcX a.rs1 false],
      fun s => if nameInc (xval s a.rs1) = 0 then some (trap 30 (xval s a.rs1) s) else none,
      checkAcquire a.aq, checkReleaseWait (a.rl && a.aq)]
    fun s =>
      let s1 := f (xval s a.rs1) s
      retire (if a.aq then invalidateStrand s1 else s1)

def execLink (a : RT) : State → Out := linkInstr (.link a) a (linkNear false a.rl)
def execUnlink (a : RT) : State → Out := linkInstr (.unlink a) a (unlinkNear false a.rl)
def execMon (a : RT) : State → Out := linkInstr (.mon a) a (linkNear true a.rl)
def execDemon (a : RT) : State → Out := linkInstr (.demon a) a (unlinkNear true a.rl)

/-- LINK_INSTALL at the far core (R387). -/
def execLinkInstall (r : LinkReq) (s : State) : Out :=
  .next (if !((liveActor s r.far).any fun a => a.pid == r.pid) then
      sendSignal { dst := r.near, frm := r.far, origin := r.far, reason := 0x06, detail := r.far, mon := false, cascade := false }
        (dropEntryOf (nearKind r.mon) r.near r.far s)
    else if !hasEntry s (farKind r.mon) r.far r.near && tableFull s r.far then
      sendSignal { dst := r.near, frm := r.near, origin := r.near, reason := 0x0C, detail := r.far, mon := false, cascade := false }
        (dropEntryOf (nearKind r.mon) r.near r.far s)
    else addEntry (farKind r.mon) r.far r.near s)

/-- LINK_REMOVAL at the far core (R378, R387). -/
def execLinkRemoval (r : LinkReq) (s : State) : Out := .next (dropEntryOf (farKind r.mon) r.far r.near s)

/-! ## Restarts (R393 to R398) -/

/-- The number of a placement's core, its slot and whether the slot is fixed (R390). -/
def placeCore (s : State) (p : Word) : Nat := coreIndex s (namePkg p) (nameCore p)

/-- The target's steps of R396: the image is read, and the spawn's checks and allotment are made. -/
def installChild (u : Sup) (c : Child) (p : Word) (s : State) : Installed × State :=
  let core := placeCore s p
  let img := readJobBytes core u.pid (chunks c.imgLen) c.image c.imgLen s
  match allot true core u.pid c.typ (bit p 29) (nameSlot p) img.1 with
  | (.failed d, s1) => (.failed d, s1)
  | (.refused, s1) => (.refused, s1)
  | (.name n, s1) =>
    let a := actorAt s1 (actorIx s1 n)
    if a.snap.size < c.imgLen + a.snap.mbox + 192 then (.failed dNone, img.1)
    else
      match img.2 with
      | .error d => (.failed d, img.1)
      | .ok b => (.done n, writeKey s1 (scratchKey core (a.sbase + a.snap.mbox + 192)) b)

/-- A child is installed where its restart tries it, and linked to its supervisor there; one whose link table is full is
killed (R396, R397). -/
def installAt (u : Sup) (i : Nat) (c : Child) (s : State) : Installed × State :=
  match installChild u c (childPlace s u c) s with
  | (.done n, s1) =>
    match addIfRoom .link n u.name s1 with
    | some s2 => (.done n, s2)
    | none => (.noLink n, killActor n (deathOf n 0x0C (place i 0)) s1)
  | r => r

/-- A LINK between two actors, or none where a table is full: both tables have room, or their one table for both
entries (R377). -/
def linkBoth (a b : Word) (s : State) : Option State := (addIfRoom .link a b s).bind (addIfRoom .link b a)

/-- Whether two siblings are linked: either record names the other (R390). -/
def siblings (u : Sup) (i j : Nat) : Bool :=
  i != j && ((u.children[i]?.any fun c => c.links.getLsbD j) || (u.children[j]?.any fun c => c.links.getLsbD i))

/-- The pairs of linked siblings of which one was restarted. -/
def siblingPairs (u : Sup) (restarted : List Nat) : List (Nat × Nat) :=
  let n := u.children.length
  (List.range n).flatMap fun i => ((List.range n).filter fun j =>
    decide (i < j) && siblings u i j && (restarted.contains i || restarted.contains j)).map fun j => (i, j)

/-- The child of a pair whose link could not be made: the one that was restarted, and of two the later one
(assumption 100). -/
def unlinkedChild (restarted : List Nat) (i j : Nat) : Nat := if restarted.contains j then j else i

/-- The LINK entries between linked siblings, made by the engine at both ends (assumption 101): the child whose link could not
be made, if any, and the state with those made before it. -/
def linkSiblings (u : Sup) (restarted : List Nat) : List (Nat × Nat) → State → Option Nat × State
  | [], s => (none, s)
  | (i, j) :: rest, s =>
    match u.children[i]?, u.children[j]? with
    | some a, some b =>
      if isLive s a.name && isLive s b.name then
        match linkBoth a.name b.name s with
        | some s1 => linkSiblings u restarted rest s1
        | none => (some (unlinkedChild restarted i j), s)
      else linkSiblings u restarted rest s
    | _, _ => linkSiblings u restarted rest s

/-- A RESTARTED record (R398). -/
def restartedRecord (u : Sup) (i : Nat) (c : Child) : Record :=
  let start := u.counted == 0
  { dst := u.name, flood := false, kind := 4, flags := 0, tag := 0, sender := c.name, pid := u.pid
    payload := wordToBytes 8 c.name ++ wordToBytes 8 c.old
      ++ wordToBytes 8 (place u.counted 32 ||| flag c.atStandby 16 ||| place i 8
          ||| (if start then 0 else place c.oldReason.toNat 0))
      ++ wordToBytes 8 (if start then 0 else c.oldDetail) }

/-- The initial message of a child (R396): committed at its mailbox, or on its way there in a RECORD packet. -/
def sendInit (u : Sup) (c : Child) (s : State) : State :=
  let r := firstRecord c.name u.name c.init u.pid
  if namePkg c.name = herePkg s then (admitNamed r s).2 else postTo (namePkg c.name) .message (.recordAdmit r) s

/-- The end of a round: sibling links, initial messages, RESTARTED records, and the queued failures (R391, R396). -/
def finishRound (u : Sup) (restarted : List Nat) (s : State) : State :=
  match linkSiblings u restarted (siblingPairs u restarted) s with
  | (some i, s1) => supDies u.name 0x0C (place i 0) s1
  | (none, s1) =>
    let s2 := restarted.foldl (fun t i => match u.children[i]? with
      | some c => sendInit u c t
      | none => t) s1
    let s3 := if u.notify then restarted.foldl (fun t i => match u.children[i]? with
        | some c => (admitNamed (restartedRecord u i c) t).2
        | none => t) s2
      else s2
    let s4 := setSup
      { u with st := .steady, todo := [], past := u.past ++ u.replaced, replaced := [], awaited := [], toStandby := false
               request := .idle } s3
    if u.failures ≠ [] then post (.restartRound u.name) s4 else s4

/-- The children of the round, in ascending order. -/
def roundChildren (u : Sup) : List Nat :=
  if u.st = .starting ∨ u.allForOne then List.range u.children.length
  else (List.range u.children.length).filter fun i =>
    u.replaced.any fun n => (u.children[i]?.any fun c => c.name == n || c.old == n)

/-- Behind an installed child: the next one, or the end of the round. -/
def nextChild (u : Sup) (rest : List Nat) (s : State) : State :=
  let u1 := { u with todo := rest, toStandby := false, request := .idle }
  match rest with
  | j :: _ => post (.childRestart u.name j) (setSup u1 s)
  | [] => finishRound u1 (roundChildren u1) (setSup u1 s)

/-- The engine has the outcome of a restart (R396, R397): it links the supervisor to the child and goes on, tries STANDBY, or
the supervisor dies. A child whose supervisor has no room for the link is killed first. -/
def childAnswered (u0 : Sup) (i : Nat) (rest : List Nat) (r : Installed) (s0 : State) : State :=
  let u := { u0 with request := .idle }
  let s := setSup u s0
  match r with
  | .failed d => supDies u.name 0x0B (place i 0 ||| place d.toNat 16) s
  | .noLink _ => supDies u.name 0x0C (place i 0) s
  | .refused =>
    if u.toStandby then supDies u.name 0x0C (place i 0) s
    else post (.childRestart u.name i) (setSup { u with toStandby := true } s)
  | .done n =>
    match addIfRoom .link u.name n s with
    | none => supDies u.name 0x0C (place i 0) (refuseChild u.name u.pid i n s)
    | some s1 =>
      nextChild (setChild u i fun k =>
        { k with old := if u.st = .starting then 0 else k.name, name := n, atStandby := u.toStandby }) rest s1

/-- A restart at the cluster of its supervisor: the placement is chosen (R397), and the child is installed there, or a request
goes to the package of the placement (R405). A STANDBY that is none, or that cannot be reached, counts as refusing. -/
def restartHere (u0 : Sup) (i : Nat) (c : Child) (rest : List Nat) (s : State) : State :=
  match u0.request with
  | .out => s
  | .answered r => childAnswered u0 i rest r s
  | .idle =>
    let u := { u0 with toStandby := u0.toStandby || !reachable s (namePkg c.place) }
    let p := childPlace s u c
    if p = 0 && u.toStandby || !reachable s (namePkg p) then childAnswered u i rest .refused s
    else if namePkg p = herePkg s then
      let r := installAt u i c s
      childAnswered u i rest r.1 r.2
    else postTo (namePkg p) .message (.childRestart u.name i) (setSup { u with request := .out } s)

/-- A restart request at its target: one for a slot that is EXITING waits there for the walk (R396), and its outcome goes
back (assumption 101). -/
def restartThere (u : Sup) (i : Nat) (c : Child) (s : State) : State :=
  if u.request ≠ .out then s
  else if (fixedSlot s (childPlace s u c)).any fun ix => (actorAt s ix).st == .exiting then post (.childRestart u.name i) s
  else
    let r := installAt u i c s
    postTo (namePkg u.name) .message (.childRestart u.name i) (setSup { u with request := .answered r.1 } r.2)

/-- CHILD_RESTART (R396, R397): the next child of the round is installed and linked to its supervisor, as long as that
lives (R391). -/
def execChildRestart (sup : Word) (child : Nat) (s : State) : Out :=
  .next (match (findSup s sup).filter fun _ => isLive s sup with
    | none => s
    | some u =>
      match u.todo, u.children[child]? with
      | i :: rest, some c =>
        if i ≠ child ∨ u.awaited ≠ [] then s
        else if namePkg sup = herePkg s then restartHere u child c rest s
        else restartThere u child c s
      | _, _ => s)

/-- A sibling's signal that a round still waits for (R395): it is live, or it is dead and its signal is on its way. A sibling
without a link to its supervisor sends none, and the round waits for its kill alone: DEDUCED (assumption 96). -/
def signalDue (s : State) (sup name : Word) : Bool :=
  reachable s (namePkg name) && hasEntry s .link sup name &&
    (isLive s name || ((actorAt s (actorIx s name)).st == .exiting && (actorAt s (actorIx s name)).inc == nameInc name)
      || s.sched.agenda.any fun e => match e.ev with | .linkSignal g => g.dst == sup && g.frm == name | _ => false)

/-- What has ended a child's incarnation as a round begins (R398): the failure that was taken for it, or the loss of its
package, whose signal the round does not wait for (R384, R395). -/
def childEnded (s : State) (taken : List Failure) (c : Child) : Child :=
  match taken.find? fun g => g.name == c.name with
  | some g => { c with oldReason := g.reason, oldDetail := g.detail }
  | none =>
    if c.name ≠ 0 ∧ !reachable s (namePkg c.name) then { c with oldReason := 0x05, oldDetail := place (namePkg c.name) 0 }
    else { c with oldReason := 0, oldDetail := 0 }

/-- A round begins (R394, R395): siblings are killed under all-for-one, and their signals awaited. -/
def beginRound (u : Sup) (f : Failure) (rounds : List Word) (s : State) : State :=
  let names := u.children.map (·.name)
  let others := names.filter fun n => n != f.name
  let todo := if u.allForOne then List.range u.children.length else [f.child]
  let awaited := if u.allForOne then others.filter (signalDue s u.name) else []
  let u1 : Sup :=
    { u with st := .round, children := u.children.map (childEnded s (f :: u.failures)), rounds := rounds, counted := rounds.length, todo := todo
             replaced := if u.allForOne then names else [f.name], awaited := awaited }
  let kills := if u.allForOne then (others.filter (isLive s)).map fun n =>
      Effect.mk (namePkg n) .message (.killRequest
        { target := n, reason := 0x08, detail := f.name, origin := n, cascade := false, pid := u.pid, jobOnly := false
          near := u.name })
    else []
  let s1 := sendAll kills (setSup u1 s)
  match awaited, todo with
  | [], i :: _ => post (.childRestart u.name i) s1
  | _, _ => s1

/-- RESTART_ROUND (R391, R393): the start after `supadd`, or the oldest failure event. -/
def execRestartRound (sup : Word) (s : State) : Out :=
  .next (match (findSup s sup).filter fun _ => isLive s sup with
    | none => s
    | some u =>
      match u.st with
      | .starting => match u.todo with
        | i :: _ => post (.childRestart sup i) s
        | [] => s
      | .round => s
      | .steady =>
        match u.failures with
        | [] => s
        | f :: rest =>
          let u1 := { u with failures := rest }
          if (u.children[f.child]?.map (·.name)) ≠ some f.name then
            let s1 := setSup u1 s
            if rest ≠ [] then post (.restartRound sup) s1 else s1
          else
            let now := timelineAt s (placeCore s sup / 16)
            let rounds := (u.rounds.filter fun t => decide (now.toNat < t.toNat + u.window.toNat)) ++ [now]
            if u.maxr < rounds.length then supDies sup 0x07 (place f.child 0) s
            else beginRound u1 f rounds s)

/-! ## supadd and supdel (R400 to R402) -/

/-- Word n of child i. -/
def childWord (d : Nat → Word) (i n : Nat) : Word := d (8 + 8 * i + n)

def supChildren (d : Nat → Word) : Nat := field (d 0) 8 6

/-- R389. -/
def supHeaderBad (d : Nat → Word) : Bool :=
  field (d 0) 24 40 != 0 || field (d 0) 14 2 != 0 || field (d 0) 2 6 != 0 || decide (16 < field (d 0) 16 8)
    || supChildren d == 0 || decide (32 < supChildren d) || field (d 1) 40 24 != 0 || d 1 == 0
    || (List.range 5).any fun i => d (3 + i) != 0

/-- R390. The class of IMAGE is not judged where IMGLEN is 0: DEDUCED (assumption 84). -/
def childBad (d : Nat → Word) (n i : Nat) : Bool :=
  let w := childWord d i
  field (w 0) 8 56 != 0 || field (w 1) 0 29 != 0 || field (w 2) 0 29 != 0 || (w 3).toNat % 8 != 0
    || (field (w 4) 0 20 != 0 && (classOf (w 3) != .translated
        || classOf (w 3 + BitVec.ofNat 64 (field (w 4) 0 20 - 1)) != .translated))
    || field (w 4) 20 44 != 0 || (w 4).toNat % 8 != 0 || field (w 6) n (64 - n) != 0 || bit (w 6) i || w 7 != 0

def supMalformed (d : Nat → Word) : Bool :=
  supHeaderBad d || (List.range (supChildren d)).any fun i => childBad d (supChildren d) i

def childEntry (d : Nat → Word) (i : Nat) : Child :=
  let w := childWord d i
  { typ := BitVec.ofNat 8 (field (w 0) 0 8), place := w 1, standby := w 2, image := w 3, imgLen := field (w 4) 0 20
    init := w 5, links := BitVec.ofNat 32 (field (w 6) 0 32), name := 0, old := 0, oldReason := 0, oldDetail := 0
    atStandby := false }

def supEntry (s : State) (d : Nat → Word) : Sup :=
  let n := supChildren d
  { name := s.act.name, pid := s.sup.pid, maxr := field (d 0) 16 8, notify := bit (d 0) 1, allForOne := bit (d 0) 0
    window := d 1, parent := d 2, children := (List.range n).map (childEntry d), st := .starting, failures := []
    rounds := [], todo := List.range n, replaced := [], awaited := [], counted := 0 }

/-- The supervision table of this cluster cannot take n more children and their record (R389). -/
def supTableFull (s : State) (n : Nat) : Bool :=
  let here := s.actors.sups.filter fun u => ownerCore s u.name / 16 == ownCluster s
  decide (64 ≤ here.length) || decide (1024 < (here.map fun u => u.children.length).foldl (· + ·) 0 + n)

/-- supadd (R400). DESIGN CHOICE: a PARENT that is not 0 and has incarnation 0 is linked as any name that is not live (assumption
114). -/
def execSupadd (a : RT) : State → Out :=
  let i : Instr := .supadd a
  let ea (s : State) : Word := xval s a.rs1
  let d (s : State) : Nat → Word := descWord s (ea s).toNat
  let trap5 (s : State) : State := trap 5 (ea s) s
  instr [noPrefix i, checkHandler i, checkSources [srcX a.rs1 false],
      fun s => if descOk s (ea s) 64 64 then none else some (trap5 s),
      fun s => if descOk s (ea s) 64 (64 + 64 * supChildren (d s)) then none else some (trap5 s),
      fun s => if supMalformed (d s) || (findSup s s.act.name).isSome then some (trapIllegal i s) else none,
      fun s => if supTableFull s (supChildren (d s)) then
          some (killActor s.act.name (deathOf s.act.name 0x0C 0) s) else none]
    fun s =>
      let u := supEntry s (d s)
      let s1 := { s with actors := { s.actors with sups := s.actors.sups ++ [u] } }
      let s2 := if u.parent = 0 then s1 else linkNear false false u.parent s1
      retire (post (.restartRound u.name) s2)

/-- supdel with KILL = 1: the caller's links to its children are removed, and each live child is killed. -/
def dropChildren (u : Sup) (s : State) : State :=
  u.children.foldl (fun t c =>
    let t1 := unlinkNear false false c.name t
    if isLive t1 c.name then sendActor false [{ pkg := namePkg c.name, ch := .message, ev := killedReq c.name u.pid }] t1
    else t1) s

def execSupdel (a : RT) : State → Out :=
  let i : Instr := .supdel a
  instr [noPrefix i, checkHandler i, checkSources [srcX a.rs1 false],
      fun s => if field (xval s a.rs1) 1 63 ≠ 0 then some (trap 30 (xval s a.rs1) s) else none,
      stopIf (fun s => (findSup s s.act.name).any fun u => u.st != .steady) stall]
    fun s => retire (match findSup s s.act.name with
      | none => s
      | some u =>
        let s1 := dropSup u.name s
        if bit (xval s a.rs1) 0 then dropChildren u s1 else s1)

end Sys2Proof.Machine
end

