-- ==== Sys2Proof/Machine/Peers.lean ====
section
/-!
DEFINITION. Peers and ports (R384, R403, R407 to R413): permits, the loss of a peer and its return, resends, link
retries, lanes and training.
-/
namespace Sys2Proof.Machine

/-! ## The loss of a peer (R265, R384, R413) -/

/-- An arm that ends with the loss of its counter's package sets bit 17 as a firing does (R260); a host arm slot reads
refused. -/
def armLost (s : State) (armFor : ReplyTo) : State :=
  match armFor with
  | .arm core => post (.armFiringArrives (.arm core)) s
  | _ => armEnds armFor s

/-- The waiters and arms of this package at counters of another. -/
def registeredAt (s : State) (pkg : Nat) : List Waiter :=
  s.ctr.waiters.filter fun w => pkgOfCluster s (w.counter / 16384) == pkg && wokenPkg s w.replyTo == s.ras.pkg.toNat

/-- The waiters and arms that the packages have registered at each other are removed (R265). -/
def dropRegistered (pkg : Nat) (s : State) : State :=
  let stays (w : Waiter) : Bool :=
    pkgOfCluster s (w.counter / 16384) != pkg && pkgOfCluster s w.issuer.cluster != pkg
  { s with ctr := { s.ctr with waiters := s.ctr.waiters.filter stays } }

/-- Whether an entry is a packet of this package for a peer. -/
def isFor (s : State) (pkg : Nat) (e : Entry) : Bool :=
  match e.via with
  | some a => a.src == s.ras.pkg && a.dst.toNat == pkg
  | none => false

/-- Whom a WAKE that has not arrived yet wakes: it comes from the package, and is not a duplicate (R410). -/
def wakeOnItsWay (s : State) (pkg : Nat) (e : Entry) : Option ReplyTo :=
  match e.via with
  | some a =>
    if a.src.toNat = pkg ∧ a.dst = s.ras.pkg ∧ a.kind = 18 ∧ !isDuplicate s a then a.answer.map (·.1) else none
  | none => none

/-- The answer that a waiter's retry at the lost package owes. -/
def retryAt (pkg : Nat) (e : Entry) : Option ReplyTo :=
  match e.ev with
  | .waiterRetry _ _ _ r => if e.place = some (BitVec.ofNat 12 pkg) then some (replyBase r) else none
  | _ => none

/-- The packets of this package that a peer has not answered. -/
def unanswered (s : State) (pkg : Nat) : List Packet := (peerOf s pkg).out.toList.flatMap fun st => st.packets

/-- Whom the loss of a package fails, besides arms: the waits at its counters, those that are retried or woken, and those
whose request is out there. -/
def lostWaits (pkg : Nat) (s : State) : List ReplyTo :=
  let waits := ((registeredAt s pkg).filter fun w => !w.isArm).map fun w => replyBase w.replyTo
  let woken := (s.sched.agenda.filterMap (wakeOnItsWay s pkg)).filter (!isArmEnd ·)
  (waits ++ s.sched.agenda.filterMap (retryAt pkg) ++ woken).eraseDups.filter fun r =>
    !(unanswered s pkg).any fun q => replyToOf q.ev == r

/-- The arms at counters of a package, registered there or with their WAKE on its way. -/
def lostArms (pkg : Nat) (s : State) : List ReplyTo :=
  ((registeredAt s pkg).filter fun w => w.isArm).map (·.replyTo)
    ++ (s.sched.agenda.filterMap (wakeOnItsWay s pkg)).filter isArmEnd

/-- A packet of this package that the lost one has not answered: its issuer sees LOST_PEER (R413). An arm that the lost
package has taken ends with the others. -/
def failPacket (pkg : Nat) (s : State) (q : Packet) : State :=
  match q.ev with
  | .homeCarm _ _ _ rto armFor =>
    reply rto (.failed dLostPeer (BitVec.ofNat 12 pkg)) (if isDuplicate s q.via then s else armEnds armFor s)
  | ev => failOutbound ev dLostPeer pkg s

/-- A port without the flits for a package that it has not sent. -/
def Port.without (pkg : Nat) (p : Port) : Port :=
  { p with queue := p.queue.map fun l => l.filter fun f => headerDst f.header != pkg }

/-- Nothing for the lost package is left: no packet, no flit that has not been sent, no retry there. -/
def dropPackets (pkg : Nat) (s : State) : State :=
  let p := peerOf s pkg
  let s1 := setPeer pkg { p with out := p.out.map fun st => { st with packets := [] } } s
  { s1 with
    fab := { s1.fab with ports := s1.fab.ports.map (Port.without pkg) }
    sched := { s1.sched with agenda := s1.sched.agenda.filter fun e => !isFor s pkg e && (retryAt pkg e).isNone } }

/-- Every outstanding operation towards the lost package fails with LOST_PEER, and every arm at its counters ends, each once
(R260, R265, R413). -/
def loseOperations (pkg : Nat) (s : State) : State :=
  let s1 := dropRegistered pkg (dropPackets pkg s)
  let s2 := (unanswered s pkg).foldl (failPacket pkg) s1
  let s3 := (lostWaits pkg s).foldl (fun t r => reply r (.failed dLostPeer (BitVec.ofNat 12 pkg)) t) s2
  (lostArms pkg s).foldl armLost s3

/-- LINK_TABLE_SCAN (R384): a signal for each LINK and WATCHES entry that names the lost package, which deletes the entry
as it is taken; WATCHED_BY entries are deleted. -/
def scanLinks (pkg : Nat) (s : State) : State :=
  let named (l : LinkEntry) : Bool := namePkg l.named == pkg && namePkg l.owner == s.ras.pkg.toNat
  let told := s.actors.links.filter fun l => named l && l.kind != .watchedBy
  let s1 := { s with actors := { s.actors with links := s.actors.links.filter fun l => !(named l && l.kind == .watchedBy) } }
  postAll (told.map fun l => .linkSignal
    { dst := l.owner, frm := l.named, origin := l.named, reason := 0x05, detail := place pkg 0
      mon := l.kind == .watches, cascade := false }) s1

/-- A send to the lost package is waited for no longer. -/
def dropSends (pkg : Nat) (s : State) : State :=
  let lost (d : CollDest) : Bool := pkgOfCluster s d.cluster == pkg
  { s with colls := s.colls.map fun c =>
      { c with dests := c.dests.map fun d => if lost d then { d with acked := true } else d } }

/-- Entries with a send to the lost package outstanding fail (R375). -/
def loseColls (pkg : Nat) (s : State) : State :=
  let failing := s.colls.filter fun c => c.st == .active
      && c.dests.any fun d => !d.acked && pkgOfCluster s d.cluster == pkg
  failing.foldl (fun t c => failColl c.cluster c.pid c.colid dLostPeer t) (dropSends pkg s)

/-- Where a restart request has gone. -/
def requestPkg (u : Sup) (c : Child) : Nat := namePkg (if u.toStandby then c.standby else c.place)

/-- Restarts whose request is at the lost package go to their standby placements (R397, R413). -/
def loseRestarts (pkg : Nat) (s : State) : State :=
  s.actors.sups.foldl (fun t u =>
    match u.todo with
    | [] => t
    | i :: _ =>
      if u.request ≠ .idle ∧ namePkg u.name = s.ras.pkg.toNat ∧ (u.children[i]?).any fun c => requestPkg u c == pkg then
        postOwn (.childRestart u.name i) (setSup { u with request := .idle } t)
      else t) s

/-- PEER_DECLARED_LOST (R413): once, with its record and everything that takes effect at once. -/
def declareLost (pkg : Nat) (s : State) : State :=
  if pkg = s.ras.pkg.toNat ∨ (peerOf s pkg).lost then s
  else
    let s1 := meetPeer pkg s
    let s2 := logFabric 1 pkg 0 (setPeer pkg { peerOf s1 pkg with lost := true, timer := none } s1)
    scanLinks pkg (loseRestarts pkg (loseColls pkg (loseOperations pkg s2)))

/-- LOSS_NOTICE. -/
def execLossNotice (pkg : BitVec 12) (s : State) : Out := .next (declareLost pkg.toNat s)

/-- PEER_LOSS_TIMEOUT: the timer has run for 500 µs. -/
def execPeerLossTimeout (pkg : BitVec 12) (s : State) : Out :=
  .next (match (peerOf s pkg.toNat).timer with
    | some t => if t.toNat + 500000 ≤ s.ctr.timeline.toNat then declareLost pkg.toNat s else s
    | none => s)

/-- What a peer's reset leaves of its counters, actors, tables and stations: nothing (R432). -/
def forgetPeer (pkg : Nat) (s : State) : State :=
  let cluster (n : Nat) : Bool := pkgOfCluster s n != pkg
  let core (n : Nat) : Bool := pkgOfCore s n != pkg
  { s with
    ctr := { s.ctr with
      banks := s.ctr.banks.filter fun b => cluster b.1
      cells := s.ctr.cells.filter fun c => cluster (c.1 / 16384) }
    actors := { s.actors with
      table := s.actors.table.filter fun a => core (a.1 / 1024)
      slotOwner := s.actors.slotOwner.filter fun o => core (o.1 / 64)
      links := s.actors.links.filter fun l => namePkg l.owner != pkg
      sups := s.actors.sups.filter fun u => namePkg u.name != pkg }
    colls := s.colls.filter fun c => cluster c.cluster
    stn := { s.stn with
      roots := s.stn.roots.filter fun r => r.1 / 65536 != pkg + 1
      tlb := s.stn.tlb.filter fun t => t.station / 32 != pkg + 1 } }

/-- What this package still has of steps and packets of a peer, which has been reset. -/
def isOf (pkg : Nat) (e : Entry) : Bool :=
  e.place == some (BitVec.ofNat 12 pkg) || e.via.any fun a => a.src.toNat == pkg || a.dst.toNat == pkg

/-- PEER_READMIT: the streams of the peer, which has been reset, start anew, and nothing of it is on its way. -/
def execPeerReadmit (pkg : BitVec 12) (s : State) : Out :=
  let p := peerOf s pkg.toNat
  .next (if p.lost then
      logFabric 2 pkg.toNat 0
        (setPeer pkg.toNat
          { p with lost := false, timer := none, out := Vector.replicate 4 Stream.zero, inn := Vector.replicate 4 Stream.zero }
          (forgetPeer pkg.toNat
            { s with sched := { s.sched with agenda := s.sched.agenda.filter fun e => !isOf pkg.toNat e } }))
    else s)

/-! ## Permits (R412) -/

/-- PERMIT_TABLE_WRITE: the entry of one source package. -/
def execPermitTableWrite (pkg : BitVec 12) (bits : BitVec 5) (s : State) : Out :=
  let s1 := meetPeer pkg.toNat s
  .next (setPeer pkg.toNat { peerOf s1 pkg.toNat with permits := bits } s1)

/-! ## Resends (R410) -/

/-- A packet is sent again with its RID, once its stream has a port (R407); where the first one has reached its destination,
the second one follows it. -/
def resendPacket (q : Packet) (s : State) : State :=
  let pkg := q.via.dst.toNat
  match streamPort s (flitHeader q.via) with
  | none => s
  | some k =>
    let st := outStream s pkg q.via.channel
    let packets := updateFirst (fun r => r.via.rid == q.via.rid) (fun r => { r with sent := s.ctr.timeline }) st.packets
    let s1 := handFlits q.via q.ev k (setOut pkg q.via.channel { st with packets := packets } s)
    if s.sched.agenda.any fun e => e.via == some q.via then s1
    else enter { ev := q.ev, via := some q.via, place := placeOf s pkg } s1

/-- END_TO_END_RESEND: of a packet of channel 0, 2 or 3 that has left and has not been answered. -/
def execEndToEndResend (pkg : BitVec 12) (ch : Channel) (rid : Nat) (s : State) : Out :=
  .next (match (outStream s pkg.toNat ch).packets.find? fun q => q.left && q.via.rid == rid with
    | some q => if isAnswer q.via then s else resendPacket q s
    | none => s)

/-! ## Links and ports (R403, R407, R409, R413) -/

/-- LINK_RETRY: the flits from the discarded one on are sent again, which is counted. -/
def execLinkRetry (port : BitVec 5) (seq : BitVec 12) (s : State) : Out :=
  let p := portAt s port.toNat
  let again := p.unacked.dropWhile fun f => trailerSeq f.trailer != seq
  .next (if again.isEmpty then s
    else countCorrected 6 (setPort port.toNat { p with resent := p.resent + again.length } s))

/-- A flit without its SEQ. -/
def unstamp (f : Flit) : Flit := { f with trailer := f.trailer &&& ((1 : Word) <<< 52) - 1 }

/-- A flit goes to the port that R407 gives its package. -/
def moveFlit (f : Flit) (s : State) : State :=
  match portFor s (headerDst f.header) with
  | none => s
  | some k => setPort k ((portAt s k).enqueue (headerChannel f.header) [unstamp f]) s

/-- The flits of a port out of service are sent again on the next ports, once there is one (R407). -/
def movePort (k : Nat) (s : State) : State :=
  let p := portAt s k
  if p.trained || p.flits.isEmpty || (portFor s 0).isNone then s
  else p.flits.foldl (fun t f => moveFlit f t)
    (setPort k { p with queue := Vector.replicate 4 [], unacked := [], resent := p.resent + p.unacked.length } s)

/-- Every port sends what it may, and every stream tries again. -/
def settlePorts (s : State) : State :=
  leaveAll ((List.range 32).foldl (fun t k => pumpPort k t) ((List.range 32).foldl (fun t k => movePort k t) s))

/-- FABRIC_LANE_FAILURE: the spare lane comes in; without one the port leaves service (R403, R426). -/
def execFabricLaneFailure (port : BitVec 5) (s : State) : Out :=
  let n := port.toNat
  let p := portAt s n
  let s1 := lastingError 6 dNone n s
  .next (if p.lanesLost = 0 then takenOver 6 n (logLevel 4 6 dNone n (setPort n { p with lanesLost := 1 } s1))
    else settlePorts (logLevel 5 6 dNone n (setPort n { p with lanesLost := p.lanesLost + 1, trained := false } s1)))

/-- FLIT_ACKNOWLEDGEMENT: the flits up to SEQ are acknowledged; the loss timers of their packages restart, or stop when
nothing is left unacknowledged, and the port and the streams go on (R407, R409, R413). -/
def execFlitAcknowledgement (pkg : BitVec 12) (seq : BitVec 12) (s : State) : Out :=
  let ofIt (f : Flit) : Bool := headerDst f.header == pkg.toNat && trailerSeq f.trailer == seq
  .next (match (List.range 32).find? fun k => (portAt s k).unacked.any ofIt with
    | none => s
    | some k =>
      let p := portAt s k
      let left := (p.unacked.dropWhile fun f => !ofIt f).drop 1
      let acked := p.unacked.take (p.unacked.length - left.length)
      let s1 := setPort k { p with unacked := left } s
      leaveAll (pumpPort k ((acked.map fun f => headerDst f.header).eraseDups.foldl (fun t d => restartTimer d t) s1)))

/-- PORT_TRAINING_COMPLETE: a port with four good lanes enters service, once the package has its number (R433). -/
def execPortTrainingComplete (port : BitVec 5) (s : State) : Out :=
  let p := portAt s port.toNat
  .next (if s.ras.pkgSet ∧ p.lanesLost ≤ 1 then settlePorts (setPort port.toNat { p with trained := true } s) else s)

end Sys2Proof.Machine
end

