-- ==== Sys2Proof/Machine/Power.lean ====
section
/-!
DEFINITION. Clocks, power and bring-up (R20, R432 to R434), and the management interface (R56, R435 to R437).
-/
namespace Sys2Proof.Machine

/-! ## Clocks and temperature -/

/-- The clock of cores, Arrays and tree network, from 1.5 to 3.0 GHz in steps of 100 MHz, with a record of each step. -/
def stepClock (up : Bool) (s : State) : State :=
  let c := if up then min 30 (s.ras.clock + 1) else max 15 (s.ras.clock - 1)
  if c = s.ras.clock then s else report (.clock c) (logPackage 9 0 c 0 { s with ras := { s.ras with clock := c } })

def execPowerClockStep (up : Bool) (s : State) : Out := .next (stepClock up s)

/-- THERMAL_THROTTLE: at 105 °C the clock steps down. -/
def execThermalThrottle (die : BitVec 2) (celsius : BitVec 16) (s : State) : Out :=
  .next (if 105 ≤ celsius.toNat then stepClock false (report (.thermal die celsius) s) else s)

/-- THERMAL_SHUTDOWN: at 115 °C the cores stop, with a record and MSI-X vector 66; a TJ4-M384 then removes core power (R1,
R434). -/
def execThermalShutdown (die : BitVec 2) (celsius : BitVec 16) (s : State) : Out :=
  .next (if 115 ≤ celsius.toNat then
      let s1 := logPackage 10 0 celsius.toNat die.toNat (report (.thermal die celsius) { s with ras := { s.ras with stopped := true } })
      { s1 with
        host := { s1.host with msix := s1.host.msix ++ [66] }
        ras := { s1.ras with corePower := s1.ras.corePower && !Config.isModule } }
    else s)

/-! ## Power gating (R434) -/

/-- The hart of a core is IDLE: the dispatcher has control and no actor is runnable. -/
def coreIdle (s : State) (core : Nat) : Bool :=
  (actorsOn s core).isEmpty && (core != ownCore s || s.hart.disp)

/-- CORE_POWER_GATING. -/
def execCorePowerGating (core : BitVec 12) (s : State) : Out :=
  .next (if coreIdle s core.toNat ∧ !s.ras.gated.contains core.toNat then
      { s with ras := { s.ras with gated := s.ras.gated ++ [core.toNat] } }
    else s)

/-- CORE_WAKE. -/
def execCoreWake (core : BitVec 12) (s : State) : Out := .next (wakeCore core.toNat s)

/-! ## Reset and power loss (R432, R436) -/

/-- Locations that lie outside the package: host memory and the HBM of peers. -/
def outside (key : Nat) : Bool := (decide (hostBase ≤ key) && decide (key < ownBase)) || decide (peerBase ≤ key)

/-- What a reset leaves of the error state: the repair record, the key index, and where the ROM stays. -/
def rasAfterReset (r : Ras) : Ras :=
  { Ras.reset with
    poison := r.poison.filter outside, deadChannels := r.deadChannels, spares := r.spares, moved := r.moved
    vacant := r.vacant, standbyUsed := r.standbyUsed, adopted := r.adopted, keyIndex := r.keyIndex }

/-- A counter after a reset: FREE, and worn as before (R426). -/
def wornCounters (cells : Tab Counter) : Tab Counter :=
  (cells.filter fun c => c.2.worn || decide (256 * 16384 ≤ c.1)).map fun c =>
    if 256 * 16384 ≤ c.1 then c else (c.1, { Counter.zero with worn := true })

/-- PACKAGE_RESET: the machine after reset (R432), with what lies outside it, the repair record and the next key index; a
ROM that rejects the image reports it (R435). -/
def resetPackage (s : State) : State :=
  { State.reset with
    coreid := s.coreid
    mem := s.mem.filter fun c => outside c.1
    arr := { ArrayUnit.reset with outOfService := s.arr.outOfService, spareRow := s.arr.spareRow }
    ctr := { Counters.reset with
      banks := s.ctr.banks.filter fun b => decide (256 ≤ b.1)
      cells := wornCounters s.ctr.cells }
    actors := { State.reset.actors with table := s.actors.table.filter fun a => decide (4096 * 1024 ≤ a.1) }
    host := { State.reset.host with
      answers := s.host.answers, msix := s.host.msix, mgmt := s.host.mgmt ++ State.reset.host.mgmt }
    fab := { State.reset.fab with ports := s.fab.ports.map fun p => { Port.reset with lanesLost := p.lanesLost } }
    ras := rasAfterReset s.ras
    sched := { s.sched with agenda := [] } }

def execPackageReset (s : State) : Out := .next (resetPackage s)

/-- POWER_LOSS: nothing but a reset happens any more; a key index that was committed stays spent. -/
def execPowerLoss (s : State) : Out :=
  .next { s with
    ras := { s.ras with powered := false }
    sched := { s.sched with agenda := s.sched.agenda.filter fun e => e.ev == .packageReset } }

/-! ## The management interface (R56, R437) -/

/-- MACHINE_EXTERNAL_EVENT: interrupt 11. -/
def execMachineExternalEvent (s : State) : Out := .next (setPending 11 s)

/-- n bytes of a number, highest first. -/
def bigEndian (n v : Nat) : List Byte := (bytesOf n v).reverse

/-- Bytes 0 to 91 of a report. -/
def reportHead (nonce : List Byte) (index : Nat) : List Byte :=
  bigEndian 4 1 ++ (List.range 16).map Config.serialByte ++ nonce ++ (List.range 32).map Config.firmwareDigestByte
    ++ bigEndian 2 Config.securityVersion.toNat ++ bigEndian 2 0 ++ bigEndian 4 index

/-- An LMS signature of type LMS_SHA256_M32_H15 with LMOTS_SHA256_N32_W8 in the encoding of RFC 8554: q, the LM-OTS type, C
and y, the LMS type, the path. -/
def signature (index : Nat) (head : List Byte) : List Byte :=
  bigEndian 4 index ++ bigEndian 4 4 ++ (List.range 1120).map (Config.signatureByte index head) ++ bigEndian 4 7
    ++ (List.range 480).map fun i => Config.signatureByte index head (1120 + i)

/-- Whether the firmware answers the management interface. -/
def firmwareRuns (s : State) : Bool := coresRun s

/-- A request is met: a key index is spent before its signature leaves the package; with no index left the report carries
no signature (R436, R437). -/
def attest (nonce : List Byte) (s : State) : State :=
  let k := s.ras.keyIndex
  if k < 32768 then
    postOwn (.attestationRequest (.spent nonce k)) { s with ras := { s.ras with keyIndex := k + 1 } }
  else report (.answer (reportHead nonce 0xFFFFFFFF)) s

/-- The report under a key index that has been spent. -/
def releaseReport (nonce : List Byte) (index : Nat) (s : State) : State :=
  let head := reportHead nonce index
  report (.answer (head ++ signature index head)) s

/-- ATTESTATION_REQUEST, with a 32-byte nonce: the commitment of a key index, and then the report. -/
def execAttestationRequest (request : Attestation) (s : State) : Out :=
  .next (if !firmwareRuns s then s
    else
      match request with
      | .asked nonce => if nonce.length = 32 then attest nonce s else s
      | .spent nonce k => if nonce.length = 32 ∧ k < s.ras.keyIndex then releaseReport nonce k s else s)

/-- IDENTITY_KEY_REQUEST: an LMS public key of RFC 8554: its two type codes, the tree's identifier and root. -/
def execIdentityKeyRequest (s : State) : Out :=
  .next (if firmwareRuns s then
      report (.answer (bigEndian 4 7 ++ bigEndian 4 4 ++ (List.range 48).map Config.identityKeyByte)) s
    else s)

end Sys2Proof.Machine
end

