-- ==== Sys2Proof/Machine/Ras.lean ====
section
/-!
DEFINITION. Errors and spares (R423 to R431, R477): the scrubber and what it finds, and the retirement of a core.
-/
namespace Sys2Proof.Machine

/-! ## Errors found (R425, R430, R431) -/

/-- The detail code of an error at a level. -/
def levelDetail (n key : Nat) : Detail :=
  if n = 1 ∧ arrayRowKey ≤ key then dArrayUncorrectable
  else if n ≤ 1 then dRegisterUncorrectable else dMemoryUncorrectable

/-- Whether a record about an element is for a log that this cluster or the package keeps. -/
def logsHere (s : State) (n key : Nat) : Bool :=
  if n = 2 then key / scratchBytes / 16 == ownCluster s
  else if n = 3 then decide (bufferKey ≤ key) || key / 16384 == ownCluster s else true

def logElement (kind n key : Nat) (s : State) : State :=
  if logsHere s n key then logLevel kind n (levelDetail n key) key s else s

def countTransient (n : Nat) : State → State := updateLevel n fun l => { l with transient := satInc l.transient }
def countLasting (n : Nat) : State → State := updateLevel n fun l => { l with lasting := satInc l.lasting }

/-! ## Spares (R426, R427) -/

/-- Takes a spare of an element when one of `limit` is left. -/
def takeSpare (n element limit : Nat) (s : State) : Option State :=
  let k := n * 2 ^ 40 + element
  let used := Tab.getD s.ras.spares k 0
  if used < limit then some { s with ras := { s.ras with spares := Tab.put s.ras.spares k (used + 1) } } else none

/-- A word that could not be read. -/
def poisonWord (key : Nat) (s : State) : State :=
  let w := key / 8 * 8
  if s.ras.poison.contains w then s else { s with ras := { s.ras with poison := s.ras.poison ++ [w] } }

/-- A register by its RegId (R53). -/
def regOfId (k : Nat) : RegName := if k < 32 then .x k else if k < 64 then .v (k - 32) else .m (k - 64)

/-- A lasting error in a tile register of this core: the register is FAULTED, and the core is retired. -/
def tileLost (key : Nat) (s : State) : State :=
  let r := regOfId key
  let s1 := if regState s r = .full then
      setRegState r (.faulted s.hart.pc (dfinfoWord s.ras.pkg.toNat 0 0 11 dRegisterUncorrectable)) s
    else s
  askRetirement s.coreid 1 s1

/-- A lane group leaves service: no set with it stays reserved, and a run that holds it and is at a command boundary ends
there (R427). -/
def laneGroupLost (g : Nat) (s : State) : State :=
  let m : BitVec 4 := BitVec.ofNat 4 (1 <<< g)
  let s1 := { s with arr := { s.arr with
    outOfService := s.arr.outOfService ||| m, reserve := s.arr.reserve.filter fun r => r.2 &&& m == 0, due := true } }
  (List.range 16).foldl (fun t n =>
    let l := leaseOf t n
    if l.st == .held && l.mask &&& m != 0 && atBoundary t n then yieldLease n t else t)
    (post .leaseGrant s1)

/-- A lasting error in an Array row of lane group g: the command that executes there fails, and the spare row comes in,
or the lane group leaves service. -/
def arrayRowLost (key : Nat) (s : State) : State :=
  let g := key % 4
  let runs := s.arr.running.isSome && (leaseOf s (ownMember s)).mask.getLsbD g
  let s1 := if runs then { s with arr := { s.arr with hit := some g } } else s
  if s1.arr.spareRow.getLsbD g then logElement 5 1 key (laneGroupLost g s1)
  else
    takenOver 1 key (logElement 4 1 key
      { s1 with arr := { s1.arr with spareRow := s1.arr.spareRow ||| BitVec.ofNat 4 (1 <<< g) } })

/-- A lasting error in a scratchpad row: one of the bank's 8 spare rows, or the core is retired. -/
def scratchLost (key : Nat) (s : State) : State :=
  let core := key / scratchBytes
  match takeSpare 2 (core * 2 ^ 20 + Config.scratchBank (key % scratchBytes)) 8 (poisonWord key s) with
  | some t => takenOver 2 key (logElement 4 2 key t)
  | none => askRetirement (BitVec.ofNat 12 core) 1 (logElement 5 2 key (poisonWord key s))

/-- A lasting error in a counter: a LIVE one becomes POISONED, and the index is never chosen again. -/
def counterLost (key : Nat) (s : State) : State :=
  let c := counterAt s key
  if key % 16384 = 0 then s
  else
    let s1 := setCounter key { c with worn := true } s
    if c.st = .live then poisonCounter key s1 else s1

/-- A lasting error in an HBM word: one of the stack's 2 spare channels (R475: 48 × 10^9 bytes to a stack), or the
channel fails every access. -/
def hbmLost (off : Nat) (s : State) : State :=
  match takeSpare 5 (off / 0xB2D05E000) 2 (poisonWord (ownBase + off) s) with
  | some t => takenOver 5 off (logElement 4 5 off t)
  | none => logElement 5 5 off
      { s with ras := { s.ras with deadChannels := Config.hbmChannel off :: s.ras.deadChannels } }

/-- A cached line or instruction with a parity error is dropped: a line is served from its home, and an instruction is
fetched again (R423). -/
def cacheDropped (key : Nat) (s : State) : State :=
  let s1 := dropLine key s
  { s1 with stn := { s1.stn with icache := Tab.drop s1.stn.icache key } }

/-- An instruction that cannot be read gives cause 1 to the fetch that meets it (R423). -/
def cacheLost (key : Nat) (s : State) : State :=
  if (Tab.find? s.stn.icache key).isSome then { s with stn := { s.stn with badLines := key :: s.stn.badLines } }
  else cacheDropped key s

/-! ### Buffers (R423) -/

/-- Changes entry `n` of a list. -/
def updateNth {α : Type} (n : Nat) (f : α → α) (l : List α) : List α :=
  (List.range l.length).zip l |>.map fun x => if x.1 = n then f x.2 else x.2

/-- A store entry that cannot be read fails when it is tried; a record in the send buffer is not sent. -/
def loseItem : DrainItem → DrainItem
  | .store e => if e.out.isSome then .store e else .store { e with lost := true }
  | .release id ({ ev := .recordAdmit _, .. } :: _) => .release id []
  | i => i

/-- Entry `n` of the records that the mailbox agents have in hand is lost. -/
def loseRecord (n : Nat) (s : State) : State :=
  let inHand (e : Entry) : Bool := e.via.isNone && match e.ev with | .recordAdmit _ => true | _ => false
  let at_ := ((List.range s.sched.agenda.length).filter fun k => (s.sched.agenda[k]?).any inHand)[n]?
  match at_ with
  | some k => { s with sched := { s.sched with agenda := s.sched.agenda.eraseIdx k } }
  | none => s

/-- A lasting error in an entry of the drain queue or the send buffer (structure 0), of the Array's command queue (1) or result
queue (2), or of a mailbox agent (3): the entry's operation fails. For an entry of the cluster's tables R423 points to
R426, which says nothing of it, and nothing more happens (assumption 94). -/
def bufferLost (k : Nat) (s : State) : State :=
  let n := k % 2 ^ 20
  let info := dfinfoWord s.ras.pkg.toNat 0 0 10 dMemoryUncorrectable
  match k / 2 ^ 20 with
  | 0 => { s with off := { s.off with drain := updateNth n loseItem s.off.drain } }
  | 1 => { s with arr := { s.arr with
      queue := updateNth n (fun c => { c with doom := some (c.doom.getD (c.pc, info)) }) s.arr.queue } }
  | 2 => { s with arr := { s.arr with
      results := updateNth n (fun r => (r &&& (0xFFF : Word) <<< 48) ||| place 1 37) s.arr.results } }
  | 3 => loseRecord n s
  | _ => s

/-- What replaces an element with a lasting error. -/
def replaceElement (n key : Nat) (s : State) : State :=
  if n = 0 then { s with ras := { s.ras with regErrors := s.ras.regErrors ++ [{ reg := regOfId key, correctable := false }] } }
  else if n = 1 then (if arrayRowKey ≤ key then arrayRowLost key s else tileLost key s)
  else if n = 2 then scratchLost key s
  else if n = 3 then (if bufferKey ≤ key then bufferLost (key - bufferKey) s else counterLost key s)
  else if n = 4 then cacheLost key s
  else if n = 5 then hbmLost key s
  else s

/-- A visit of a level's first word begins a pass of its scrubber, and with it the pass before is complete; a level without a
scrubber, and one that is stopped, makes no pass (R429). -/
def passBegins (n : Nat) (s : State) : State :=
  if n = 1 ∨ n = 2 ∨ n = 3 ∨ n = 5 then
    updateLevel n (fun l =>
      if l.period = 0 then l else { l with begun := true, passes := if l.begun then l.passes + 1 else l.passes }) s
  else s

/-- What a correctable error leaves: a count (R424); a register's error waits for the read that meets it (R121), and a
cached line is dropped. -/
def correctElement (n key : Nat) (s : State) : State :=
  if n = 0 then { s with ras := { s.ras with regErrors := s.ras.regErrors ++ [{ reg := regOfId key, correctable := true }] } }
  else if n = 4 then countCorrected 4 (cacheDropped key s)
  else countCorrected n s

/-- SCRUB_VISIT: one word of a level, and what was found there. -/
def execScrubVisit (level : BitVec 3) (key : Nat) (found : ScrubFinding) (s0 : State) : Out :=
  let n := level.toNat
  let s := if key = 0 then passBegins n s0 else s0
  .next (match found with
    | .clean => s
    | .corrected => correctElement n key s
    | .transient => logElement 2 n key (countTransient n s)
    | .lasting =>
      if n = 0 then replaceElement 0 key s else replaceElement n key (logElement 3 n key (countLasting n s)))

/-! ## The retirement of a core (R428) -/

/-- The names of the live actors of a core. -/
def liveOn (s : State) (core : Nat) : List Word :=
  ((actorsOn s core).filter fun x => x.2.st.live).map fun x => nameAt s core (x.1 % 1024)

/-- Step 1: the member is SPARING, the hart stops, and every actor enters EXITING with reason HARDWARE. The parts of R102
that act on the hart are carried out only for a run in U-mode (R476). -/
def retireBegins (core : Nat) (s : State) : State :=
  let s0 := if core = ownCore s && s.hart.priv == .user && !s.hart.disp then endRun s else s
  let s1 := { s0 with ras := { s0.ras with sparing := s0.ras.sparing ++ [core] } }
  (liveOn s1 core).foldl (fun t name =>
    let t1 := if core = ownCore t then stopTransfers name t else t
    enterExiting name (deathOf name 0x09 (place (core % 4096) 0)) t1) s1

/-- Whether a key lies in a job's pools of a core, by the directory as it stands (R299). -/
def inPools (s : State) (core key : Nat) : Bool :=
  decide (key / scratchBytes = core) && (List.range 4).any fun j =>
    let p := placementOf (dirWord s core j 1) (dirWord s core j 2) (dirWord s core j 3) (dirWord s core j 4) (dirWord s core j 5)
    let a := key % scratchBytes
    bit (dirWord s core j 0) 16 &&
      ((decide (p.sbase ≤ a) && decide (a < p.slimit)) || (decide (p.wbase ≤ a) && decide (a < p.wlimit))
        || bit p.tslots (a / 0x2000))

/-- Step 2: the standby's scratchpad is zero but for the directory and what lies outside the pools; words that could not be
read are poisoned. -/
def copyCore (core : Nat) (s : State) : State :=
  { s with
    mem := s.mem.filter fun c => !inPools s core c.1
    ras := { s.ras with poison := s.ras.poison.filter fun w => !inPools s core w } }

/-- An answer that the retired hart itself waited for goes nowhere. -/
def orphanReply (s : State) (r : ReplyTo) : ReplyTo :=
  if replyKey s r = (s.ras.pkg.toNat, .hart) then rebase r .none else r

def orphanStep (s : State) (ev : Instr) : Instr := withReply (orphanReply s (replyToOf ev)) ev

def orphanEntry (s : State) (e : Entry) : Option Entry :=
  match e.ev with
  | .counterResponseArrival _ => none
  | ev => some { e with
      ev := orphanStep s ev
      via := e.via.map fun a => { a with answer := a.answer.map fun x =>
        if a.dst = s.ras.pkg ∧ x.1 = .hart then (.none, x.2) else x } }

/-- Nothing that comes later is taken for an answer to the hart that adopts the number; no waiter is removed (R247). -/
def orphanAnswers (s : State) : State :=
  { s with
    sched := { s.sched with agenda := s.sched.agenda.filterMap (orphanEntry s) }
    fab := { s.fab with peers := s.fab.peers.map fun (n, p) =>
      (n, { p with out := p.out.map fun st => { st with packets := st.packets.map fun q => { q with ev := orphanStep s q.ev } } }) }
    ctr := { s.ctr with waiters := s.ctr.waiters.map fun w => { w with replyTo := orphanReply s w.replyTo } } }

/-- Step 3 on this core: the standby's hart starts in M-mode at the adoption entry, its registers FULL and zero; it has no
commands, no lease and no producers, and the waiters of the retired hart stay in their tables with nobody to wake. -/
def adoptHart (s0 : State) : State :=
  let s := clearArray (orphanAnswers s0)
  { s with
    hart := { Hart.reset with pc := Config.adoptionEntry }
    user := UserCsrs.reset, act := ActCsrs.zero, sup := SupCsrs.reset, mach := MachCsrs.reset
    off := { OffCore.reset with nextId := s.off.nextId, epoch := s.off.epoch + 1 }
    stn := { s.stn with icache := [], badLines := [] }
    ras := { s.ras with regErrors := [] } }

/-- A record of a retired core, in the log of its cluster (R477). -/
def logRetired (core cause by_ : Nat) (s : State) : State :=
  if core / 16 = ownCluster s then logCluster 6 0 cause (core + by_ * 2 ^ 12) s else s

/-- Steps 2 and 3, or the number becomes vacant (R426). The adopting core has its own spare rows. -/
def retireEnds (core cause : Nat) (s : State) : State :=
  let s0 := { s with ras := { s.ras with sparing := s.ras.sparing.filter fun c => c != core } }
  if s.ras.standbyUsed.contains (core / 16) then
    logRetired core cause 31 { s0 with ras := { s0.ras with vacant := s0.ras.vacant ++ [core] } }
  else
    let ofCore (k : Nat) : Bool := k / 2 ^ 40 == 2 && k % 2 ^ 40 / 2 ^ 20 == core
    let rowOf (k : Nat) : Bool := k / 2 ^ 40 == 2 && k % 2 ^ 40 * 64 / scratchBytes == core
    let s1 := copyCore core { s0 with ras := { s0.ras with
      spares := s0.ras.spares.filter fun x => !ofCore x.1
      moved := s0.ras.moved.filter fun x => !rowOf x.1
      standbyUsed := s0.ras.standbyUsed ++ [core / 16], adopted := s0.ras.adopted ++ [core], gated := s0.ras.gated.filter fun c => c != core } }
    logRetired core cause 16 (if core = ownCore s1 then adoptHart s1 else s1)

/-- CORE_RETIREMENT, in two parts, between which the member is SPARING; a core is retired once at a time. -/
def execCoreRetirement (core : BitVec 12) (part : Retirement) (s : State) : Out :=
  let n := core.toNat
  let begun := s.ras.sparing.contains n
  .next (if s.ras.vacant.contains n then s
    else
      match part with
      | .begins cause => if begun then s else post (.coreRetirement core (.ends cause)) (retireBegins n s)
      | .ends cause => if begun then retireEnds n cause.toNat s else s)

end Sys2Proof.Machine
end

