-- ==== Sys2Proof/Machine/Stations.lean ====
section
/-!
DEFINITION. stinval (R241, R242): translations are removed from every station of the package.
-/
namespace Sys2Proof.Machine

inductive InvalScope where
  | page | pid | all | root
  deriving DecidableEq, Repr

def invalScope (ctl : Word) : InvalScope :=
  if field ctl 18 2 = 0 then .page else if field ctl 18 2 = 1 then .pid else if field ctl 18 2 = 2 then .all else .root

/-- The control word and x[rs1] obey the tables of R241. -/
def invalOk (s : State) (addr ctl : Word) : Bool :=
  field ctl 20 44 == 0 && !bit ctl 17 &&
  match invalScope ctl with
  | .page => classOf addr == .translated
  | .pid | .all => !bit ctl 16 && addr == 0
  | .root => !bit ctl 16 && (addr == 0 || (field addr 0 12 == 0 && isHbmOf s.ras.pkg.toNat addr.toNat))

/-- Whether a cached leaf is removed. -/
def invalHits (addr ctl : Word) (t : TlbEntry) : Bool :=
  let pid : Pid := ctl.extractLsb' 0 16
  match invalScope ctl with
  | .page => t.vpn == pageNumber addr.toNat t.level
      && ((t.pid == pid && !leafG t.leaf) || (bit ctl 16 && leafG t.leaf))
  | .pid => t.pid == pid && !leafG t.leaf
  | .all => true
  | .root => t.pid == pid

/-- The entries removed in all stations of the package, and the root set for ROOT. -/
def invalidateEntries (addr ctl : Word) (s : State) : State :=
  let pid := field ctl 0 16
  { s with stn := { s.stn with
      tlb := s.stn.tlb.filter fun t => decide (32 ≤ t.station) || !invalHits addr ctl t
      roots := match invalScope ctl with
        | .root => if addr = 0 then Tab.drop s.stn.roots pid else Tab.put s.stn.roots pid (addr.toNat % 2 ^ 45)
        | .page | .pid | .all => s.stn.roots } }

/-- A request that has been translated and has not completed at its home: also a copy engine's update of an element at
another package. -/
def requestsInFlight (s : State) : Bool :=
  (s.off.jobs.any fun j => j.issued.any fun p => p.key.isSome)
    || (s.transfers.any fun t => t.key.isSome)
    || s.sched.agenda.any fun e => (homeAccess e.ev).isSome

/-- While translated requests are in flight the instruction waits, interruptibly, with the entries already removed. -/
def invalidate (addr ctl : Word) (s : State) : State :=
  let s1 := invalidateEntries addr ctl s
  if requestsInFlight s1 then stall s1 else retire (invalidateStrand s1)

def execStinval (a : RT) : State → Out :=
  let i := Instr.stinval a
  instr [noPrefix i, checkS i, checkHeld, checkSources [srcX a.rs1 false, srcX a.rs2 false],
      stopIf (fun s => !invalOk s (xval s a.rs1) (xval s a.rs2)) (trapIllegal i), stopIf writesOutstanding stall]
    fun s => invalidate (xval s a.rs1) (xval s a.rs2) s

end Sys2Proof.Machine
end

