-- ==== Sys2Proof/Machine/Dispatch.lean ====
section
/-!
DEFINITION. One arm per step of the table.
-/
namespace Sys2Proof.Machine

def exec (i : Instr) (s : State) : Host.Outcome State Fault Refusal :=
  match i with
  | .lb a => Sys2Proof.Machine.execLb a s
  | .lh a => Sys2Proof.Machine.execLh a s
  | .lw a => Sys2Proof.Machine.execLw a s
  | .ld a => Sys2Proof.Machine.execLd a s
  | .lbu a => Sys2Proof.Machine.execLbu a s
  | .lhu a => Sys2Proof.Machine.execLhu a s
  | .lwu a => Sys2Proof.Machine.execLwu a s
  | .sb a => Sys2Proof.Machine.execSb a s
  | .sh a => Sys2Proof.Machine.execSh a s
  | .sw a => Sys2Proof.Machine.execSw a s
  | .sd a => Sys2Proof.Machine.execSd a s
  | .integerOp a => Sys2Proof.Machine.execIntegerOp a s
  | .lui a b => Sys2Proof.Machine.execLui a b s
  | .auipc a b => Sys2Proof.Machine.execAuipc a b s
  | .branch a => Sys2Proof.Machine.execBranch a s
  | .jump a => Sys2Proof.Machine.execJump a s
  | .fence a b => Sys2Proof.Machine.execFence a b s
  | .fenceTso a => Sys2Proof.Machine.execFenceTso a s
  | .fenceI a b c => Sys2Proof.Machine.execFenceI a b c s
  | .multiplyDivide a b c d => Sys2Proof.Machine.execMultiplyDivide a b c d s
  | .bitManipulation a => Sys2Proof.Machine.execBitManipulation a s
  | .lrW a => Sys2Proof.Machine.execLrW a s
  | .lrD a => Sys2Proof.Machine.execLrD a s
  | .scW a => Sys2Proof.Machine.execScW a s
  | .scD a => Sys2Proof.Machine.execScD a s
  | .amoswapW a => Sys2Proof.Machine.execAmoswapW a s
  | .amoswapD a => Sys2Proof.Machine.execAmoswapD a s
  | .amoaddW a => Sys2Proof.Machine.execAmoaddW a s
  | .amoaddD a => Sys2Proof.Machine.execAmoaddD a s
  | .amoandW a => Sys2Proof.Machine.execAmoandW a s
  | .amoandD a => Sys2Proof.Machine.execAmoandD a s
  | .amoorW a => Sys2Proof.Machine.execAmoorW a s
  | .amoorD a => Sys2Proof.Machine.execAmoorD a s
  | .amoxorW a => Sys2Proof.Machine.execAmoxorW a s
  | .amoxorD a => Sys2Proof.Machine.execAmoxorD a s
  | .amominW a => Sys2Proof.Machine.execAmominW a s
  | .amominD a => Sys2Proof.Machine.execAmominD a s
  | .amominuW a => Sys2Proof.Machine.execAmominuW a s
  | .amominuD a => Sys2Proof.Machine.execAmominuD a s
  | .amomaxW a => Sys2Proof.Machine.execAmomaxW a s
  | .amomaxD a => Sys2Proof.Machine.execAmomaxD a s
  | .amomaxuW a => Sys2Proof.Machine.execAmomaxuW a s
  | .amomaxuD a => Sys2Proof.Machine.execAmomaxuD a s
  | .csrrw a => Sys2Proof.Machine.execCsrrw a s
  | .csrrs a => Sys2Proof.Machine.execCsrrs a s
  | .csrrc a => Sys2Proof.Machine.execCsrrc a s
  | .csrrwi a => Sys2Proof.Machine.execCsrrwi a s
  | .csrrsi a => Sys2Proof.Machine.execCsrrsi a s
  | .csrrci a => Sys2Proof.Machine.execCsrrci a s
  | .sfenceVma a b => Sys2Proof.Machine.execSfenceVma a b s
  | .vadd a => Sys2Proof.Machine.execVadd a s
  | .vsub a => Sys2Proof.Machine.execVsub a s
  | .vmul a => Sys2Proof.Machine.execVmul a s
  | .vfma a => Sys2Proof.Machine.execVfma a s
  | .vfms a => Sys2Proof.Machine.execVfms a s
  | .vmin a => Sys2Proof.Machine.execVmin a s
  | .vmax a => Sys2Proof.Machine.execVmax a s
  | .vsel a => Sys2Proof.Machine.execVsel a s
  | .vand a => Sys2Proof.Machine.execVand a s
  | .vor a => Sys2Proof.Machine.execVor a s
  | .vxor a => Sys2Proof.Machine.execVxor a s
  | .vsll a => Sys2Proof.Machine.execVsll a s
  | .vsrl a => Sys2Proof.Machine.execVsrl a s
  | .vsra a => Sys2Proof.Machine.execVsra a s
  | .vcmpeq a => Sys2Proof.Machine.execVcmpeq a s
  | .vcmplt a => Sys2Proof.Machine.execVcmplt a s
  | .vcmple a => Sys2Proof.Machine.execVcmple a s
  | .vaddx a => Sys2Proof.Machine.execVaddx a s
  | .vmulx a => Sys2Proof.Machine.execVmulx a s
  | .vfmx a => Sys2Proof.Machine.execVfmx a s
  | .vbcast a => Sys2Proof.Machine.execVbcast a s
  | .vrcp a => Sys2Proof.Machine.execVrcp a s
  | .vrsq a => Sys2Proof.Machine.execVrsq a s
  | .vexp2 a => Sys2Proof.Machine.execVexp2 a s
  | .vlog2 a => Sys2Proof.Machine.execVlog2 a s
  | .vredsum a => Sys2Proof.Machine.execVredsum a s
  | .vredmax a => Sys2Proof.Machine.execVredmax a s
  | .vredmin a => Sys2Proof.Machine.execVredmin a s
  | .vidx a => Sys2Proof.Machine.execVidx a s
  | .vmov a => Sys2Proof.Machine.execVmov a s
  | .vdot4 a => Sys2Proof.Machine.execVdot4 a s
  | .vld a => Sys2Proof.Machine.execVld a s
  | .vst a => Sys2Proof.Machine.execVst a s
  | .vlds a => Sys2Proof.Machine.execVlds a s
  | .vsts a => Sys2Proof.Machine.execVsts a s
  | .vldx a => Sys2Proof.Machine.execVldx a s
  | .vstx a => Sys2Proof.Machine.execVstx a s
  | .vgld a => Sys2Proof.Machine.execVgld a s
  | .vslup a => Sys2Proof.Machine.execVslup a s
  | .vsldn a => Sys2Proof.Machine.execVsldn a s
  | .vperm a => Sys2Proof.Machine.execVperm a s
  | .vcvt a => Sys2Proof.Machine.execVcvt a s
  | .vqblk a => Sys2Proof.Machine.execVqblk a s
  | .vdqblk a => Sys2Proof.Machine.execVdqblk a s
  | .tld a => Sys2Proof.Machine.execTld a s
  | .tst a => Sys2Proof.Machine.execTst a s
  | .tzero a => Sys2Proof.Machine.execTzero a s
  | .lease a => Sys2Proof.Machine.execLease a s
  | .unlease a => Sys2Proof.Machine.execUnlease a s
  | .mma a => Sys2Proof.Machine.execMma a s
  | .mmz a => Sys2Proof.Machine.execMmz a s
  | .mmaq a => Sys2Proof.Machine.execMmaq a s
  | .tsync a => Sys2Proof.Machine.execTsync a s
  | .tget a => Sys2Proof.Machine.execTget a s
  | .tins a => Sys2Proof.Machine.execTins a s
  | .tcvt a => Sys2Proof.Machine.execTcvt a s
  | .ttrn a => Sys2Proof.Machine.execTtrn a s
  | .loop a b c => Sys2Proof.Machine.execLoop a b c s
  | .fmt a b c d => Sys2Proof.Machine.execFmt a b c d s
  | .mod a b c d e => Sys2Proof.Machine.execMod a b c d e s
  | .cadd a => Sys2Proof.Machine.execCadd a s
  | .cwait a => Sys2Proof.Machine.execCwait a s
  | .cpoll a => Sys2Proof.Machine.execCpoll a s
  | .cwaitt a => Sys2Proof.Machine.execCwaitt a s
  | .cset a => Sys2Proof.Machine.execCset a s
  | .calloc a => Sys2Proof.Machine.execCalloc a s
  | .cfree a => Sys2Proof.Machine.execCfree a s
  | .carm a => Sys2Proof.Machine.execCarm a s
  | .send a => Sys2Proof.Machine.execSend a s
  | .sendg a => Sys2Proof.Machine.execSendg a s
  | .spawn a => Sys2Proof.Machine.execSpawn a s
  | .endh a => Sys2Proof.Machine.execEndh a s
  | .exit a => Sys2Proof.Machine.execExit a s
  | .kill a => Sys2Proof.Machine.execKill a s
  | .link a => Sys2Proof.Machine.execLink a s
  | .unlink a => Sys2Proof.Machine.execUnlink a s
  | .mon a => Sys2Proof.Machine.execMon a s
  | .demon a => Sys2Proof.Machine.execDemon a s
  | .tmov a => Sys2Proof.Machine.execTmov a s
  | .trapx a => Sys2Proof.Machine.execTrapx a s
  | .famoaddS a => Sys2Proof.Machine.execFamoaddS a s
  | .famominS a => Sys2Proof.Machine.execFamominS a s
  | .famomaxS a => Sys2Proof.Machine.execFamomaxS a s
  | .casD a => Sys2Proof.Machine.execCasD a s
  | .colset a => Sys2Proof.Machine.execColset a s
  | .colclr a => Sys2Proof.Machine.execColclr a s
  | .supadd a => Sys2Proof.Machine.execSupadd a s
  | .supdel a => Sys2Proof.Machine.execSupdel a s
  | .stinval a => Sys2Proof.Machine.execStinval a s
  | .ctxsave a => Sys2Proof.Machine.execCtxsave a s
  | .ctxload a => Sys2Proof.Machine.execCtxload a s
  | .producerCompletion a b c => Sys2Proof.Machine.execProducerCompletion a b c s
  | .counterResponseArrival a => Sys2Proof.Machine.execCounterResponseArrival a s
  | .drainEntryPerformed => Sys2Proof.Machine.execDrainEntryPerformed s
  | .stationTranslate a b c d => Sys2Proof.Machine.execStationTranslate a b c d s
  | .homeRead a b c => Sys2Proof.Machine.execHomeRead a b c s
  | .homeWrite a b c => Sys2Proof.Machine.execHomeWrite a b c s
  | .homeAtomic a b c d e f => Sys2Proof.Machine.execHomeAtomic a b c d e f s
  | .reduceElementUpdate a => Sys2Proof.Machine.execReduceElementUpdate a s
  | .homeCalloc a b => Sys2Proof.Machine.execHomeCalloc a b s
  | .homeCadd a b c d => Sys2Proof.Machine.execHomeCadd a b c d s
  | .homeCset a b c d => Sys2Proof.Machine.execHomeCset a b c d s
  | .homeCpoll a b c => Sys2Proof.Machine.execHomeCpoll a b c s
  | .homeCwait a b c d => Sys2Proof.Machine.execHomeCwait a b c d s
  | .homeCarm a b c d e => Sys2Proof.Machine.execHomeCarm a b c d e s
  | .homeCfree a b c => Sys2Proof.Machine.execHomeCfree a b c s
  | .waiterWithdrawal a => Sys2Proof.Machine.execWaiterWithdrawal a s
  | .armFiringArrives a => Sys2Proof.Machine.execArmFiringArrives a s
  | .waiterRetry a b c d => Sys2Proof.Machine.execWaiterRetry a b c d s
  | .cwaittDeadline a => Sys2Proof.Machine.execCwaittDeadline a s
  | .timelineTick a => Sys2Proof.Machine.execTimelineTick a s
  | .hostCounterAdd a b c => Sys2Proof.Machine.execHostCounterAdd a b c s
  | .hostCounterRead a b c => Sys2Proof.Machine.execHostCounterRead a b c s
  | .hostArmThresholdWrite a b c => Sys2Proof.Machine.execHostArmThresholdWrite a b c s
  | .hostQueueEnable a b c d => Sys2Proof.Machine.execHostQueueEnable a b c d s
  | .hostQueueDisable a => Sys2Proof.Machine.execHostQueueDisable a s
  | .hostQueueTailWrite a b => Sys2Proof.Machine.execHostQueueTailWrite a b s
  | .hostQueueForward a => Sys2Proof.Machine.execHostQueueForward a s
  | .doorbellWrite a b => Sys2Proof.Machine.execDoorbellWrite a b s
  | .bar2Write a b => Sys2Proof.Machine.execBar2Write a b s
  | .bar2Read a b c => Sys2Proof.Machine.execBar2Read a b c s
  | .hostCompletionTimeout a => Sys2Proof.Machine.execHostCompletionTimeout a s
  | .recordAdmit a => Sys2Proof.Machine.execRecordAdmit a s
  | .spawnAtTarget a => Sys2Proof.Machine.execSpawnAtTarget a s
  | .cohortSpawnAtMember a b c d => Sys2Proof.Machine.execCohortSpawnAtMember a b c d s
  | .killRequest a => Sys2Proof.Machine.execKillRequest a s
  | .exitWalk a => Sys2Proof.Machine.execExitWalk a s
  | .linkSignal a => Sys2Proof.Machine.execLinkSignal a s
  | .directSignal a => Sys2Proof.Machine.execDirectSignal a s
  | .linkInstall a => Sys2Proof.Machine.execLinkInstall a s
  | .linkRemoval a => Sys2Proof.Machine.execLinkRemoval a s
  | .restartRound a => Sys2Proof.Machine.execRestartRound a s
  | .childRestart a b => Sys2Proof.Machine.execChildRestart a b s
  | .launchCopy a => Sys2Proof.Machine.execLaunchCopy a s
  | .launchReduce a => Sys2Proof.Machine.execLaunchReduce a s
  | .launchGather a => Sys2Proof.Machine.execLaunchGather a s
  | .launchWalk a => Sys2Proof.Machine.execLaunchWalk a s
  | .launchTilemove a => Sys2Proof.Machine.execLaunchTilemove a s
  | .launchConvert a => Sys2Proof.Machine.execLaunchConvert a s
  | .controlQuery a => Sys2Proof.Machine.execControlQuery a s
  | .controlPause a => Sys2Proof.Machine.execControlPause a s
  | .controlResume a => Sys2Proof.Machine.execControlResume a s
  | .move a => Sys2Proof.Machine.execMove a s
  | .walkGateOpens a => Sys2Proof.Machine.execWalkGateOpens a s
  | .walkStepDone a => Sys2Proof.Machine.execWalkStepDone a s
  | .transferComplete a => Sys2Proof.Machine.execTransferComplete a s
  | .transferFailure a b => Sys2Proof.Machine.execTransferFailure a b s
  | .collectiveFire a b c => Sys2Proof.Machine.execCollectiveFire a b c s
  | .contributionArrival a => Sys2Proof.Machine.execContributionArrival a s
  | .contributionResend a => Sys2Proof.Machine.execContributionResend a s
  | .canswerArrival a b => Sys2Proof.Machine.execCanswerArrival a b s
  | .groupMemberRead a b c => Sys2Proof.Machine.execGroupMemberRead a b c s
  | .leaseRunTimeout a => Sys2Proof.Machine.execLeaseRunTimeout a s
  | .qresRead a => Sys2Proof.Machine.execQresRead a s
  | .pfxstWrite a => Sys2Proof.Machine.execPfxstWrite a s
  | .sjobWrite a => Sys2Proof.Machine.execSjobWrite a s
  | .interruptPendingWrite a b => Sys2Proof.Machine.execInterruptPendingWrite a b s
  | .mlogcWrite a => Sys2Proof.Machine.execMlogcWrite a s
  | .mlog0Read a => Sys2Proof.Machine.execMlog0Read a s
  | .mpkgWrite a => Sys2Proof.Machine.execMpkgWrite a s
  | .csrWrite a b => Sys2Proof.Machine.execCsrWrite a b s
  | .scrubVisit a b c => Sys2Proof.Machine.execScrubVisit a b c s
  | .coreRetirement a b => Sys2Proof.Machine.execCoreRetirement a b s
  | .powerClockStep a => Sys2Proof.Machine.execPowerClockStep a s
  | .thermalThrottle a b => Sys2Proof.Machine.execThermalThrottle a b s
  | .thermalShutdown a b => Sys2Proof.Machine.execThermalShutdown a b s
  | .coreWake a => Sys2Proof.Machine.execCoreWake a s
  | .attestationRequest a => Sys2Proof.Machine.execAttestationRequest a s
  | .permitTableWrite a b => Sys2Proof.Machine.execPermitTableWrite a b s
  | .lossNotice a => Sys2Proof.Machine.execLossNotice a s
  | .peerLossTimeout a => Sys2Proof.Machine.execPeerLossTimeout a s
  | .peerReadmit a => Sys2Proof.Machine.execPeerReadmit a s
  | .endToEndResend a b c => Sys2Proof.Machine.execEndToEndResend a b c s
  | .linkRetry a b => Sys2Proof.Machine.execLinkRetry a b s
  | .fabricLaneFailure a => Sys2Proof.Machine.execFabricLaneFailure a s
  | .illegalInstructionWord a => Sys2Proof.Machine.execIllegalInstructionWord a s
  | .instructionFetchFault a b => Sys2Proof.Machine.execInstructionFetchFault a b s
  | .flitAcknowledgement a b => Sys2Proof.Machine.execFlitAcknowledgement a b s
  | .portTrainingComplete a => Sys2Proof.Machine.execPortTrainingComplete a s
  | .corePowerGating a => Sys2Proof.Machine.execCorePowerGating a s
  | .ecall => Sys2Proof.Machine.execEcall s
  | .ebreak => Sys2Proof.Machine.execEbreak s
  | .mret => Sys2Proof.Machine.execMret s
  | .sret => Sys2Proof.Machine.execSret s
  | .wfi => Sys2Proof.Machine.execWfi s
  | .sourceWaitEnds => Sys2Proof.Machine.execSourceWaitEnds s
  | .destinationWaitEnds => Sys2Proof.Machine.execDestinationWaitEnds s
  | .issueStallEnds => Sys2Proof.Machine.execIssueStallEnds s
  | .wfiWake => Sys2Proof.Machine.execWfiWake s
  | .interruptTaken => Sys2Proof.Machine.execInterruptTaken s
  | .budgetExpiry => Sys2Proof.Machine.execBudgetExpiry s
  | .dispatch => Sys2Proof.Machine.execDispatch s
  | .releaseTakesEffect => Sys2Proof.Machine.execReleaseTakesEffect s
  | .hangReport => Sys2Proof.Machine.execHangReport s
  | .hostLinkDown => Sys2Proof.Machine.execHostLinkDown s
  | .leaseGrant => Sys2Proof.Machine.execLeaseGrant s
  | .arrayCommandStart => Sys2Proof.Machine.execArrayCommandStart s
  | .arrayCommandComplete => Sys2Proof.Machine.execArrayCommandComplete s
  | .qresWrite => Sys2Proof.Machine.execQresWrite s
  | .jctlDrn => Sys2Proof.Machine.execJctlDrn s
  | .jctlDdrop => Sys2Proof.Machine.execJctlDdrop s
  | .hangstClear => Sys2Proof.Machine.execHangstClear s
  | .packageReset => Sys2Proof.Machine.execPackageReset s
  | .identityKeyRequest => Sys2Proof.Machine.execIdentityKeyRequest s
  | .machineExternalEvent => Sys2Proof.Machine.execMachineExternalEvent s
  | .reservationExpiry => Sys2Proof.Machine.execReservationExpiry s
  | .hostLinkReady => Sys2Proof.Machine.execHostLinkReady s
  | .powerLoss => Sys2Proof.Machine.execPowerLoss s

end Sys2Proof.Machine
end

