-- ==== Sys2Proof/Machine/Step.lean ====
section
/-!
DEFINITION. The step of the machine, and the placing of an instruction where the step fetches.
-/
namespace Sys2Proof.Machine

/-- One step: what comes next is chosen, and executed. -/
def step (s : State) : Host.Outcome State Fault Refusal :=
  if stuck s then .fault .powerLost
  else
    let n := nextStep s
    exec n.1 n.2

/-- Offsets in own HBM of the tables and of the page that withFetchWord builds (assumption 5). -/
def fetchTable (level : Nat) : Nat := 0x100000 + 0x1000 * level

def fetchPage : Nat := 0x200000

/-- A table entry that names own HBM at an offset, with the given low bits (R234). -/
def ownEntry (s : State) (off flags : Nat) : Word := BitVec.ofNat 64 (s.ras.pkg.toNat * 2 ^ 45 + off + flags)

/-- The pc that withFetchWord fetches at: the state's own where it is executable. -/
def fetchPc (s : State) : Word := if classOf s.hart.pc = .translated then s.hart.pc else Config.firmwareEntry

/-- Tables of sjob's process that map the page of `pc`, executable, and the word at `pc`. -/
def installPage (pc : Word) (w : IWord) (s : State) : State :=
  let entry (level next flags : Nat) (t : State) : State :=
    writeWordKey t (ownBase + fetchTable level + 8 * vpnAt pc.toNat level) (ownEntry s next flags)
  let s1 := entry 4 (fetchTable 3) 1 (entry 3 (fetchTable 2) 1 (entry 2 (fetchTable 1) 1
    (entry 1 (fetchTable 0) 1 (entry 0 fetchPage 0x3F s))))
  let s2 := writeKey s1 (ownBase + fetchPage + pc.toNat % 4096) (wordBytes w)
  { s2 with
    stn := { s2.stn with roots := Tab.put s2.stn.roots s2.sup.pid.toNat (fetchTable 4), tlb := [], icache := [], badLines := [] }
    ras := { s2.ras with poison := [], deadChannels := [] } }

/-- The state with the instruction stored where the step fetches next, and with the hart about to fetch it: it moves
first, is not held, and no trap, death or budget comes before (assumption 5: this stands for the firmware's load). -/
def State.withFetchWord (s : State) (nbits w : Nat) : State :=
  let pc := fetchPc s
  let s1 := installPage pc (tableWord nbits w) s
  let s2 := { s1 with
    hart := { s1.hart with pc := pc, disp := false, wait := .none, answer := .none, storesDone := 0, resv := none
                           x0 := s1.hart.x0.filter fun x => x.next != pc } }
  { s2 with
    act := if (heldDeath s2).isSome then ActCsrs.zero else s2.act
    sup := { s2.sup with hrem := if s2.hart.priv = .user then BitVec.allOnes 64 else s2.sup.hrem }
    mach := { s2.mach with mie := 0 }
    ras := { s2.ras with powered := true, corePower := true, stopped := false, romHeld := false, gated := [], sparing := [], vacant := [] }
    sched := { s2.sched with turns := [0] } }

end Sys2Proof.Machine
end

