-- ==== Sys2Proof/Safety.lean ====
section
/-!
DEFINITION. What claims are stated in: the invariant of every step, when nothing keeps an instruction from its effect,
what its retirement does to the hart, and what a next state leaves as it was.
-/
namespace Sys2Proof

open Machine

/-! ## The invariant of every step -/

/-- Memory is in its canonical form. -/
def MemoryCanonical (s : State) : Prop := Memory.wf s.mem = true

/-! ## When an instruction has its effect -/

/-- No prefix is pending, no register holds an unseen error, every source is FULL and no destination EMPTY: what R39,
R50, R51 and R121 ask before an instruction executes. -/
def ready (s : State) (srcs dests : List RegName) : Bool :=
  !prefixPending s && s.ras.regErrors.isEmpty && (srcs.all fun r => regState s r == .full)
    && (dests.all fun r => !(regState s r).isEmpty)

/-- The same where prefixes may be pending. -/
def readyWithPrefix (s : State) (srcs dests : List RegName) : Bool :=
  s.ras.regErrors.isEmpty && (srcs.all fun r => regState s r == .full) && (dests.all fun r => !(regState s r).isEmpty)

/-- Nothing of the hart's earlier memory accesses is left: no off-core operation, no store entry, no store held. -/
def quiet (s : State) : Bool := s.off.jobs.isEmpty && s.off.drain.isEmpty && !s.sup.dheld && s.hart.storesDone == 0

/-- The names of x registers. -/
def xs (l : List RegIdx) : List RegName := l.map fun r => .x r.toNat

/-! ## Retirement -/

/-- The hart after an instruction that retires in sequence, but for the registers that it writes. -/
def retiredHart (s : State) : Hart :=
  { s.hart with
    pc := (endTest (s.hart.pc + 4) s).1
    loop0 := (endTest (s.hart.pc + 4) s).2.hart.loop0
    loop1 := (endTest (s.hart.pc + 4) s).2.hart.loop1
    pend := { s.hart.pend with fv := false, mv := false }
    wait := .none, answer := .none, storesDone := 0 }

/-- The hart after an instruction that retires by going to an address. -/
def jumpedHart (target : Word) (s : State) : Hart :=
  { s.hart with
    pc := target, pend := { s.hart.pend with fv := false, mv := false }, wait := .none, answer := .none, storesDone := 0 }

/-- One more instruction has retired. -/
def retiredMach (s : State) : MachCsrs := { s.mach with minstret := s.mach.minstret + 1 }

/-- Every byte of memory reads as before. -/
def SameMemory (s t : State) : Prop := ∀ k, Memory.get t.mem k = Memory.get s.mem k

/-- Every x register but `rd` is as before, and `rd` is FULL with `v`; x0 stays zero (R43, R44). -/
def WritesX (s t : State) (rd : RegIdx) (v : Word) : Prop :=
  xval t rd = (if rd = 0 then 0 else v) ∧ regState t (.x rd.toNat) = .full ∧
    ∀ n, n ≠ rd.toNat → getX t n = getX s n

/-- The instruction retires in sequence with `v` in `rd`, and nothing else changes. -/
def RetiresWith (s t : State) (rd : RegIdx) (v : Word) : Prop :=
  WritesX s t rd v ∧ SameMemory s t ∧
    t = { s with hart := { retiredHart s with x := t.hart.x }, mach := retiredMach s }

/-- The instruction retires in sequence and no register changes. -/
def Retires (s t : State) : Prop :=
  SameMemory s t ∧ t = { s with hart := retiredHart s, mach := retiredMach s }

/-! ## Exceptions (R111, R113) -/

/-- What no trap changes: the registers and their states, every byte of memory; and what every trap does to the hart. -/
def LeavesContext (s t : State) : Prop :=
  t.hart.x = s.hart.x ∧ t.hart.v = s.hart.v ∧ t.hart.m = s.hart.m ∧ SameMemory s t ∧ t.user = s.user ∧ t.act = s.act ∧
    t.hart.resv = none ∧ t.hart.wait = .none ∧ prefixPending t = false ∧ t.hart.disp = false ∧
    t.hart.loop0 = s.hart.loop0 ∧ t.hart.loop1 = s.hart.loop1

/-- The machine enters S-mode for a synchronous exception. -/
def EntersS (s t : State) (cause : Nat) (tval : Word) : Prop :=
  t.hart.priv = .supervisor ∧ t.hart.pc = s.sup.stvec &&& ~~~(3 : Word) ∧ t.sup.sepc = faultPc s ∧
    t.sup.scause = BitVec.ofNat 64 cause ∧ t.sup.stval = tval ∧
    t.mach = { s.mach with status :=
      { s.mach.status with spp := s.hart.priv == .supervisor, spie := s.mach.status.sie, sie := false } }

/-- The machine enters M-mode for a synchronous exception. -/
def EntersM (s t : State) (cause : Nat) (tval : Word) : Prop :=
  t.hart.priv = .machine ∧ t.hart.pc = s.mach.mtvec &&& ~~~(3 : Word) ∧ t.mach.mepc = faultPc s ∧
    t.mach.mcause = BitVec.ofNat 64 cause ∧ t.mach.mtval = tval ∧
    t.mach.status = { s.mach.status with mpp := s.hart.priv, mpie := s.mach.status.mie, mie := false } ∧
    t.sup = { s.sup with mdfrom := false }

/-- An exception of this hart is taken in S-mode or M-mode: the dispatcher is not active, and the cause is not delegated
to the exit engine (R113). -/
def trapsHere (s : State) (cause : Nat) : Bool := !s.hart.disp && !delegatedToExit s cause

/-- A synchronous exception that is not delegated to the exit engine is taken: in S-mode where medeleg says so below
M-mode, and otherwise in M-mode. -/
def TakesException (s t : State) (cause : Nat) (tval : Word) : Prop :=
  LeavesContext s t ∧ (if delegatedToS s cause then EntersS s t cause tval else EntersM s t cause tval)

/-! ## Arithmetic, said over integers -/

/-- The low 32 bits of a number, sign-extended. -/
def word32 (n : Nat) : Word := BitVec.ofInt 64 (toSigned 32 n)

/-- The register-register operations of RV64I, computed on integers and narrowed at the end. -/
def aluRegSpec (op : AluOp) (a b : Word) : Word :=
  match op with
  | .add => BitVec.ofInt 64 (a.toInt + b.toInt)
  | .sub => BitVec.ofInt 64 (a.toInt - b.toInt)
  | .sll => BitVec.ofNat 64 (a.toNat * 2 ^ (b.toNat % 64))
  | .slt => if a.toInt < b.toInt then 1 else 0
  | .sltu => if a.toNat < b.toNat then 1 else 0
  | .xor => BitVec.ofNat 64 (a.toNat ^^^ b.toNat)
  | .srl => BitVec.ofNat 64 (a.toNat / 2 ^ (b.toNat % 64))
  | .sra => BitVec.ofInt 64 (a.toInt / 2 ^ (b.toNat % 64))
  | .or => BitVec.ofNat 64 (a.toNat ||| b.toNat)
  | .and => BitVec.ofNat 64 (a.toNat &&& b.toNat)
  | .addw => word32 (a.toNat + b.toNat)
  | .subw => word32 (a.toNat + (2 ^ 64 - b.toNat))
  | .sllw => word32 (a.toNat * 2 ^ (b.toNat % 32))
  | .srlw => word32 (a.toNat % 2 ^ 32 / 2 ^ (b.toNat % 32))
  | .sraw => BitVec.ofInt 64 (toSigned 32 a.toNat / 2 ^ (b.toNat % 32))

/-- The operations with a 12-bit immediate, whose value is signed. -/
def aluImmSpec (op : AluImmOp) (a : Word) (imm : BitVec 12) : Word :=
  match op with
  | .addi => BitVec.ofInt 64 (a.toInt + imm.toInt)
  | .slti => if a.toInt < imm.toInt then 1 else 0
  | .sltiu => if a.toNat < (BitVec.ofInt 64 imm.toInt).toNat then 1 else 0
  | .xori => aluRegSpec .xor a (BitVec.ofInt 64 imm.toInt)
  | .ori => aluRegSpec .or a (BitVec.ofInt 64 imm.toInt)
  | .andi => aluRegSpec .and a (BitVec.ofInt 64 imm.toInt)
  | .addiw => word32 (BitVec.ofInt 64 (a.toInt + imm.toInt)).toNat

/-- The shifts by an immediate: the register form with that amount. -/
def aluShiftSpec (op : ShiftOp) (a : Word) (sh : BitVec 6) : Word :=
  let b : Word := BitVec.ofNat 64 sh.toNat
  match op with
  | .slli => aluRegSpec .sll a b
  | .srli => aluRegSpec .srl a b
  | .srai => aluRegSpec .sra a b
  | .slliw => aluRegSpec .sllw a b
  | .srliw => aluRegSpec .srlw a b
  | .sraiw => aluRegSpec .sraw a b

/-- The destination, the sources and the result of an RV64I integer operation. -/
def intParts (s : State) : IntOp → RegIdx × List RegIdx × Word
  | .reg o rd rs1 rs2 => (rd, [rs1, rs2], aluRegSpec o (xval s rs1) (xval s rs2))
  | .imm o rd rs1 imm => (rd, [rs1], aluImmSpec o (xval s rs1) imm)
  | .shift o rd rs1 sh => (rd, [rs1], aluShiftSpec o (xval s rs1) sh)

/-- RV64M on integers: division rounds towards zero; a divisor of zero gives all ones and the dividend. -/
def mulDivSpec (op : MulDivOp) (a b : Word) : Word :=
  let a32 := toSigned 32 a.toNat
  let b32 := toSigned 32 b.toNat
  let ua := a.toNat % 2 ^ 32
  let ub := b.toNat % 2 ^ 32
  match op with
  | .mul => BitVec.ofInt 64 (a.toInt * b.toInt)
  | .mulh => BitVec.ofInt 64 (a.toInt * b.toInt / 2 ^ 64)
  | .mulhsu => BitVec.ofInt 64 (a.toInt * b.toNat / 2 ^ 64)
  | .mulhu => BitVec.ofNat 64 (a.toNat * b.toNat / 2 ^ 64)
  | .div => if b.toInt = 0 then BitVec.allOnes 64 else BitVec.ofInt 64 (a.toInt.tdiv b.toInt)
  | .divu => if b.toNat = 0 then BitVec.allOnes 64 else BitVec.ofNat 64 (a.toNat / b.toNat)
  | .rem => if b.toInt = 0 then a else BitVec.ofInt 64 (a.toInt.tmod b.toInt)
  | .remu => if b.toNat = 0 then a else BitVec.ofNat 64 (a.toNat % b.toNat)
  | .mulw => BitVec.ofInt 64 (toSigned 32 (a.toNat * b.toNat))
  | .divw => if b32 = 0 then BitVec.allOnes 64 else word32 (BitVec.ofInt 64 (a32.tdiv b32)).toNat
  | .divuw => if ub = 0 then BitVec.allOnes 64 else word32 (ua / ub)
  | .remw => if b32 = 0 then word32 a.toNat else word32 (BitVec.ofInt 64 (a32.tmod b32)).toNat
  | .remuw => if ub = 0 then word32 a.toNat else word32 (ua % ub)

/-- A word whose bits below 64 are `f`. -/
def HasBits (w : Word) (f : Nat → Bool) : Prop := ∀ i, i < 64 → w.getLsbD i = f i

/-- The two-register operations of Zba and Zbb. -/
def BitRegResult (op : BitRegOp) (a b v : Word) : Prop :=
  let lo := a.toNat % 2 ^ 32
  match op with
  | .adduw => v = BitVec.ofNat 64 (b.toNat + lo)
  | .sh1add => v = BitVec.ofNat 64 (b.toNat + 2 * a.toNat)
  | .sh1adduw => v = BitVec.ofNat 64 (b.toNat + 2 * lo)
  | .sh2add => v = BitVec.ofNat 64 (b.toNat + 4 * a.toNat)
  | .sh2adduw => v = BitVec.ofNat 64 (b.toNat + 4 * lo)
  | .sh3add => v = BitVec.ofNat 64 (b.toNat + 8 * a.toNat)
  | .sh3adduw => v = BitVec.ofNat 64 (b.toNat + 8 * lo)
  | .andn => HasBits v fun i => a.getLsbD i && !b.getLsbD i
  | .orn => HasBits v fun i => a.getLsbD i || !b.getLsbD i
  | .xnor => HasBits v fun i => a.getLsbD i == b.getLsbD i
  | .max => v.toInt = max a.toInt b.toInt
  | .maxu => v.toNat = max a.toNat b.toNat
  | .min => v.toInt = min a.toInt b.toInt
  | .minu => v.toNat = min a.toNat b.toNat
  | .rol => HasBits v fun i => a.getLsbD ((i + 64 - b.toNat % 64) % 64)
  | .rolw => HasBits v fun i => a.getLsbD ((min i 31 + 32 - b.toNat % 32) % 32)
  | .ror => HasBits v fun i => a.getLsbD ((i + b.toNat) % 64)
  | .rorw => HasBits v fun i => a.getLsbD ((min i 31 + b.toNat) % 32)

/-- The number of the first position below n at which `f` holds, or n. -/
def firstAt (n : Nat) (f : Nat → Bool) : Nat := ((List.range n).find? f).getD n

/-- The one-register operations of Zbb. -/
def BitUnResult (op : BitUnOp) (a v : Word) : Prop :=
  match op with
  | .clz => v.toNat = firstAt 64 fun i => a.getLsbD (63 - i)
  | .clzw => v.toNat = firstAt 32 fun i => a.getLsbD (31 - i)
  | .ctz => v.toNat = firstAt 64 a.getLsbD
  | .ctzw => v.toNat = firstAt 32 a.getLsbD
  | .cpop => v.toNat = ((List.range 64).filter a.getLsbD).length
  | .cpopw => v.toNat = ((List.range 32).filter a.getLsbD).length
  | .sextb => v.toInt = toSigned 8 a.toNat
  | .sexth => v.toInt = toSigned 16 a.toNat
  | .zexth => v.toNat = a.toNat % 2 ^ 16
  | .orcb => HasBits v fun i => (List.range 8).any fun j => a.getLsbD (8 * (i / 8) + j)
  | .rev8 => HasBits v fun i => a.getLsbD (8 * (7 - i / 8) + i % 8)

def BitShiftResult (op : BitShiftOp) (a : Word) (sh : BitVec 6) (v : Word) : Prop :=
  match op with
  | .slliuw => v = BitVec.ofNat 64 (a.toNat % 2 ^ 32 * 2 ^ sh.toNat)
  | .rori => BitRegResult .ror a (BitVec.ofNat 64 sh.toNat) v
  | .roriw => BitRegResult .rorw a (BitVec.ofNat 64 sh.toNat) v

/-- The destination and the sources of a Zba or Zbb instruction. -/
def bitParts : BitOp → RegIdx × List RegIdx
  | .reg _ rd rs1 rs2 => (rd, [rs1, rs2])
  | .un _ rd rs1 => (rd, [rs1])
  | .shift _ rd rs1 _ => (rd, [rs1])

def BitResult (s : State) (v : Word) : BitOp → Prop
  | .reg o _ rs1 rs2 => BitRegResult o (xval s rs1) (xval s rs2) v
  | .un o _ rs1 => BitUnResult o (xval s rs1) v
  | .shift o _ rs1 sh => BitShiftResult o (xval s rs1) sh v

/-- The conditions of the base branches. -/
def takenSpec (c : BranchCond) (a b : Word) : Bool :=
  match c with
  | .eq => decide (a = b)
  | .ne => decide (a ≠ b)
  | .lt => decide (a.toInt < b.toInt)
  | .ge => decide (b.toInt ≤ a.toInt)
  | .ltu => decide (a.toNat < b.toNat)
  | .geu => decide (b.toNat ≤ a.toNat)

/-- The byte offset of a branch: the 12 bits of the encoding times two, signed. -/
def branchOffset (a : BranchArgs) : Int := 2 * a.off.toInt

/-! ## Forms of one shape -/

/-- The scalar loads: fields, bytes, and whether the value is sign-extended. -/
def loadForm : Instr → Option (LoadArgs × Nat × Bool)
  | .lb a => some (a, 1, true) | .lh a => some (a, 2, true) | .lw a => some (a, 4, true) | .ld a => some (a, 8, true)
  | .lbu a => some (a, 1, false) | .lhu a => some (a, 2, false) | .lwu a => some (a, 4, false)
  | _ => none

/-- The scalar stores: fields and bytes. -/
def storeForm : Instr → Option (StoreArgs × Nat)
  | .sb a => some (a, 1) | .sh a => some (a, 2) | .sw a => some (a, 4) | .sd a => some (a, 8)
  | _ => none

/-- The atomics other than LR and SC: fields, operation and bytes. -/
def atomicForm : Instr → Option (RT × AtomicOp × Nat)
  | .amoswapW a => some (a, .swap, 4) | .amoswapD a => some (a, .swap, 8)
  | .amoaddW a => some (a, .add, 4) | .amoaddD a => some (a, .add, 8)
  | .amoandW a => some (a, .and, 4) | .amoandD a => some (a, .and, 8)
  | .amoorW a => some (a, .or, 4) | .amoorD a => some (a, .or, 8)
  | .amoxorW a => some (a, .xor, 4) | .amoxorD a => some (a, .xor, 8)
  | .amominW a => some (a, .min, 4) | .amominD a => some (a, .min, 8)
  | .amominuW a => some (a, .minu, 4) | .amominuD a => some (a, .minu, 8)
  | .amomaxW a => some (a, .max, 4) | .amomaxD a => some (a, .max, 8)
  | .amomaxuW a => some (a, .maxu, 4) | .amomaxuD a => some (a, .maxu, 8)
  | .famoaddS a => some (a, .faddS, 4) | .famominS a => some (a, .fminS, 4) | .famomaxS a => some (a, .fmaxS, 4)
  | .casD a => some (a, .casD, 8)
  | _ => none

def lrForm : Instr → Option (RT × Nat)
  | .lrW a => some (a, 4) | .lrD a => some (a, 8) | _ => none

def scForm : Instr → Option (RT × Nat)
  | .scW a => some (a, 4) | .scD a => some (a, 8) | _ => none

/-- The CSR instructions: operation, fields, and whether the operand is the 5-bit immediate. -/
def csrForm : Instr → Option (CsrOp × CsrArgs × Bool)
  | .csrrw a => some (.write, a, false) | .csrrs a => some (.set, a, false) | .csrrc a => some (.clear, a, false)
  | .csrrwi a => some (.write, a, true) | .csrrsi a => some (.set, a, true) | .csrrci a => some (.clear, a, true)
  | _ => none

/-- The x registers that an instruction of these forms reads, in their order, none of them with an E bit. -/
def scalarSources (i : Instr) : Option (List RegIdx) :=
  match i with
  | .integerOp (.reg _ _ a b) | .multiplyDivide _ _ a b => some [a, b]
  | .integerOp (.imm _ _ a _) | .integerOp (.shift _ _ a _) => some [a]
  | .bitManipulation op => some (bitParts op).2
  | .branch a => some [a.rs1, a.rs2]
  | .jump (.jalr _ a _) => some [a]
  | .jump (.jal _ _) | .lui _ _ | .auipc _ _ => some []
  | i =>
    match loadForm i, storeForm i, atomicForm i, lrForm i, scForm i with
    | some a, _, _, _, _ => some [a.1.rs1]
    | _, some a, _, _, _ => some [a.1.rs1, a.1.rs2]
    | _, _, some a, _, _ => some ([a.1.rs1, a.1.rs2] ++ if a.2.1 = .casD then [a.1.rd] else [])
    | _, _, _, some a, _ => some [a.1.rs1]
    | _, _, _, _, some a => some [a.1.rs1, a.1.rs2]
    | _, _, _, _, _ => none

/-- The destination of an integer instruction. -/
def intDest (i : Instr) : Option RegIdx :=
  match i with
  | .integerOp (.reg _ d _ _) | .integerOp (.imm _ d _ _) | .integerOp (.shift _ d _ _) | .multiplyDivide _ d _ _
  | .lui d _ | .auipc d _ => some d
  | .bitManipulation op => some (bitParts op).1
  | _ => none

/-- The forms of custom-3 (R30), with their fields. -/
def customForm : Instr → Option RT
  | .cadd a | .cwait a | .cpoll a | .cset a | .calloc a | .cwaitt a | .cfree a | .carm a | .spawn a | .send a | .sendg a
  | .endh a | .exit a | .kill a | .trapx a | .tmov a | .link a | .mon a | .unlink a | .demon a | .supadd a | .supdel a
  | .colset a | .colclr a | .stinval a | .ctxsave a | .ctxload a => some a
  | _ => none

/-- Releases in every mode (R221): before them no failed store may be held (R55, R117). -/
def releaseForm (i : Instr) : Bool :=
  match i with
  | .send _ | .sendg _ | .spawn _ | .fenceTso _ => true
  | .fence _ a => a.pred != 0 && a.succ != 0 && (a.pred.getLsbD 0 || a.pred.getLsbD 2)
  | .kill a | .cadd a | .cwait a | .cwaitt a | .cpoll a | .calloc a | .cfree a | .carm a => a.rl
  | i =>
    match atomicForm i, scForm i with
    | some a, _ => a.1.rl
    | _, some a => a.1.rl
    | none, none => false

/-! ## Memory -/

/-- The effective address: base plus signed offset, modulo 2^64. -/
def address (s : State) (rs1 : RegIdx) (imm : BitVec 12) : Word := BitVec.ofInt 64 ((xval s rs1).toInt + imm.toInt)

/-- The number at `n` bytes from a key upwards, lowest byte first. -/
def loaded (s : State) (key : Nat) : Nat → Nat
  | 0 => 0
  | n + 1 => (Memory.get s.mem key).toNat + 256 * loaded s (key + 1) n

/-- The bytes of `v` stand at `n` keys from `key` upwards, lowest byte first, and every other byte is as before. -/
def Stored (s t : State) (key n v : Nat) : Prop :=
  (∀ i, i < n → Memory.get t.mem (key + i) = BitVec.ofNat 8 (v / 256 ^ i)) ∧
    ∀ k, k < key ∨ key + n ≤ k → Memory.get t.mem k = Memory.get s.mem k

/-- An aligned local access that passes the checks of R212 and meets no poisoned word. -/
def localReady (s : State) (ea : Word) (n : Nat) : Bool :=
  decide (ea.toNat < 0x80000) && localOk s ea.toNat n && decide (ea.toNat % n = 0)
    && !poisoned s (localKey s ea.toNat) n

/-- The key of a local byte of this core: its number times the size of a scratchpad, plus the address. -/
def hereKey (s : State) (ea : Word) : Nat := s.coreid.toNat * 0x80000 + ea.toNat

/-! ## Vector arithmetic (chapter 5) -/

/-- The registers of a vector operand: 2^W of them from its number (R26). -/
def vRegs (base : RegIdx) (a : VT) : List RegName := vGroup base.toNat (2 ^ a.w.toNat)

/-- An operand: the registers that it names, and whether it gives EMPTY_SOURCE where one of them is EMPTY (R27). -/
abbrev Operand := List RegName × Bool

/-- The operands s1 and s2 with their E bits, as vector groups or as x registers; x0 is no register that is waited for. -/
def vOp1 (a : VT) : Operand := (vRegs a.s1 a, a.e1)
def vOp2 (a : VT) : Operand := (vRegs a.s2 a, a.e2)
def xOp (r : RegIdx) (e : Bool) : Operand := (if r = 0 then [] else [.x r.toNat], e)
def xOp1 (a : VT) : Operand := xOp a.s1 a.e1
def xOp2 (a : VT) : Operand := xOp a.s2 a.e2
def dOp (a : VT) : Operand := (vRegs a.d a, false)

/-- With M = 1 the destination is read where elements of it are kept, and the v0 group is read (R28, R136). -/
def maskOps (a : VT) (keeps : Bool) : List Operand :=
  if a.m then (if keeps then [dOp a] else []) ++ [(vRegs 0 a, false)] else []

/-- A custom-0 instruction: its fields, whether MOD is accepted, which formats, and the operands that it reads. -/
structure VecShape where
  a : VT
  mods : Bool
  legal : Eff → Bool
  srcs : List Operand

/-- The registers that it reads. -/
def VecShape.reads (h : VecShape) : List RegName := h.srcs.flatMap fun o => o.1

def vecShape : Instr → Option VecShape
  | .vadd a | .vsub a | .vmul a => some ⟨a, true, sameFmts, [vOp1 a, vOp2 a] ++ maskOps a true⟩
  | .vfma a | .vfms a => some ⟨a, true, sameFmts, [vOp1 a, vOp2 a, dOp a] ++ maskOps a false⟩
  | .vaddx a | .vmulx a => some ⟨a, true, sameFmts, [vOp1 a, xOp2 a] ++ maskOps a true⟩
  | .vfmx a => some ⟨a, true, sameFmts, [vOp1 a, xOp2 a, dOp a] ++ maskOps a false⟩
  | .vmin a | .vmax a | .vand a | .vor a | .vxor a | .vcmpeq a | .vcmplt a | .vcmple a =>
    some ⟨a, false, fun e => sameFmts e && noRounding e, [vOp1 a, vOp2 a] ++ maskOps a true⟩
  | .vsll a | .vsrl a | .vsra a =>
    some ⟨a, false, fun e => sameFmts e && noRounding e && isIntFmt e.d, [vOp1 a, vOp2 a] ++ maskOps a true⟩
  | .vsel a => some ⟨a, false, fun e => sameFmts e && noRounding e, [vOp1 a, vOp2 a, (vRegs 0 a, false)]⟩
  | .vbcast a => some ⟨a, false, fun e => destFmt e && noRounding e, xOp1 a :: maskOps a true⟩
  | .vidx a => some ⟨a, false, fun e => destFmt e && noRounding e, maskOps a true⟩
  | .vmov a => some ⟨a, false, fun e => vecFmt e.d && (e.p.a == 31 || e.p.a == e.d) && e.p.b == 31 && noRounding e,
      vOp1 a :: maskOps a true⟩
  | .vrcp a | .vrsq a | .vexp2 a | .vlog2 a =>
    some ⟨a, true, fun e => unaryFmts e && decide (e.d ≤ 2), vOp1 a :: maskOps a true⟩
  | .vredsum a => some ⟨a, true, unaryFmts, vOp1 a :: maskOps a false⟩
  | .vredmax a | .vredmin a => some ⟨a, false, fun e => unaryFmts e && noRounding e, vOp1 a :: maskOps a false⟩
  | .vdot4 a => some ⟨a, true, dotFmts, [vOp1 a, vOp2 a, dOp a] ++ maskOps a false⟩
  | .vslup a | .vsldn a => some ⟨a, false, fun e => movableFmt e.d && (e.p.a == 31 || e.p.a == e.d) && noRounding e
      && e.p.b == 31, [vOp1 a, xOp2 a] ++ maskOps a true⟩
  | .vperm a => some ⟨a, false, fun e => movableFmt e.d && (e.p.a == 31 || e.p.a == e.d) && noRounding e
      && (e.p.b == 31 || e.p.b == intCode (fmtWidth e.d) + 1), [vOp1 a, vOp2 a] ++ maskOps a true⟩
  | _ => none

/-- The registers that an instruction reads where elements of its destination may be kept. -/
def maskReads (a : VT) (keeps : Bool) : List RegName := (maskOps a keeps).flatMap fun o => o.1

/-- The number by which a trap value names a register (R53). -/
def regNumber : RegName → Word
  | .x n => BitVec.ofNat 64 n
  | .v n => BitVec.ofNat 64 (32 + n)
  | .m n => BitVec.ofNat 64 (64 + n)

/-- The operands and the destination registers of an instruction that has come to its source check (R39, R53): of the
scalar forms, and of the custom-0 forms with accepted prefixes. -/
def operandsAt (i : Instr) (s : State) : Option (List Operand × List RegName) :=
  match vecShape i, scalarSources i with
  | some h, _ => if i.wf && prefixOk h.mods h.legal s then some (h.srcs, vRegs h.a.d h.a) else none
  | none, some l =>
    if prefixPending s || s.sup.dheld then none
    else some (l.map fun r => xOp r false, ((intDest i).map fun d => xOp d false |>.1).getD [])
  | none, none => none

/-- The prefixes and formats are accepted and the operands are at hand. -/
def vecReady (i : Instr) (s : State) : Bool :=
  match vecShape i with
  | some h => i.wf && prefixOk h.mods h.legal s && readyWithPrefix s h.reads (vRegs h.a.d h.a)
  | none => false

/-- A vector instruction retires: the destination group is FULL, and nothing else changes but the sticky flags, which
are only raised (R73). -/
def VecRetires (s t : State) (d count : Nat) : Prop :=
  (∀ n, d ≤ n → n < d + count → regState t (.v n) = .full) ∧
  (∀ n, n < d ∨ d + count ≤ n → getV t n = getV s n) ∧ SameMemory s t ∧
  s.user.vflags ||| t.user.vflags = t.user.vflags ∧
  t = { s with
    hart := { retiredHart s with v := t.hart.v }, user := { s.user with vflags := t.user.vflags }, mach := retiredMach s }

/-- Element k of a vector group, as its code of w bits. -/
def velem (s : State) (base : RegIdx) (a : VT) (w k : Nat) : Nat := elemAt w (vval s base a.w) k

/-- The signed or unsigned reading of a code of an integer format. -/
def intCodeValue (f c : Nat) : Int := if isSignedFmt f then toSigned (fmtWidth f) c else (c % 2 ^ fmtWidth f : Nat)

/-- The integer that active element k of an element-wise instruction is given, modulo the width, in an integer format;
`none` for the instructions that are not element-wise on integers. -/
def intElement (i : Instr) (s : State) (f k : Nat) : Option Int :=
  let w := fmtWidth f
  let ones : Int := 2 ^ w - 1
  match i with
  | .vadd a => some (velem s a.s1 a w k + velem s a.s2 a w k)
  | .vsub a => some (velem s a.s1 a w k - velem s a.s2 a w k)
  | .vmul a => some (velem s a.s1 a w k * velem s a.s2 a w k)
  | .vfma a => some (velem s a.d a w k + velem s a.s1 a w k * velem s a.s2 a w k)
  | .vfms a => some (velem s a.d a w k - velem s a.s1 a w k * velem s a.s2 a w k)
  | .vaddx a => some (velem s a.s1 a w k + (xval s a.s2).toNat)
  | .vmulx a => some (velem s a.s1 a w k * (xval s a.s2).toNat)
  | .vfmx a => some (velem s a.d a w k + velem s a.s1 a w k * (xval s a.s2).toNat)
  | .vmin a => some (min (intCodeValue f (velem s a.s1 a w k)) (intCodeValue f (velem s a.s2 a w k)))
  | .vmax a => some (max (intCodeValue f (velem s a.s1 a w k)) (intCodeValue f (velem s a.s2 a w k)))
  | .vand a => some (velem s a.s1 a w k &&& velem s a.s2 a w k : Nat)
  | .vor a => some (velem s a.s1 a w k ||| velem s a.s2 a w k : Nat)
  | .vxor a => some (velem s a.s1 a w k ^^^ velem s a.s2 a w k : Nat)
  | .vsll a => some (velem s a.s1 a w k * 2 ^ (velem s a.s2 a w k % w) : Nat)
  | .vsrl a => some (velem s a.s1 a w k / 2 ^ (velem s a.s2 a w k % w) : Nat)
  | .vsra a => some (toSigned w (velem s a.s1 a w k) / 2 ^ (velem s a.s2 a w k % w))
  | .vcmpeq a => some (if velem s a.s1 a w k = velem s a.s2 a w k then ones else 0)
  | .vcmplt a => some (if intCodeValue f (velem s a.s1 a w k) < intCodeValue f (velem s a.s2 a w k) then ones else 0)
  | .vcmple a => some (if intCodeValue f (velem s a.s1 a w k) ≤ intCodeValue f (velem s a.s2 a w k) then ones else 0)
  | .vbcast a => some (xval s a.s1).toNat
  | .vmov a => some (velem s a.s1 a w k)
  | .vidx _ => some k
  | _ => none

/-- The value of element k before the steps of MOD and the rounding (R143, R148): the exact sum of the terms, or the
function of the source; `none` for an instruction that is neither. -/
def exactElement (i : Instr) (s : State) (f k : Nat) : Option Machine.Num :=
  let el (a : VT) (base : RegIdx) : Machine.Num := decodeElem f (velem s base a (fmtWidth f) k)
  let sc (r : RegIdx) : Machine.Num := decodeElem f ((xval s r).toNat % 2 ^ fmtWidth f)
  match i with
  | .vadd a => some (exactSum [el a a.s1, el a a.s2]).1
  | .vsub a => some (exactSum [el a a.s1, (el a a.s2).neg]).1
  | .vmul a => some (exactSum [(mulNum (el a a.s1) (el a a.s2)).1]).1
  | .vfma a => some (exactSum [el a a.d, (mulNum (el a a.s1) (el a a.s2)).1]).1
  | .vfms a => some (exactSum [el a a.d, (mulNum (el a a.s1) (el a a.s2)).1.neg]).1
  | .vaddx a => some (exactSum [el a a.s1, sc a.s2]).1
  | .vmulx a => some (exactSum [(mulNum (el a a.s1) (sc a.s2)).1]).1
  | .vfmx a => some (exactSum [el a a.d, (mulNum (el a a.s1) (sc a.s2)).1]).1
  | .vrcp a => some (funcValue .rcp (el a a.s1)).1
  | .vrsq a => some (funcValue .rsq (el a a.s1)).1
  | .vexp2 a => some (funcValue .exp2 (el a a.s1)).1
  | .vlog2 a => some (funcValue .log2 (el a a.s1)).1
  | _ => none

/-- The code of element k of the comparisons, the bitwise operations, the moves and the index in a floating-point format
(R143 to R145, R147). -/
def floatPick (i : Instr) (s : State) (f k : Nat) : Option Nat :=
  let el (a : VT) (base : RegIdx) : Machine.Num := decodeElem f (velem s base a (fmtWidth f) k)
  let ones (b : Bool) : Nat := if b then 2 ^ fmtWidth f - 1 else 0
  let both (a : VT) : Bool := !(el a a.s1).isNaN && !(el a a.s2).isNaN
  match i with
  | .vmin a => some (encodeElem f (fMinMax false (el a a.s1) (el a a.s2)).1)
  | .vmax a => some (encodeElem f (fMinMax true (el a a.s1) (el a a.s2)).1)
  | .vcmpeq a => some (ones (both a && (el a a.s1).eqv (el a a.s2)))
  | .vcmplt a => some (ones (both a && (el a a.s1).lt (el a a.s2)))
  | .vcmple a => some (ones (both a && ((el a a.s1).lt (el a a.s2) || (el a a.s1).eqv (el a a.s2))))
  | .vand a => some (velem s a.s1 a (fmtWidth f) k &&& velem s a.s2 a (fmtWidth f) k)
  | .vor a => some (velem s a.s1 a (fmtWidth f) k ||| velem s a.s2 a (fmtWidth f) k)
  | .vxor a => some (velem s a.s1 a (fmtWidth f) k ^^^ velem s a.s2 a (fmtWidth f) k)
  | .vbcast a => some (xval s a.s1).toNat
  | .vmov a => some (velem s a.s1 a (fmtWidth f) k)
  | .vidx _ => some (encodeElem f (.ofInt k))
  | _ => none

/-- Mask element k is 1, or there is no mask (R136). -/
def activeAt (s : State) (a : VT) (w k : Nat) : Bool := !a.m || velem s 0 a w k % 2 == 1

/-- Source elements that are present in a reduction, in ascending order. -/
def presentElems (s : State) (a : VT) (w : Nat) : List Nat :=
  ((List.range (2 ^ a.w.toNat * 512 / w)).filter (activeAt s a w)).map (velem s a.s1 a w)

/-! ## Vector memory access (chapter 6) -/

def vecLoadForm : Instr → Option (VT × VecMode)
  | .vld a => some (a, .contiguous) | .vlds a => some (a, .strided) | .vldx a => some (a, .indexed)
  | _ => none

def vecStoreForm : Instr → Option (VT × VecMode)
  | .vst a => some (a, .contiguous) | .vsts a => some (a, .strided) | .vstx a => some (a, .indexed)
  | _ => none

/-- The registers that the address of a vector access reads. -/
def addrReads (a : VT) : VecMode → List RegName
  | .contiguous => xs [a.s1]
  | .strided => xs [a.s1, a.s2]
  | .indexed => xs [a.s1] ++ vRegs a.s2 a

/-- The address of element k (R160): the base plus k elements, k strides, or the index times the element size, where the
index is signed under a signed fB. -/
def elementAddress (s : State) (a : VT) (m : VecMode) (k : Nat) : Word :=
  let w := fmtWidth (effOf s).d
  let c := velem s a.s2 a w k
  match m with
  | .contiguous => BitVec.ofNat 64 ((xval s a.s1).toNat + k * (w / 8))
  | .strided => BitVec.ofInt 64 ((xval s a.s1).toInt + k * (xval s a.s2).toInt)
  | .indexed =>
    let index : Int := if (effOf s).b = intCode w then toSigned w c else c
    BitVec.ofInt 64 ((xval s a.s1).toInt + index * (w / 8 : Nat))

/-- The access of an aligned element is accepted (R161, R212): it is local within the ranges, or translated. -/
def accessOk (s : State) (ea : Word) (n : Nat) : Bool :=
  if ea.toNat < 0x80000 then localOk s ea.toNat n else decide (ea.toNat < 0x0100000000000000)

/-- The entries of a vector or tile store that are performed at once: the local ones before the first translated one,
where the queue was empty (R165). -/
def directEntries (es : List StoreEntry) : List StoreEntry := es.takeWhile (·.scratch)

/-- The others, which go into the drain queue in their order. -/
def queuedEntries (es : List StoreEntry) : List StoreEntry := es.dropWhile (·.scratch)

/-- A byte of memory that no directly performed entry covers is as before. -/
def OtherBytesStay (s t : State) (es : List StoreEntry) : Prop :=
  ∀ q, (∀ e ∈ directEntries es, ∀ b ∈ e.bytes, hereKey s e.addr + b.1 ≠ q) → Memory.get t.mem q = Memory.get s.mem q

/-- A store of entries with nothing outstanding: those that the queue has room for are in it, in order; with more than 16
of them the hart waits at the instruction for the rest (R49, R165). -/
def StoresEntries (s t : State) (es : List StoreEntry) : Prop :=
  (drainStores t).map (fun e => { e with id := 0 }) = (queuedEntries es).take 16 ∧ OtherBytesStay s t es ∧
    t.hart.x = s.hart.x ∧ t.hart.v = s.hart.v ∧ t.hart.m = s.hart.m ∧ t.user = s.user ∧
    ((queuedEntries es).length ≤ 16 → t.hart.pc = (retiredHart s).pc ∧ t.hart.storesDone = 0 ∧ t.mach = retiredMach s) ∧
    (16 < (queuedEntries es).length → t.hart.pc = s.hart.pc ∧ t.hart.storesDone = (directEntries es).length + 16 ∧
      t.mach = s.mach ∧ ∃ n, t.hart.wait = .issue n true)

/-- An aligned local store that passes the checks of R212. -/
def localWritable (s : State) (ea : Word) (n : Nat) : Bool :=
  decide (ea.toNat < 0x80000) && localOk s ea.toNat n && decide (ea.toNat % n = 0)

/-- The prefixes that an instruction accepts: whether MOD, and which formats (R39, R66, R158, R167, R169 to R171, R198,
R203 to R205). -/
def prefixShape (i : Instr) : Option (Bool × (Eff → Bool)) :=
  match vecShape i with
  | some h => some (h.mods, h.legal)
  | none =>
    match i with
    | .vld _ | .vlds _ | .vst _ | .vsts _ =>
      some (false, fun e => movableFmt e.d && e.p.a == 31 && noRounding e && e.p.b == 31)
    | .vldx _ | .vstx _ => some (false, moveFmts .indexed)
    | .vgld _ | .tld _ | .tst _ => some (false, fun e => e.p.a == 31 && e.p.b == 31 && noRounding e)
    | .vcvt a => some (true, cvtFmts a)
    | .vqblk a => some (true, vqFmts a)
    | .vdqblk a => some (false, vdqFmts a)
    | .tget _ | .tins _ => some (false, fun e => e.p.b == 31)
    | .tcvt _ => some (true, fun e => e.p.b == 31)
    | .mma _ | .mmz _ | .mmaq _ => some (false, noRounding)
    | _ => none

/-- What an instruction that stores locally with nothing outstanding changes besides the hart's sequence: memory, the
poison of words that it replaces, a reservation that it ends, and the numbering of stores. -/
def StoresOnly (s t : State) : Prop :=
  t = { s with
    mem := t.mem, hart := { retiredHart s with resv := t.hart.resv }, mach := retiredMach s
    ras := { s.ras with poison := t.ras.poison }, off := { s.off with nextId := t.off.nextId } }

/-! ## Tiles and the Array (chapter 7) -/

/-- No register of a run of physical tiles is EMPTY or read-locked (R51, R190). -/
def tilesFree (s : State) (base span : Nat) : Bool :=
  (mGroup base span).all fun r => !(regState s r).isEmpty && (match r with
    | .m n => !(lockedTiles s).contains n | .x _ | .v _ => true)

/-- A run of physical tiles is FULL with the value `v`, first register lowest, and every other register is as before. -/
def WritesTiles (s t : State) (base span v : Nat) : Prop :=
  tileValue t base span = v % 2 ^ (65536 * span) ∧
  (∀ n, base ≤ n → n < base + span → regState t (.m n) = .full) ∧
  (∀ n, n < base ∨ base + span ≤ n → getM t n = getM s n) ∧ t.hart.x = s.hart.x ∧ t.hart.v = s.hart.v

/-- A run of physical tiles is EMPTY under the address of this instruction, and every other register is as before. -/
def EmptiesTiles (s t : State) (base span : Nat) : Prop :=
  (∀ n, base ≤ n → n < base + span → regState t (.m n) = .empty s.hart.pc) ∧
  (∀ n, n < base ∨ base + span ≤ n → getM t n = getM s n) ∧ t.hart.x = s.hart.x ∧ t.hart.v = s.hart.v

/-- The tile instructions that work on the core: when their prefixes and formats are accepted, and when they then take
ARRAY_STATE before they read a register (R54, R176, R179, R198, R199, R204 to R206). -/
def tileForm (i : Instr) : Option ((State → Bool) × (State → Bool)) :=
  let inPlace (s : State) (h : Shape) (f span : Nat) : Bool := tilesInCount s f span && h.valid span
  match i with
  | .tzero a => some (fun s => !prefixPending s, fun s => !tilesInCount s a.d.toNat (destSpan a))
  | .tld a | .tst a => some (fun s => prefixOk false tileMoveFmts s && tileFmt (moveShape s a).fmt,
      fun s => !inPlace s (moveShape s a) a.d.toNat (destSpan a))
  | .tget a => some (fun s =>
      let h := tileShape s a.s1.toNat
      prefixOk false (fun e => e.p.b == 31) s && partFmts h.fmt (tgetFmt s a)
        && ((effOf s).p.a == 31 || (effOf s).p.a == h.fmt) && srcAligned a.s1.toNat h,
      fun s => !tilesInCount s a.s1.toNat (tileShape s a.s1.toNat).span || !(tileShape s a.s1.toNat).validSource)
  | .tins a => some (fun s =>
      let h := tileShape s a.d.toNat
      prefixOk false (fun e => e.p.b == 31) s && partFmts h.fmt (tinsFmt s a)
        && ((effOf s).p.d == 31 || (effOf s).p.d == h.fmt),
      fun s => !inPlace s (tileShape s a.d.toNat) a.d.toNat (destSpan a))
  | .tcvt a => some (fun s => prefixOk true (fun e => e.p.b == 31) s && !tcvtIllegal a s, tcvtBad a)
  | .ttrn a => some (fun s =>
      let hs := tileShape s a.s1.toNat
      !prefixPending s && plainFmt hs.fmt && plainFmt (tileShape s a.d.toNat).fmt && srcAligned a.s1.toNat hs,
      fun s =>
        let hs := tileShape s a.s1.toNat
        let hd := tileShape s a.d.toNat
        !tilesInCount s a.s1.toNat hs.span || !hs.validSource || !inPlace s hd a.d.toNat (destSpan a)
          || hs.fmt != hd.fmt || hd.rows != hs.cols || hd.cols != hs.rows
          || runsMeet a.s1.toNat hs.span a.d.toNat (destSpan a))
  | _ => none

/-! ## Quantised blocks (R82, R86) -/

/-- The finite values of a block have a greatest magnitude that is not zero: m × 2^e. -/
def IsLargest (x : Nat → Machine.Num) (m : Nat) (e : Int) : Prop :=
  m ≠ 0 ∧ (∃ k < 32, ∃ n, x k = .fin n m e) ∧ ∀ k < 32, ∀ n m' e', x k = .fin n m' e' → magLt m e m' e' = false

def isInf : Machine.Num → Bool
  | .inf _ => true | .nan _ | .fin _ _ _ => false

/-- Every finite value of a block is zero. -/
def NoFinite (x : Nat → Machine.Num) : Prop := ∀ k < 32, ∀ n m e, x k = .fin n m e → m = 0

/-- An infinity before MX quantisation: the largest f32 value under SAT, infinity where the format has one, else NaN. -/
def mxSource (sat : Bool) (f : Nat) (x : Machine.Num) : Machine.Num :=
  match x with
  | .inf n => if sat then limitOf 0 n else if hasInfinity f then .inf n else .nan false
  | x => x

/-- The scale and codes of an MX block (R82): an e2m1 block with a NaN has scale 255 and zeros; otherwise the scale puts the
greatest magnitude below 2^(emax + 1), within its range, and every value is divided by it, rounded and saturated. -/
def MxQuantised (f : Nat) (sat : Bool) (x : Nat → Machine.Num) (scale : Nat) (code : Nat → Nat) : Prop :=
  let y (k : Nat) : Machine.Num := mxSource sat f (x k)
  let emax : Int := if f = 3 then 8 else if f = 4 then 15 else 2
  if f = 5 ∧ ((List.range 32).any fun k => (y k).isNaN) = true then scale = 255 ∧ ∀ k < 32, code k = 0
  else ∃ ex : Int, scale = (ex + 127).toNat ∧ (∀ k < 32, code k = (quantMxElem f ex (y k)).1 % 2 ^ fmtWidth f) ∧
    ((NoFinite y ∧ ex = -127) ∨ ∃ m e, IsLargest y m e ∧ ex = min (max (e + m.log2 - emax) (-127)) 127)

/-- The scale word and codes of a tidal block (R86): the high tide is the one at which the greatest magnitude rounds to at
most M, within 1 to 4,094, and the low tide is g binades lower. -/
def TidalQuantised (f : Nat) (sat : Bool) (x : Nat → Machine.Num) (scale : Nat) (code : Nat → Nat) : Prop :=
  let mMax : Nat := if f = 6 then 63 else 3
  let g : Nat := if f = 6 then 6 else 2
  let bias : Int := if f = 6 then 2052 else 2048
  let tides (eh : Nat) : Prop := scale = max (eh - g) 1 * 4096 + eh ∧
    ∀ k < 32, code k = (quantTidalElem f sat mMax bias eh (max (eh - g) 1) (x k)).1 % 2 ^ fmtWidth f
  if sat = true ∧ ((List.range 32).any fun k => isInf (x k)) = true then tides 4094
  else (NoFinite x ∧ scale = 0 ∧ ∀ k < 32, code k = (match x k with | .fin _ _ _ => 0 | .nan _ | .inf _ => 2 ^ (fmtWidth f - 1)))
    ∨ ∃ m e, IsLargest x m e ∧
        let first : Int := e + m.log2 + 2047
        let high : Int := if mMax < roundMag false m e (first - bias) .rne then first + 1 else first
        tides (min (max high 1) 4094).toNat

/-- A block of 32 values quantised into a block format. -/
def Quantised (f : Nat) (sat : Bool) (x : Nat → Machine.Num) (scale : Nat) (code : Nat → Nat) : Prop :=
  if isTidal f then TidalQuantised f sat x scale code else MxQuantised f sat x scale code

/-- Element k of a block is an infinity that traps (R76): OFT is 1, SAT is 0, and the format has no infinity. -/
def blockTraps (s : State) (f : Nat) (sat : Bool) (v : Machine.Num) : Bool :=
  s.user.oft && !sat && !hasInfinity f && isInf v

def matForm? : Instr → Option (VT × MatKind)
  | .mma a => some (a, .mma) | .mmz a => some (a, .mmz) | .mmaq a => some (a, .mmaq)
  | _ => none

/-- This core's lease. -/
def ownLease (s : State) : Lease := leaseOf s (ownMember s)

/-- A step of an agent is pending, and no packet brings it. -/
def pending (s : State) (ev : Instr) : Prop := ∃ e ∈ s.sched.agenda, e.ev = ev ∧ e.via = none

/-! ## Requests and their answers -/

/-- A packet from one package to another on a channel, this package being one of the two, is on its way (R404, R405). -/
def PacketOut (t : State) (src dst : Nat) (ch : Channel) (ev : Instr → Prop) (is : Arrival → Prop) : Prop :=
  ∃ e ∈ t.sched.agenda, ev e.ev ∧ ∃ a, e.via = some a ∧ a.src = BitVec.ofNat 12 src ∧ a.dst = BitVec.ofNat 12 dst ∧
    a.channel = ch ∧ is a

/-- The step by which an answer within the package comes to where it goes. -/
def answerStep (rto : ReplyTo) (r : Response) : Option Instr :=
  match rto with
  | .job id part => some (.producerCompletion id part r)
  | .hart => some (.counterResponseArrival r)
  | .arm core => some (.armFiringArrives (.arm core))
  | .hostArm slot => some (.armFiringArrives (.hostArm slot))
  | .drain id => some (.producerCompletion id 0 r)
  | .none | .transfer _ | .collective _ _ _ | .host _ | .over _ _ => none

/-- The answer is on its way: within the package as a step, and to another one as a packet of channel 1 that names what it
answers (R405); to a lost package none goes. -/
def Answers (t : State) (rto : ReplyTo) (r : Response) : Prop :=
  (∀ ev, answerStep rto r = some ev → pending t ev) ∧
  ∀ o inner, rto = .over o inner →
    ((o.dst = t.ras.pkg ∧ reachable t o.src.toNat = true) ∨ (o.dst ≠ t.ras.pkg ∧ o.src = t.ras.pkg)) →
    PacketOut t o.dst.toNat o.src.toNat .answer (fun _ => True) fun a =>
      a.answers = some (o.ch, o.rid) ∧ a.answer = some (inner, r) ∧ a.pid = o.pid ∧
        a.kind = BitVec.ofNat 6 (answerKind o.kind inner r)

/-- A step has been handed to the agent of a package: within the package of the current step it is pending, between this
package and another it is a packet, and of a lost package the issuer is told so (R413). -/
def Sent (t : State) (pkg : Nat) (ch : Channel) (ev : Instr) : Prop :=
  let here := herePkg t
  if pkg = here then pending t ev
  else if here = t.ras.pkg.toNat then
    if reachable t pkg then PacketOut t here pkg ch (fun e => e = ev) fun a => a.answer = none
    else Answers t (replyToOf ev) (.failed dLostPeer (BitVec.ofNat 12 pkg))
  else if pkg = t.ras.pkg.toNat then PacketOut t here pkg ch (fun e => e = ev) fun a => a.answer = none
  else ∃ e ∈ t.sched.agenda, e.ev = ev ∧ e.via = none ∧ e.place = some (BitVec.ofNat 12 pkg)

/-- A contribution is answered (R371, R372): within the package by a step, and one that a packet brought by a CANSWER that
names its packet, unless its sender has been lost. -/
def Acknowledged (s t : State) (c : Contribution) (accepted : Bool) : Prop :=
  (s.sched.packet = none → pending t (.canswerArrival c accepted)) ∧
  ∀ src ch rid, s.sched.packet = some (src, ch, rid) →
    ((herePkg s = s.ras.pkg.toNat ∧ reachable s src.toNat = true) ∨ (herePkg s ≠ s.ras.pkg.toNat ∧ src = s.ras.pkg)) →
    PacketOut t (herePkg s) src.toNat .collective (fun ev => ev = .canswerArrival c accepted) fun a =>
      a.kind = 25 ∧ a.answers = some (.collective, rid) ∧ a.answer = none

/-- A waiter or an arm of a counter of package `pkg` is woken: where it waits in that package it is answered, and elsewhere
a WAKE of channel 2 with the PID of its job goes to it (R276, R404, R405). -/
def Woken (t : State) (pkg : Nat) (pid : Pid) (rto : ReplyTo) (r : Response) : Prop :=
  let to_ := wokenPkg t rto
  if to_ = pkg then Answers t (replyBase rto) r
  else ((pkg = t.ras.pkg.toNat ∧ reachable t to_ = true) ∨ (pkg ≠ t.ras.pkg.toNat ∧ to_ = t.ras.pkg.toNat)) →
    PacketOut t pkg to_ .message (fun _ => True) fun a => a.kind = 18 ∧ a.pid = pid ∧ a.answer = some (replyBase rto, r)

/-- An instruction retires as a producer: rd is EMPTY under its own address, one operation of its class is out, and no
other register changes (R44, R47). -/
def BecomesProducer (s t : State) (rd : RegIdx) (cls : BitVec 8) (aq : Bool) : Prop :=
  (rd ≠ 0 → regState t (.x rd.toNat) = .empty s.hart.pc) ∧ (∀ n, n ≠ rd.toNat → getX t n = getX s n) ∧
    t.hart.v = s.hart.v ∧ t.hart.m = s.hart.m ∧ t.hart.pc = (retiredHart s).pc ∧ t.user = s.user ∧
    t.mach = retiredMach s ∧ t.off.nextId = s.off.nextId + 1 ∧
    ∃ j, t.off.jobs = [j] ∧ j.id = s.off.nextId ∧ j.dest = .x rd.toNat ∧ j.pc = s.hart.pc ∧ j.cls = cls ∧ j.aq = aq

/-- The same, and no byte changes. -/
def StartsProducer (s t : State) (rd : RegIdx) (cls : BitVec 8) (aq : Bool) : Prop :=
  BecomesProducer s t rd cls aq ∧ SameMemory s t

/-- Memory is as the translation of an access through this core's station leaves it: the A and D bits of its leaf may be
set (R235). -/
def TranslatedMemory (s t : State) (ea : Word) (kind : AccessKind) : Prop :=
  ∀ k, Memory.get t.mem k = Memory.get (translate s (stationOf (ownCore s)) s.sup.pid ea kind).1.mem k

/-- An instruction retires in sequence with an effect elsewhere: the hart's registers and every byte stay. -/
def RetiresElsewhere (s t : State) : Prop :=
  t.hart = retiredHart s ∧ t.mach = retiredMach s ∧ t.user = s.user ∧ SameMemory s t

/-- A step of another agent: the hart and every byte stay. -/
def LeavesHart (s t : State) : Prop := t.hart = s.hart ∧ t.user = s.user ∧ t.sup = s.sup ∧ SameMemory s t

/-! ## CSRs -/

/-- CSRs that a write simply stores into, with the bits that they hold (R103 to R110, R137, R152, R175, R179, R345). -/
def plainMask (s : State) (n : Nat) : Option Word :=
  if 0x810 ≤ n ∧ n ≤ 0x81F then some 0x3FFFFF
  else if 0x830 ≤ n ∧ n ≤ 0x83B then some (BitVec.allOnes 64)
  else if n = 0x822 then (if s.hart.priv = .user then none else some 0x1FF)
  else
    (([(0x800, 0xFF), (0x801, 0x1F), (0x804, 0xFFFFFFFF), (0x805, 0xFFFFFFFF), (0x806, 3), (0x820, 0xF),
       (0x840, 0xFFFFFFFFFF), (0x106, 7), (0x5C0, 0x7F0010FF), (0x5C3, 0xFFFFFFFF), (0x5C4, 0xFFFFFFFF), (0x5C5, 3),
       (0x5CC, 0xFFFF), (0x302, 0x7F0013FF), (0x303, 0xF0202), (0x304, 0xF0A0A), (0x306, 7)]
      ++ [0x808, 0x809, 0x80B, 0x80C, 0x141, 0x341].map (fun n => (n, ~~~(3 : Word)))
      ++ [0x105, 0x305].map (fun n => (n, ~~~(2 : Word))) ++ [(0x5C2, ~~~(0x0F000000 : Word))]
      ++ [0x140, 0x142, 0x143, 0x5C1, 0x5C9, 0x5CB, 0x340, 0x342, 0x343, 0xB00, 0xB02].map
        (fun n => (n, BitVec.allOnes 64)) : List (Nat × Word)).find? fun p => p.1 == n).map (·.2)

/-- What a write to jctl does (R109, R118): HANGEN and DSPGO are stored, DRN resumes the drain, DDROP discards what is held. -/
def JctlWritten (s t : State) (v : Word) : Prop :=
  t.sup = { s.sup with
    hangen := v.getLsbD 5, dspgo := v.getLsbD 0, dheld := s.sup.dheld && !(v.getLsbD 3 || v.getLsbD 4) } ∧
  (v.getLsbD 4 = true → s.sup.dheld = true → drainStores t = []) ∧
  ((v.getLsbD 4 = false ∨ s.sup.dheld = false) → drainStores t = drainStores s)

/-- A transfer that a launch has just made: its number, and what it captured (R344). -/
def Launched (s t : State) : Prop :=
  t.launches = s.launches + 1 ∧
    ∃ x ∈ t.transfers, x.id = s.launches ∧ x.snap = s.user.shadow ∧ x.actor = s.act.name ∧ x.pid = s.sup.pid ∧ x.step = 0

/-! ## Save areas (R122 to R130) -/

/-- The bytes of a save area lie at `key`: a local area in this core's scratchpad, and a translated one page by page where
the station's entries say, in own HBM. -/
def AreaAt (s : State) (op : Word) (kind : AccessKind) (key : Nat → Nat) : Prop :=
  let area := op.toNat / 4096 * 4096
  let station := stationOf (ownCore s)
  (area + 0x24000 ≤ 0x80000 ∧ ∀ o, key o = s.coreid.toNat * 0x80000 + area + o) ∨
  (0x80000 ≤ area ∧ area + 0x24000 ≤ 2 ^ 56 ∧ s.ras.deadChannels = [] ∧
    (∀ o, o < 0x24000 → key o = key (o / 4096 * 4096) + o % 4096) ∧
    ∀ i, i < 36 → ∃ e x,
      let va : Word := BitVec.ofNat 64 (area + 4096 * i)
      s.stn.tlb.find? (fun q => tlbMatches q station s.sup.pid va && tlbServes s kind q) = some e ∧
        checkLeaf s station kind e.level e.leaf va = .ok x ∧ x.aperture = 0 ∧ x.key = key (4096 * i))

/-- No two pages of the area are one, and none holds a leaf that the station's entries name. -/
def AreaApart (s : State) (key : Nat → Nat) : Prop :=
  (∀ i j, i < 36 → j < 36 → i ≠ j → key (4096 * i) + 4096 ≤ key (4096 * j) ∨ key (4096 * j) + 4096 ≤ key (4096 * i)) ∧
  ∀ e ∈ s.stn.tlb, ∀ o, o < 0x24000 → key o < e.leafKey ∨ e.leafKey + 8 ≤ key o

/-- The word at an offset of an area. -/
def areaWord (s : State) (key : Nat → Nat) (off : Nat) : Nat := loaded s (key off) 8

/-- The code of register `n` in the state map, and the register (R124). -/
def areaCode (s : State) (key : Nat → Nat) (n : Nat) : Nat :=
  (Memory.get s.mem (key (0x300 + n / 4))).toNat / 4 ^ (n % 4) % 4

def savedName (n : Nat) : RegName := if n < 32 then .x n else if n < 64 then .v (n - 32) else .m (n - 64)

/-- The header words that are CSRs of the always-saved part: number, offset and the bits that a load keeps (R123). -/
def savedCsrs : List (Nat × Nat × Word) :=
  [(0x800, 0x10, 0xFF), (0x801, 0x18, 0x1F), (0x5C3, 0x20, 0xFFFFFFFF), (0x5C4, 0x28, 0xFFFFFFFF), (0x5C5, 0x30, 3)]
    ++ (List.range 12).map fun n => (0x830 + n, 0x100 + 8 * n, BitVec.allOnes 64)

/-- Register `n` as an area holds it: code, producer record and, where it is FULL, its words. -/
def RegSaved (s t : State) (key : Nat → Nat) (n words off : Nat) (value : Nat) : Prop :=
  let record (pc info : Word) : Prop :=
    areaWord t key (0x340 + 16 * n) = pc.toNat ∧ areaWord t key (0x348 + 16 * n) = info.toNat
  match regState s (savedName n) with
  | .full => areaCode t key n = 0 ∧ record 0 0 ∧ ∀ k, k < words → areaWord t key (off + 8 * k) = value / 2 ^ (64 * k) % 2 ^ 64
  | .faulted pc info => areaCode t key n = 2 ∧ record pc info
  | .empty _ => True

/-- A matrix command as an area holds it (R125): its word with physical tile numbers, and its FMT word. -/
def CmdSaved (c : ArrayCmd) (w0 w1 : Nat) : Prop :=
  w0 % 2 ^ 7 = c.word.toNat % 2 ^ 7 ∧ w0 / 2 ^ 7 % 32 = c.d ∧ w0 / 2 ^ 12 % 8 = c.word.toNat / 2 ^ 12 % 8 ∧
    w0 / 2 ^ 15 % 32 = c.a ∧ w0 / 2 ^ 20 % 32 = c.b ∧ w0 / 2 ^ 25 % 2 ^ 7 = c.word.toNat / 2 ^ 25 ∧ w0 / 2 ^ 32 = c.dField ∧
    w1 = (match c.fmtWord with | some f => f.toNat + 2 ^ 32 | none => 0)

/-- What ctxsave leaves in its area where no wait is pending and no store is held (R122 to R125). -/
def ImageSaved (s t : State) (op : Word) (key : Nat → Nat) : Prop :=
  let vec := op.getLsbD 1
  let tile := op.getLsbD 2
  let w := areaWord t key
  let cmds := if tile then s.arr.queue.take 8 else []
  let results := if tile then s.arr.results.take 16 else []
  let named (n : Nat) : Prop := 64 ≤ n ∧ ∃ c ∈ cmds, n - 64 ∈ c.dest
  let zero (lo hi : Nat) : Prop := ∀ o, lo ≤ o → o < hi → Memory.get t.mem (key o) = 0
  let stays (lo hi : Nat) : Prop := ∀ o, lo ≤ o → o < hi → Memory.get t.mem (key o) = Memory.get s.mem (key o)
  w 0 = 1 + s.sup.pid.toNat * 2 ^ 16 + 2 ^ 32 + (if vec then 2 ^ 33 else 0) + (if tile then 2 ^ 34 else 0) ∧
  (lanesLeased s < 16 → w 8 = lanesLeased s + cmds.length * 2 ^ 10 + results.length * 2 ^ 14) ∧
  (∀ p ∈ savedCsrs, w p.2.1 = (readCsr s (BitVec.ofNat 12 p.1)).toNat) ∧
  (∀ n, n < 6 → w (0x38 + 8 * n) = (readCsr s (BitVec.ofNat 12 (0x808 + n))).toNat) ∧
  (w 0x160 = s.act.name.toNat ∧ w 0x168 = s.act.typ.toNat ∧ w 0x170 = s.act.sbase.toNat ∧ w 0x178 = s.act.slimit.toNat ∧
    w 0x180 = s.act.wbase.toNat ∧ w 0x188 = s.act.wlimit.toNat ∧ w 0x190 = s.act.clrbase.toNat ∧
    w 0x198 = s.act.clrlimit.toNat ∧ w 0x1A0 = (readCsr s 0xCCC).toNat ∧ w 0x1A8 = s.sup.pid.toNat ∧
    w 0x1B0 = s.sup.hrem.toNat ∧ w 0x1B8 = (if s.sup.dfrom then 1 else 0) ∧ zero 0x1C0 0x200) ∧
  (∀ n, 0 < n → n < 32 → RegSaved s t key n 1 (0x200 + 8 * n) (getX s n).val.toNat) ∧
  (∀ n, n < 32 → regState s (.x n) ≠ .full → w (0x200 + 8 * n) = 0) ∧ w 0x200 = 0 ∧
  ((∀ x ∈ s.hart.x0, x.failed = none) → areaCode t key 0 = 0) ∧
  (∀ x info, s.hart.x0.find? (fun x => x.failed.isSome) = some x → x.failed = some info →
    areaCode t key 0 = 2 ∧ w 0x340 = x.pc.toNat ∧ w 0x348 = info.toNat) ∧
  (∀ n, n < 32 → RegSaved s t key (32 + n) (if vec then 8 else 0) (0x2000 + 64 * n) (getV s n).val.toNat) ∧
  (∀ n, n < 16 → ¬ named (64 + n) →
    RegSaved s t key (64 + n) (if tile then 1024 else 0) (0x4000 + 8192 * n) (getM s n).val.toNat) ∧
  (∀ n pc, n < 16 → named (64 + n) → regState s (.m n) = .empty pc →
    areaCode t key (64 + n) = 1 ∧ w (0x340 + 16 * (64 + n)) = pc.toNat ∧ w (0x348 + 16 * (64 + n)) = 0) ∧
  (tile = true → w 0x68 = (readCsr s 0x820).toNat ∧ w 0x70 = (readCsr s 0x822).toNat ∧ w 0x78 = (readCsr s 0x840).toNat ∧
    (∀ n : Fin 16, w (0x80 + 8 * n.val) = s.user.tshape[n].toNat) ∧
    (∀ k r, k < 16 → results[k]? = some r → w (0x18C0 + 16 * k) = r.toNat ∧ w (0x18C8 + 16 * k) = 0) ∧
    (∀ k c, k < 8 → cmds[k]? = some c → c.a < 32 → c.b < 32 → c.d < 32 → c.dField < 16 →
      CmdSaved c (w (0x1840 + 16 * k)) (w (0x1848 + 16 * k))) ∧
    zero (0x1840 + 16 * cmds.length) 0x18C0 ∧ zero (0x18C0 + 16 * results.length) 0x19C0) ∧
  (tile = false → stays 0x68 0x100 ∧ stays 0x1840 0x19C0 ∧ stays 0x4000 0x24000) ∧ (vec = false → stays 0x2000 0x2800) ∧
  zero 0x840 0x1840 ∧ zero 0x19C0 0x2000 ∧ zero 0x2800 0x4000 ∧
  ∀ k, (∀ o, o < 0x24000 → key o ≠ k) → Memory.get t.mem k = Memory.get s.mem k

/-- Register `n` as ctxload leaves it where no record is honoured for it: FULL with its words, FAULTED with its record, or
FAULTED by this instruction (R130). -/
def RegLoaded (s t : State) (key : Nat → Nat) (n words off : Nat) (value : Nat) : Prop :=
  match areaCode s key n with
  | 0 => regState t (savedName n) = .full ∧ ∀ k, k < words → value / 2 ^ (64 * k) % 2 ^ 64 = areaWord s key (off + 8 * k)
  | 2 => regState t (savedName n) = .faulted (BitVec.ofNat 64 (areaWord s key (0x340 + 16 * n)))
      (BitVec.ofNat 64 (areaWord s key (0x348 + 16 * n)))
  | _ => regState t (savedName n) = .faulted s.hart.pc (dfinfoWord s.ras.pkg.toNat 0 0 12 dContextFormat)

/-- What ctxload takes from an image without reissue records, held stores and queued commands (R130). -/
def ImageLoaded (s t : State) (op : Word) (key : Nat → Nat) : Prop :=
  let w (off : Nat) : Word := BitVec.ofNat 64 (areaWord s key off)
  let vec := op.getLsbD 1 && (w 0).getLsbD 33
  let tile := op.getLsbD 2 && (w 0).getLsbD 34
  let loops : Hart := { s.hart with
    loop0 := { start := w 0x38 &&& ~~~(3 : Word), last := w 0x40 &&& ~~~(3 : Word), count := w 0x48 }
    loop1 := { start := w 0x50 &&& ~~~(3 : Word), last := w 0x58 &&& ~~~(3 : Word), count := w 0x60 } }
  let r := endTest (s.hart.pc + 4) { s with hart := loops }
  (t.hart.pc = r.1 ∧ t.hart.loop0 = r.2.hart.loop0 ∧ t.hart.loop1 = r.2.hart.loop1) ∧
  (∀ p ∈ savedCsrs, readCsr t (BitVec.ofNat 12 p.1) = w p.2.1 &&& p.2.2) ∧
  t.act = { name := w 0x160, typ := (w 0x168).setWidth 8, sbase := (w 0x170).setWidth 19, slimit := (w 0x178).setWidth 20
            wbase := (w 0x180).setWidth 19, wlimit := (w 0x188).setWidth 20, clrbase := (w 0x190).setWidth 19
            clrlimit := (w 0x198).setWidth 20, tslots := if isLive s (w 0x160) then 0 else w 0x1A0 } ∧
  (t.sup.hrem = w 0x1B0 ∧ t.sup.dspgo = (w 0x1B8).getLsbD 0 ∧ t.sup.pid = s.sup.pid ∧ t.sup.dheld = false) ∧
  (∀ n, 0 < n → n < 32 → RegLoaded s t key n 1 (0x200 + 8 * n) (getX t n).val.toNat) ∧
  (areaCode s key 0 = 0 → t.hart.x0 = []) ∧
  (vec = true → ∀ n, n < 32 → RegLoaded s t key (32 + n) 8 (0x2000 + 64 * n) (getV t n).val.toNat) ∧
  (vec = false → t.hart.v = s.hart.v) ∧
  (tile = true → (∀ n, n < 16 → RegLoaded s t key (64 + n) 1024 (0x4000 + 8192 * n) (getM t n).val.toNat) ∧
    t.user.aweight = (w 0x68).setWidth 4 ∧ t.user.tcount = (w 0x70).extractLsb' 4 5 ∧ t.user.tbaseReg = (w 0x70).setWidth 4 ∧
    t.user.ctimeout = (w 0x78).setWidth 40 ∧ (∀ n : Fin 16, t.user.tshape[n] = (w (0x80 + 8 * n.val)).setWidth 22) ∧
    t.arr.results = (List.range ((w 8).toNat / 2 ^ 14)).map (fun k => w (0x18C0 + 16 * k)) ∧ t.arr.queue = [] ∧
    ((w 8).toNat % 16 = 0 → (ownLease t).st = .none) ∧
    ((w 8).toNat % 16 ≠ 0 → (ownLease t).st = .requested ∧ (ownLease t).count = (w 8).toNat % 16)) ∧
  (op.getLsbD 2 = false → t.hart.m = s.hart.m ∧ t.arr.queue = s.arr.queue ∧ t.arr.results = s.arr.results ∧
    ownLease t = ownLease s)

/-! ## Counters (chapter 10) -/

/-- The counter instructions that are producers: fields, the registers read, the handle and the request (R266 to R273). -/
def counterRequest (s : State) : Instr → Option (RT × List RegIdx × Word × (ReplyTo → Instr))
  | .cadd a => some (a, [a.rs1, a.rs2], xval s a.rs1, .homeCadd (xval s a.rs1) (xval s a.rs2) (issuerOf s))
  | .cwait a | .cwaitt a => some (a, [a.rs1, a.rs2], xval s a.rs1, .homeCwait (xval s a.rs1) (xval s a.rs2) (issuerOf s))
  | .cpoll a => some (a, [a.rs1], xval s a.rs1, .homeCpoll (xval s a.rs1) (issuerOf s))
  | .cset a => some (a, [a.rs1, a.rs2], xval s a.rs1, .homeCset (xval s a.rs1) (xval s a.rs2) (issuerOf s))
  | .calloc a => some (a, [], s.ras.pkg.setWidth 64 <<< 52, .homeCalloc (issuerOf s))
  | _ => none

/-- The counter instructions whose response the hart stalls for. -/
def counterStallRequest (s : State) : Instr → Option (RT × List RegIdx × Instr)
  | .cfree a => some (a, [a.rs1], .homeCfree (xval s a.rs1) (issuerOf s) .hart)
  | .carm a => some (a, [a.rs1, a.rs2],
      .homeCarm (xval s a.rs1) (xval s a.rs2) (issuerOf s) .hart (.arm (ownCore s)))
  | _ => none

/-- A handle of this package that names a LIVE counter which the issuer may use (R250). -/
def Usable (s : State) (h : Word) (src : Issuer) : Prop :=
  hPkg h = s.ras.pkg.toNat ∧ hIndex h ≠ 0 ∧ (counterAt s (counterKey s h)).st = .live ∧
    (counterAt s (counterKey s h)).check = hCheck h ∧
    (src.anyJob = true ∨ (counterAt s (counterKey s h)).pid = src.pid)

/-- The value of the counter of a handle. -/
def counterValue (s : State) (h : Word) : Nat := (counterAt s (counterKey s h)).value.toNat

/-- Waiters and arms of the counter that a value reaches are told and gone, and the others stay (R257, R259). -/
def Wakes (s t : State) (h : Word) (v : Nat) : Prop :=
  (∀ w ∈ s.ctr.waiters, w.counter = counterKey s h → w.threshold.toNat ≤ v →
    w ∉ t.ctr.waiters ∧ Woken t (hPkg h) w.issuer.pid w.replyTo (.value (BitVec.ofNat 64 v))) ∧
  (∀ w ∈ s.ctr.waiters, ¬ (w.counter = counterKey s h ∧ w.threshold.toNat ≤ v) → w ∈ t.ctr.waiters) ∧
  (∀ w ∈ t.ctr.waiters, w ∈ s.ctr.waiters)

/-- No counter but the one of the handle changes. -/
def OtherCounters (s t : State) (h : Word) : Prop := ∀ k, k ≠ counterKey s h → counterAt t k = counterAt s k

/-! ## Actors (chapters 12 to 15) -/

/-- The hart runs the handler of a live actor of this core (R104, R308): its table index. -/
def RunsHandler (s : State) (a : Actor) : Prop :=
  s.hart.priv = .user ∧ s.act.name ≠ 0 ∧ s.hart.disp = false ∧ liveActor s s.act.name = some a ∧ a.st = .running ∧
    coreIndex s (namePkg s.act.name) (nameCore s.act.name) = ownCore s

/-- A death is fixed: the actor is EXITING with it, and its exit walk is pending (R306, R379). -/
def Exits (s t : State) (name : Word) (d : Death) : Prop :=
  (actorAt t (actorIx s name)).st = .exiting ∧ (actorAt t (actorIx s name)).death = some d ∧ pending t (.exitWalk name)

/-- The end of a run (R102): no handler is dispatched, the x and v registers are zero, a failed store that was held is
discarded with every store behind it, other stores stay queued, no result of a producer comes to a register any more, and
the machine waits for what is left before the dispatcher goes on. -/
def EndsRun (s t : State) : Prop :=
  t.hart.disp = true ∧ t.hart.priv = .user ∧ t.act = ActCsrs.zero ∧ t.hart.x = Vector.replicate 32 (Reg.zero 64) ∧
    t.hart.v = Vector.replicate 32 (Reg.zero 512) ∧ t.hart.wait = .runEnd s.act.name ∧ t.sup.dheld = false ∧
    (s.sup.dheld = true → drainStores t = []) ∧
    (s.sup.dheld = false → s.hart.storesDone = 0 → drainStores t = drainStores s) ∧
    ∀ j ∈ t.off.jobs, j.dest = .nothing ∧ j.wait = none

/-- Contributions of this package to another that have had no answer (R411). -/
def unansweredContributions (s : State) (pkg : Nat) : Nat :=
  ((peerOf s pkg).out.get 3).packets.countP fun q => q.via.kind == 24

/-- A link entry (R377). -/
def Linked (s : State) (kind : LinkKind) (owner named : Word) : Prop :=
  ({ kind := kind, owner := owner, named := named } : LinkEntry) ∈ s.actors.links

/-- Word `n` of a record in memory. -/
def recordWord (s : State) (key n : Nat) : Nat := loaded s (key + 8 * n) 8

/-- The launches of the copy engine by the mode of the shadow set (R345, R346). -/
def launchForm : Instr → Option (Nat × RegIdx)
  | .launchCopy rd => some (0, rd) | .launchReduce rd => some (1, rd) | .launchGather rd => some (2, rd)
  | .launchWalk rd => some (3, rd) | .launchTilemove rd => some (4, rd) | .launchConvert rd => some (5, rd)
  | _ => none

/-- The actions of CONTROL (R363). -/
def controlForm : Instr → Option (Nat × RegIdx)
  | .controlQuery rd => some (0, rd) | .controlPause rd => some (1, rd) | .controlResume rd => some (2, rd)
  | _ => none

/-- No transfer of that identity is left. -/
def TransferGone (t : State) (id : Nat) : Prop := ∀ x ∈ t.transfers, x.id ≠ id

end Sys2Proof
end

