-- ==== Sys2Proof/Certificates/Slice0/Obligations.lean ====
section
/-!
DEFINITION. The statements of this model.
-/

section
open Sys2Proof Sys2Proof.Machine

/-! ## Encoding -/

/-- R22 to R42: the word of a well-formed instruction decodes to it, for every operand value. -/
def Obligations.DecodeOfEncodeIsInstruction : Prop :=
  ∀ (i : Instr) (w : IWord), i.wf = true → encode i = some w → decode w = .ok i

/-- R22 to R42: a word that decodes to an instruction is that instruction's one word, so no two words mean the same. -/
def Obligations.EncodeOfDecodeIsWord : Prop :=
  ∀ (w : IWord) (i : Instr), decode w = .ok i → encode i = some w ∧ i.wf = true

/-- Words written out from the printed encodings. R23: words that are no 32-bit instruction, or of a major opcode that
R22 and R24 do not list, are illegal, and take cause 2 with the word unless that cause is delegated to the exit engine. -/
def Obligations.PrintedWordsDecode : Prop :=
  (decode 0x00700293 = .ok (.integerOp (.imm .addi 5 0 7)) ∧
   decode 0x0005307B = .ok (.colset ⟨false, false, 0, 10, 0⟩) ∧
   decode 0x0805307B = .ok (.colclr ⟨false, false, 0, 10, 0⟩) ∧
   decode 0x10C5957B = .ok (.spawn ⟨false, false, 12, 11, 10⟩) ∧
   decode 0x1805307B = .ok (.supdel ⟨false, false, 0, 10, 0⟩)) ∧
  (∀ w : IWord, (w.toNat % 4 ≠ 3 ∨ w.toNat / 4 % 8 = 7 ∨ w.toNat % 128 ∉ [0x03, 0x0B, 0x0F, 0x13, 0x17, 0x1B, 0x23, 0x2B,
       0x2F, 0x33, 0x37, 0x3B, 0x5B, 0x63, 0x67, 0x6F, 0x73, 0x7B]) →
     (∀ i, decode w ≠ .ok i) ∧ ∀ s : State, trapsHere s 2 = true →
       ∃ t, exec (.illegalInstructionWord w) s = .next t ∧ TakesException s t 2 (w.setWidth 64))

/-! ## Integer instructions (R22) -/

/-- MULTIPLY_DIVIDE, with the results of division by zero and of overflow. BIT_MANIPULATION: Zba and Zbb. -/
def Obligations.MulDivAndBitResult : Prop :=
  (∀ (op : MulDivOp) (rd rs1 rs2 : RegIdx) (s : State), ready s (xs [rs1, rs2]) (xs [rd]) = true →
     ∃ t, exec (.multiplyDivide op rd rs1 rs2) s = .next t ∧ RetiresWith s t rd (mulDivSpec op (xval s rs1) (xval s rs2))) ∧
  (∀ (op : BitOp) (s : State), (Instr.bitManipulation op).wf = true →
     ready s (xs (bitParts op).2) (xs [(bitParts op).1]) = true →
     ∃ t v, exec (.bitManipulation op) s = .next t ∧ BitResult s v op ∧ RetiresWith s t (bitParts op).1 v)

/-- INTEGER_OP retires with the integer result in rd, and changes nothing else. LUI and AUIPC: the immediate times
4096, signed, and that added to the pc. -/
def Obligations.IntegerOpResult : Prop :=
  (∀ (op : IntOp) (s : State), (Instr.integerOp op).wf = true →
     ready s (xs (intParts s op).2.1) (xs [(intParts s op).1]) = true →
     ∃ t, exec (.integerOp op) s = .next t ∧ RetiresWith s t (intParts s op).1 (intParts s op).2.2) ∧
  (∀ (rd : RegIdx) (imm : BitVec 20) (s : State), ready s [] (xs [rd]) = true →
     (∃ t, exec (.lui rd imm) s = .next t ∧ RetiresWith s t rd (BitVec.ofInt 64 (4096 * imm.toInt))) ∧
     (∃ t, exec (.auipc rd imm) s = .next t ∧
       RetiresWith s t rd (BitVec.ofInt 64 (s.hart.pc.toInt + 4096 * imm.toInt))))

/-- A branch that is not taken retires in sequence; a taken one goes to an aligned target without an end test. JAL and
JALR write the address of the next instruction and go to an aligned target; JALR clears bit 0. -/
def Obligations.BranchAndJumpResult : Prop :=
  (∀ (a : BranchArgs) (s : State), ready s (xs [a.rs1, a.rs2]) [] = true →
     let target := BitVec.ofInt 64 (s.hart.pc.toInt + branchOffset a)
     (takenSpec a.cond (xval s a.rs1) (xval s a.rs2) = false → ∃ t, exec (.branch a) s = .next t ∧ Retires s t) ∧
     (takenSpec a.cond (xval s a.rs1) (xval s a.rs2) = true → target.toNat % 4 = 0 →
       ∃ t, exec (.branch a) s = .next t ∧ SameMemory s t ∧
         t = { s with hart := jumpedHart target s, mach := retiredMach s })) ∧
  (∀ (op : JumpOp) (s : State),
     let target := match op with
       | .jal _ off => BitVec.ofInt 64 (s.hart.pc.toInt + 2 * off.toInt)
       | .jalr _ rs1 imm => BitVec.ofNat 64 ((address s rs1 imm).toNat / 2 * 2)
     let srcs := match op with | .jal _ _ => [] | .jalr _ rs1 _ => xs [rs1]
     let rd := match op with | .jal rd _ => rd | .jalr rd _ _ => rd
     ready s srcs (xs [rd]) = true → target.toNat % 4 = 0 →
     ∃ t, exec (.jump op) s = .next t ∧ WritesX s t rd (s.hart.pc + 4) ∧ SameMemory s t ∧
       t = { s with hart := { jumpedHart target s with x := t.hart.x }, mach := retiredMach s })

/-- R153: LOOP sets its level's registers, and a count of 0 goes past the body. R154: at the end address of a loop
whose count is not 0 the count falls by one, and control goes back to the start unless the count is then 0; level 0
comes before level 1. -/
def Obligations.LoopInstruction : Prop :=
  (∀ (level : Bool) (rs1 : RegIdx) (len : BitVec 12) (s : State), ready s (xs [rs1]) [] = true → atLoopEnd s = false →
     let last := s.hart.pc + BitVec.ofNat 64 (4 * len.toNat)
     let l : Loop := { start := s.hart.pc + 4, last := last, count := xval s rs1 }
     ∃ t, exec (.loop level rs1 len) s = .next t ∧ SameMemory s t ∧ t.hart.x = s.hart.x ∧ t.hart.v = s.hart.v ∧
       t.hart.m = s.hart.m ∧ t.user = s.user ∧ t.mach = retiredMach s ∧
       (last ≠ s.hart.pc → (if level then t.hart.loop1 else t.hart.loop0) = l ∧
         (if level then t.hart.loop0 = s.hart.loop0 else t.hart.loop1 = s.hart.loop1) ∧
         t.hart.pc = (if xval s rs1 = 0 then last + 4 else s.hart.pc + 4))) ∧
  (∀ (next : Word) (s : State),
     let h := s.hart
     let at0 := h.loop0.count ≠ 0 ∧ h.pc = h.loop0.last
     let at1 := h.loop1.count ≠ 0 ∧ h.pc = h.loop1.last
     let r := endTest next s
     (at0 → r.2.hart.loop0.count.toNat = h.loop0.count.toNat - 1) ∧ (¬ at0 → r.2.hart.loop0 = h.loop0) ∧
     (at0 → 1 < h.loop0.count.toNat → r.1 = h.loop0.start ∧ r.2.hart.loop1 = h.loop1) ∧
     ((¬ at0 ∨ h.loop0.count = 1) → at1 →
       r.2.hart.loop1.count.toNat = h.loop1.count.toNat - 1 ∧
       r.1 = (if 1 < h.loop1.count.toNat then h.loop1.start else next)) ∧
     ((¬ at0 ∨ h.loop0.count = 1) → ¬ at1 → r.1 = next ∧ r.2.hart.loop1 = h.loop1))

/-! ## Exceptions -/

/-- R40, R111, R113: an exception that is not delegated to the exit engine is taken in S-mode or M-mode; one that is
ends the run and its actor, with reason 2 and the cause. The model's choice: the part of the end of run that takes no time
is done in that one step, and the stores and producers that are left are awaited after it (log entry 14). While the dispatcher is active it is a device error, which is
logged and changes nothing of the hart. -/
def Obligations.ExceptionEntry : Prop :=
  ∀ (cause : Nat) (tval : Word) (s : State), cause < 32 →
    (trapsHere s cause = true → TakesException s (trap cause tval s) cause tval) ∧
    (s.hart.disp = false → delegatedToExit s cause = true → isLive s s.act.name = true →
      EndsRun s (trap cause tval s) ∧ Exits s (trap cause tval s) s.act.name
        { reason := 2, detail := BitVec.ofNat 64 (cause * 2 ^ 32 + tval.toNat % 2 ^ 32), origin := s.act.name
          cascade := false }) ∧
    (s.hart.disp = true →
      (trap cause tval s).hart = s.hart ∧ (trap cause tval s).sup = s.sup ∧ SameMemory s (trap cause tval s) ∧
      (s.sched.place = none → s.ras.packageLog.length < 1024 → ∃ r : LogRecord,
        (trap cause tval s).ras.packageLog = s.ras.packageLog ++ [r] ∧ r.word0.toNat / 2 ^ 56 = 11 ∧
        r.word0.toNat / 2 ^ 32 % 2 ^ 16 = cause ∧ r.time = s.ctr.timeline))

/-- R22: ECALL takes cause 8, 9 or 11 with the mode, and EBREAK cause 3. R23, R239: a word that is no instruction
takes cause 2 with the word, a failed fetch its cause with the address; R22: sfence.vma is illegal in every mode, with
its word. -/
def Obligations.InstructionTraps : Prop :=
  (∀ s : State, prefixPending s = false →
     let call := match s.hart.priv with | .user => 8 | .supervisor => 9 | .machine => 11
     (trapsHere s call = true → ∃ t, exec .ecall s = .next t ∧ TakesException s t call 0) ∧
     (trapsHere s 3 = true → ∃ t, exec .ebreak s = .next t ∧ TakesException s t 3 s.hart.pc)) ∧
  (∀ s : State,
     (∀ w : IWord, trapsHere s 2 = true → ∃ t, exec (.illegalInstructionWord w) s = .next t ∧
       TakesException s t 2 (w.setWidth 64)) ∧
     (∀ (c : BitVec 6) (a : Word), (c = 1 ∨ c = 12) → trapsHere s c.toNat = true →
       ∃ t, exec (.instructionFetchFault c a) s = .next t ∧ TakesException s t c.toNat a) ∧
     (∀ (rs1 rs2 : RegIdx) (w : IWord), trapsHere s 2 = true → encode (.sfenceVma rs1 rs2) = some w →
       ∃ t, exec (.sfenceVma rs1 rs2) s = .next t ∧ TakesException s t 2 (w.setWidth 64)))

/-- R111, R100: MRET gives MIE its saved value, goes to MPP and mepc, and with MDFROM = 1 to the dispatcher instead.
R111, R41, R100: SRET, in S-mode and in M-mode, gives SIE its saved value, makes the saved prefix words pending and goes to
SPP and sepc; with DSPGO = 1 it enters the dispatcher and clears DSPGO. While U-mode code runs DFROM and MDFROM are 0.
R154: either makes the end test of a loop that ends at it. The model's choice: an exception of the resumed prefixed
instruction reports the address that its interruption kept, where that was at sepc (log entry 21). -/
def Obligations.TrapReturns : Prop :=
  (∀ s : State, prefixPending s = false → s.hart.priv = .machine →
     ∃ t, exec .mret s = .next t ∧ t.mach.status.mie = s.mach.status.mpie ∧ t.mach.status.mpie = true ∧
       t.mach.status.mpp = .user ∧ t.mach.status.sie = s.mach.status.sie ∧ t.mach.status.spie = s.mach.status.spie ∧
       t.mach.status.spp = s.mach.status.spp ∧
       (s.mach.status.mpp ≠ .machine ∨ s.sup.mdfrom = true → t.mach.status.mprv = false) ∧
       SameMemory s t ∧ t.hart.x = s.hart.x ∧ t.hart.v = s.hart.v ∧ t.hart.m = s.hart.m ∧
       t.hart.loop0 = (endTest s.mach.mepc s).2.hart.loop0 ∧ t.hart.loop1 = (endTest s.mach.mepc s).2.hart.loop1 ∧
       (s.sup.mdfrom = false → t.hart.priv = s.mach.status.mpp ∧ t.hart.pc = (endTest s.mach.mepc s).1 ∧
         t.sup = { s.sup with dfrom := s.sup.dfrom && s.mach.status.mpp != .user }) ∧
       (s.sup.mdfrom = true → t.hart.disp = true ∧ t.hart.priv = .user ∧ t.sup = { s.sup with mdfrom := false })) ∧
  (∀ s : State, prefixPending s = false →
     (s.hart.priv = .machine ∨ (s.hart.priv = .supervisor ∧ s.mach.status.tsr = false)) →
     ∃ t, exec .sret s = .next t ∧
       t.mach.status = { s.mach.status with sie := s.mach.status.spie, spie := true, spp := false, mprv := false } ∧
       SameMemory s t ∧ t.hart.x = s.hart.x ∧ t.hart.v = s.hart.v ∧ t.hart.m = s.hart.m ∧
       t.hart.pend.f = s.sup.spf ∧ t.hart.pend.m = s.sup.spm ∧ t.hart.pend.fv = s.sup.spfv ∧
       t.hart.pend.mv = s.sup.spmv ∧ t.sup.spfv = false ∧ t.sup.spmv = false ∧
       t.hart.loop0 = (endTest s.sup.sepc s).2.hart.loop0 ∧ t.hart.loop1 = (endTest s.sup.sepc s).2.hart.loop1 ∧
       (s.sup.dspgo = false →
         t.hart.priv = (if s.mach.status.spp then .supervisor else .user) ∧ t.hart.pc = (endTest s.sup.sepc s).1 ∧
         (s.mach.status.spp = false → t.sup.dfrom = false ∧ t.sup.mdfrom = false)) ∧
       (∀ first, s.sup.spfirst = some (s.sup.sepc, first) → t.hart.pend.first = first) ∧
       (s.sup.dspgo = true → t.hart.disp = true ∧ t.hart.priv = .user ∧ t.sup.dspgo = false))

/-- FENCE, FENCE_TSO and FENCE_I with nothing outstanding complete at once: registers and memory stay; FENCE_I empties
the instruction cache, and a fence that orders earlier reads empties the strand buffer (R220). R22, R98: WFI holds the
hart until an interrupt is pending and enabled; WFI_WAKE then retires it. -/
def Obligations.FenceAndWaitResult : Prop :=
  (∀ (s : State), ready s [] [] = true → quiet s = true →
     (∀ fm a, ∃ t, exec (.fence fm a) s = .next t ∧ SameMemory s t ∧ t.hart = retiredHart s ∧ t.mach = retiredMach s ∧
       t.stn.strand = (if a.pred ≠ 0 ∧ a.succ ≠ 0 ∧ (a.pred.getLsbD 1 ∨ a.pred.getLsbD 3) then [] else s.stn.strand)) ∧
     (∀ a, ∃ t, exec (.fenceTso a) s = .next t ∧ SameMemory s t ∧ t.hart = retiredHart s ∧ t.mach = retiredMach s ∧
       t.stn.strand = []) ∧
     (∀ imm rs1 rd, ∃ t, exec (.fenceI imm rs1 rd) s = .next t ∧ SameMemory s t ∧ t.hart = retiredHart s ∧
       t.mach = retiredMach s ∧ t.stn = { s.stn with icache := [], badLines := [] })) ∧
  (∀ s : State, prefixPending s = false →
     ((s.hart.priv = .machine ∨ (s.hart.priv = .supervisor ∧ s.mach.status.tw = false)) →
       (s.mach.mip &&& s.mach.mie = 0 → exec .wfi s = .next { s with hart := { s.hart with wait := .wfi } }) ∧
       (s.mach.mip &&& s.mach.mie ≠ 0 → ∃ t, exec .wfi s = .next t ∧ Retires s t)) ∧
     (s.hart.wait = .wfi → s.mach.mip &&& s.mach.mie ≠ 0 → ∃ t, exec .wfiWake s = .next t ∧ Retires s t))

/-! ## Loads, stores and atomics -/

/-- R22: a jump or taken branch to an address that is not 4-byte aligned takes cause 0. R22, R208, R209, R212: a misaligned
load takes cause 4, a misaligned store, atomic, LR or SC cause 6; an access to a reserved class, a store or atomic to group
space and a local access outside the actor's ranges take cause 5 for loads and 7 otherwise, and so do LR and SC of every
address that is not local. The model's choice: a misaligned LR takes the 6 of every atomic (log entry 15). R55, R102, R116,
R117: while a failed store is held, a release, the `endh` or `exit` of a handler, and a store that finds the drain queue
full, take DEFERRED_STORE (26) with the failed store's address, pc and detail. -/
def Obligations.AccessFaultsTrap : Prop :=
  ((∀ (a : BranchArgs) (s : State), ready s (xs [a.rs1, a.rs2]) [] = true →
     let target := BitVec.ofInt 64 (s.hart.pc.toInt + branchOffset a)
     takenSpec a.cond (xval s a.rs1) (xval s a.rs2) = true → target.toNat % 4 ≠ 0 →
       exec (.branch a) s = .next (trap 0 target s)) ∧
   (∀ (rd : RegIdx) (off : BitVec 20) (s : State), ready s [] [] = true →
     let target := BitVec.ofInt 64 (s.hart.pc.toInt + 2 * off.toInt)
     target.toNat % 4 ≠ 0 → exec (.jump (.jal rd off)) s = .next (trap 0 target s)) ∧
   (∀ (rd rs1 : RegIdx) (imm : BitVec 12) (s : State), ready s (xs [rs1]) [] = true →
     let target := BitVec.ofNat 64 ((address s rs1 imm).toNat / 2 * 2)
     target.toNat % 4 ≠ 0 → exec (.jump (.jalr rd rs1 imm)) s = .next (trap 0 target s))) ∧
  ((∀ (i : Instr) (a : LoadArgs) (n : Nat) (signed : Bool) (s : State), loadForm i = some (a, n, signed) →
     ready s (xs [a.rs1]) [] = true →
     let ea := address s a.rs1 a.imm
     (ea.toNat % n ≠ 0 → exec i s = .next (trap 4 ea s)) ∧
     (ea.toNat % n = 0 → 0x0100000000000000 ≤ ea.toNat → ea.toNat < 0xFFF0000000000000 →
       exec i s = .next (trap 5 ea s)) ∧
     (ea.toNat % n = 0 → 0xFFF0000000000000 ≤ ea.toNat → groupScalarOk ea n = false → exec i s = .next (trap 5 ea s)) ∧
     (ea.toNat % n = 0 → ea.toNat < 0x80000 → localOk s ea.toNat n = false → exec i s = .next (trap 5 ea s))) ∧
   (∀ (i : Instr) (a : StoreArgs) (n : Nat) (s : State), storeForm i = some (a, n) →
     ready s (xs [a.rs1, a.rs2]) [] = true → quiet s = true →
     let ea := address s a.rs1 a.imm
     (ea.toNat % n ≠ 0 → exec i s = .next (trap 6 ea s)) ∧
     (ea.toNat % n = 0 → 0x0100000000000000 ≤ ea.toNat → exec i s = .next (trap 7 ea s)) ∧
     (ea.toNat % n = 0 → ea.toNat < 0x80000 → localOk s ea.toNat n = false → exec i s = .next (trap 7 ea s)))) ∧
  ((∀ (i : Instr) (a : RT) (op : AtomicOp) (n : Nat) (s : State), atomicForm i = some (a, op, n) →
     ready s (xs ([a.rs1, a.rs2] ++ (if op = .casD then [a.rd] else []))) [] = true → (a.rl = true → s.sup.dheld = false) →
     let ea := xval s a.rs1
     (ea.toNat % n ≠ 0 → exec i s = .next (trap 6 ea s)) ∧
     (ea.toNat % n = 0 → 0x0100000000000000 ≤ ea.toNat → exec i s = .next (trap 7 ea s)) ∧
     (ea.toNat % n = 0 → ea.toNat < 0x80000 → localOk s ea.toNat n = false → exec i s = .next (trap 7 ea s))) ∧
   (∀ (i : Instr) (a : RT) (n : Nat) (s : State),
     (lrForm i = some (a, n) ∧ ready s (xs [a.rs1]) [] = true) ∨
       (scForm i = some (a, n) ∧ ready s (xs [a.rs1, a.rs2]) [] = true ∧ (a.rl = true → s.sup.dheld = false)) →
     let ea := xval s a.rs1
     (ea.toNat % n ≠ 0 → exec i s = .next (trap 6 ea s)) ∧
     (ea.toNat % n = 0 → 0x80000 ≤ ea.toNat → exec i s = .next (trap 7 ea s)) ∧
     (ea.toNat % n = 0 → ea.toNat < 0x80000 → localOk s ea.toNat n = false → exec i s = .next (trap 7 ea s)))) ∧
  (∀ (i : Instr) (s : State) (e : StoreEntry) (rest : List StoreEntry), prefixPending s = false → s.hart.wait = .none →
    s.sup.dheld = true → drainStores s = e :: rest →
    (releaseForm i = true ∨ ((storeForm i).isSome = true ∧ 15 ≤ rest.length) ∨
      ((∃ a, i = .endh a ∨ i = .exit a) ∧ s.hart.priv = .user ∧ s.act.name ≠ 0)) → exec i s =
      .next (trap 26 e.addr { s with sup := { s.sup with dfpc := e.pc, dfinfo := s.off.heldInfo } }))

/-- R22, R213: an aligned local load with nothing outstanding retires with the bytes of memory in rd. R22, R213: an
aligned local store with nothing outstanding puts the low bytes of rs2 at its address, and nothing else; a reservation
of an overlapping word ends. -/
def Obligations.LocalLoadAndStoreResult : Prop :=
  (∀ (i : Instr) (a : LoadArgs) (n : Nat) (signed : Bool) (s : State), loadForm i = some (a, n, signed) →
     ready s (xs [a.rs1]) (xs [a.rd]) = true → quiet s = true → localReady s (address s a.rs1 a.imm) n = true →
     let v := loaded s (hereKey s (address s a.rs1 a.imm)) n
     ∃ t, exec i s = .next t ∧
       RetiresWith s t a.rd (if signed then BitVec.ofInt 64 (toSigned (8 * n) v) else BitVec.ofNat 64 v)) ∧
  (∀ (i : Instr) (a : StoreArgs) (n : Nat) (s : State), storeForm i = some (a, n) → MemoryCanonical s →
     ready s (xs [a.rs1, a.rs2]) [] = true → quiet s = true →
     let ea := address s a.rs1 a.imm
     ea.toNat < 0x80000 → localOk s ea.toNat n = true → ea.toNat % n = 0 →
     ∃ t, exec i s = .next t ∧ Stored s t (hereKey s ea) n (xval s a.rs2).toNat ∧
       (∀ w at_, s.hart.resv = some (w, at_) → w < hereKey s ea + n → hereKey s ea < w + 8 → t.hart.resv = none) ∧
       t = { s with
         mem := t.mem, hart := { retiredHart s with resv := t.hart.resv }, mach := retiredMach s
         ras := { s.ras with poison := t.ras.poison }, off := { s.off with nextId := s.off.nextId + 1 } })

/-- R47, R44: a translated load with nothing outstanding retires with rd EMPTY under its own address and one new off-
core operation. R22, R292, R294: a load from group space is a producer of class 5 that asks every member. R416: a
translated atomic is a producer of class 2 whose request goes to its home. R116: a translated store enters the drain queue
and changes no memory yet. The model's choice: the leaf's A and D bits are set when a load or atomic is issued, so that
memory is as its translation leaves it (log entry 12). -/
def Obligations.TranslatedAccesses : Prop :=
  (∀ (i : Instr) (a : LoadArgs) (n : Nat) (signed : Bool) (s : State), loadForm i = some (a, n, signed) →
     ready s (xs [a.rs1]) (xs [a.rd]) = true → quiet s = true →
     let ea := address s a.rs1 a.imm
     (0x80000 ≤ ea.toNat → ea.toNat < 0x0100000000000000 → ea.toNat % n = 0 →
       ∃ t, exec i s = .next t ∧ BecomesProducer s t a.rd 0 false ∧ TranslatedMemory s t ea .load) ∧
     (0xFFF0000000000000 ≤ ea.toNat → ea.toNat % n = 0 → groupScalarOk ea n = true →
       ∃ t, exec i s = .next t ∧ StartsProducer s t a.rd 5 false ∧
         ∀ m ∈ groupMembers ea, pending t (.groupMemberRead s.off.nextId 0 m))) ∧
  (∀ (i : Instr) (a : RT) (op : AtomicOp) (n : Nat) (s : State), atomicForm i = some (a, op, n) →
     ready s (xs ([a.rs1, a.rs2] ++ (if op = .casD then [a.rd] else []))) (xs [a.rd]) = true → quiet s = true →
     let ea := xval s a.rs1
     0x80000 ≤ ea.toNat → ea.toNat < 0x0100000000000000 → ea.toNat % n = 0 →
     ∃ t, exec i s = .next t ∧ BecomesProducer s t a.rd 2 a.aq ∧ TranslatedMemory s t ea .atomic ∧
       (match (translate s (stationOf (ownCore s)) s.sup.pid ea .atomic).2 with
         | .ok x => Sent t x.pkg .request (.homeAtomic x.key op n (xval s a.rs2) (xval s a.rd) (.job s.off.nextId 0))
         | .error (d, pkg) => pending t (.producerCompletion s.off.nextId 0 (.failed d pkg)))) ∧
  (∀ (i : Instr) (a : StoreArgs) (n : Nat) (s : State), storeForm i = some (a, n) →
     ready s (xs [a.rs1, a.rs2]) [] = true → quiet s = true →
     let ea := address s a.rs1 a.imm
     0x80000 ≤ ea.toNat → ea.toNat < 0x0100000000000000 → ea.toNat % n = 0 →
     ∃ t e, exec i s = .next t ∧ SameMemory s t ∧ e.addr = ea ∧ e.scratch = false ∧ e.pc = s.hart.pc ∧
       e.pid = s.sup.pid ∧
       e.bytes = (List.range n).map (fun k => (k, BitVec.ofNat 8 ((xval s a.rs2).toNat / 256 ^ k))) ∧
       t = { s with hart := retiredHart s, mach := retiredMach s
                    off := { s.off with drain := [.store e], nextId := s.off.nextId + 1 } })

/-- R22: what the integer atomics leave in memory, over the unsigned and signed readings of n-byte words. R22, R226,
R415, R416: a local atomic reads and writes its word in one step, returns the old value sign-extended, ends a reservation
of an overlapping word, and changes nothing else of the hart. -/
def Obligations.LocalAtomicResult : Prop :=
  (∀ (n m v e : Nat), (n = 4 ∨ n = 8) → m < 256 ^ n → v < 256 ^ n → e < 256 ^ n →
     (atomicNew .swap n m v e).1 = some v ∧
     (atomicNew .add n m v e).1 = some ((m + v) % 256 ^ n) ∧
     (atomicNew .minu n m v e).1 = some (min m v) ∧ (atomicNew .maxu n m v e).1 = some (max m v) ∧
     (∃ r, (atomicNew .min n m v e).1 = some r ∧ (r = m ∨ r = v) ∧
       toSigned (8 * n) r = min (toSigned (8 * n) m) (toSigned (8 * n) v)) ∧
     (∃ r, (atomicNew .max n m v e).1 = some r ∧ (r = m ∨ r = v) ∧
       toSigned (8 * n) r = max (toSigned (8 * n) m) (toSigned (8 * n) v)) ∧
     (∃ r, (atomicNew .and n m v e).1 = some r ∧ ∀ k, r.testBit k = (m.testBit k && v.testBit k)) ∧
     (∃ r, (atomicNew .or n m v e).1 = some r ∧ ∀ k, r.testBit k = (m.testBit k || v.testBit k)) ∧
     (∃ r, (atomicNew .xor n m v e).1 = some r ∧ ∀ k, r.testBit k = (m.testBit k != v.testBit k)) ∧
     ((atomicNew .casD n m v e).1 = if m = e then some v else none)) ∧
  (∀ (i : Instr) (a : RT) (op : AtomicOp) (n : Nat) (s : State), atomicForm i = some (a, op, n) → MemoryCanonical s →
     ready s (xs ([a.rs1, a.rs2] ++ (if op = .casD then [a.rd] else []))) (xs [a.rd]) = true → quiet s = true →
     localReady s (xval s a.rs1) n = true →
     let key := hereKey s (xval s a.rs1)
     let old := loaded s key n
     let new := atomicNew op n old ((xval s a.rs2).toNat % 256 ^ n) ((xval s a.rd).toNat % 256 ^ n)
     ∃ t, exec i s = .next t ∧ WritesX s t a.rd (BitVec.ofInt 64 (toSigned (8 * n) old)) ∧
       (match new.1 with | some v => Stored s t key n v | none => SameMemory s t) ∧
       t.user = { s.user with vflags := s.user.vflags ||| new.2 } ∧
       t.hart = { retiredHart s with x := t.hart.x, resv := t.hart.resv } ∧
       (t.hart.resv = s.hart.resv ∨ t.hart.resv = none) ∧
       (∀ w at_, s.hart.resv = some (w, at_) → w < key + n → key < w + 8 → new.1.isSome = true → t.hart.resv = none) ∧
       (∀ w at_, s.hart.resv = some (w, at_) → (w + 8 ≤ key ∨ key + n ≤ w) → t.hart.resv = s.hart.resv) ∧
       t.sup = s.sup ∧ t.act = s.act ∧ t.arr = s.arr ∧ t.off = s.off ∧ t.ctr = s.ctr ∧ t.mach = retiredMach s ∧
       (a.aq = true → t.stn.strand = []))

/-- R22, R226: LR returns the word and takes the reservation of its aligned 8-byte word; SC stores and returns 0 while
that reservation stands and is at most 256 clocks old, and otherwise stores nothing and returns 1. -/
def Obligations.ReserveAndConditionalStore : Prop :=
  (∀ (i : Instr) (a : RT) (n : Nat) (s : State), lrForm i = some (a, n) →
    ready s (xs [a.rs1]) (xs [a.rd]) = true → quiet s = true → localReady s (xval s a.rs1) n = true →
    let key := hereKey s (xval s a.rs1)
    ∃ t, exec i s = .next t ∧ WritesX s t a.rd (BitVec.ofInt 64 (toSigned (8 * n) (loaded s key n))) ∧
      SameMemory s t ∧ t.hart.resv = some (key / 8 * 8, s.sched.clock) ∧ t.hart.v = s.hart.v ∧ t.hart.m = s.hart.m ∧
      t.user = s.user ∧ t.mach = retiredMach s ∧ t.sup = s.sup) ∧
  (∀ (i : Instr) (a : RT) (n : Nat) (s : State), scForm i = some (a, n) →
    MemoryCanonical s → ready s (xs [a.rs1, a.rs2]) (xs [a.rd]) = true → quiet s = true → (xval s a.rs1).toNat < 0x80000 →
    localOk s (xval s a.rs1).toNat n = true → (xval s a.rs1).toNat % n = 0 →
    let key := hereKey s (xval s a.rs1)
    ∃ t, exec i s = .next t ∧ t.hart.resv = none ∧ t.hart.v = s.hart.v ∧ t.hart.m = s.hart.m ∧ t.user = s.user ∧
      t.mach = retiredMach s ∧ t.sup = s.sup ∧
      (∀ at_, s.hart.resv = some (key / 8 * 8, at_) → s.sched.clock ≤ at_ + 256 →
        WritesX s t a.rd 0 ∧ Stored s t key n (xval s a.rs2).toNat) ∧
      ((∀ at_, s.hart.resv = some (key / 8 * 8, at_) → at_ + 256 < s.sched.clock) →
        WritesX s t a.rd 1 ∧ SameMemory s t))


/-! ## Vector arithmetic (chapter 5) -/

/-- Every custom-0 instruction, slide and permute with accepted prefixes and operands at hand retires: it fills its
destination group and changes nothing else but sticky flags. R143 to R147 in the integer formats: an active element is
the exact integer result modulo the element width, an inactive one keeps d. R38, R71 to R79, R143, R148 in every format and
behind every MOD: an active element of the arithmetic and of the functions is the exact value after the steps of MOD,
rounded and encoded, with the flags of that rounding raised. R143 to R145, R147: in a floating-point format a comparison
picks by value, the bitwise operations, the broadcast and the move take bits as they are, and an index is that number. -/
def Obligations.VectorArithmeticResult : Prop :=
  (∀ (i : Instr) (h : VecShape) (s : State), vecShape i = some h → vecReady i s = true →
     ∃ t, exec i s = .next t ∧ VecRetires s t h.a.d.toNat (2 ^ h.a.w.toNat)) ∧
  (∀ (i : Instr) (h : VecShape) (s : State) (k : Nat) (v : Int), vecShape i = some h → vecReady i s = true →
     isIntFmt (effOf s).d = true → (effOf s).mods = Mods.none →
     let w := fmtWidth (effOf s).d
     k < 2 ^ h.a.w.toNat * 512 / w → intElement i s (effOf s).d k = some v →
     ∃ t, exec i s = .next t ∧ (velem t h.a.d h.a w k : Int) =
       (if activeAt s h.a w k then v % 2 ^ w else velem s h.a.d h.a w k)) ∧
  (∀ (i : Instr) (h : VecShape) (s : State) (k : Nat) (v : Machine.Num), vecShape i = some h → vecReady i s = true →
     let e := effOf s
     let w := fmtWidth e.d
     k < 2 ^ h.a.w.toNat * 512 / w → exactElement i s e.d k = some v →
     ∃ t, exec i s = .next t ∧
       velem t h.a.d h.a w k =
         (if activeAt s h.a w k then (finishElem e.mods v e.d e.rm).1 % 2 ^ w else velem s h.a.d h.a w k) ∧
       (activeAt s h.a w k = true → (finishElem e.mods v e.d e.rm).2 ||| t.user.vflags = t.user.vflags)) ∧
  (∀ (i : Instr) (h : VecShape) (s : State) (k c : Nat), vecShape i = some h → vecReady i s = true →
     isFloatFmt (effOf s).d = true →
     let w := fmtWidth (effOf s).d
     k < 2 ^ h.a.w.toNat * 512 / w → floatPick i s (effOf s).d k = some c →
     ∃ t, exec i s = .next t ∧ velem t h.a.d h.a w k = (if activeAt s h.a w k then c % 2 ^ w else velem s h.a.d h.a w k))

/-- R146, R168: vsel takes every element from s1 or s2 by the mask; slides and vperm move source elements, with zero
where there is none; inactive elements keep d. -/
def Obligations.VectorMovesElements : Prop :=
  (∀ (a : VT) (s : State) (k : Nat), vecReady (.vsel a) s = true →
    let w := fmtWidth (effOf s).d
    k < 2 ^ a.w.toNat * 512 / w →
    ∃ t, exec (.vsel a) s = .next t ∧ t.user = s.user ∧
      velem t a.d a w k = (if velem s 0 a w k % 2 = 1 then velem s a.s1 a w k else velem s a.s2 a w k)) ∧
  (∀ (a : VT) (s : State) (k : Nat),
    let w := fmtWidth (effOf s).d
    let n := 2 ^ a.w.toNat * 512 / w
    let amount := (xval s a.s2).toNat
    let j := velem s a.s2 a w k
    k < n →
    (vecReady (.vslup a) s = true → ∃ t, exec (.vslup a) s = .next t ∧ t.user = s.user ∧ velem t a.d a w k =
      if activeAt s a w k then (if amount ≤ k then velem s a.s1 a w (k - amount) else 0) else velem s a.d a w k) ∧
    (vecReady (.vsldn a) s = true → ∃ t, exec (.vsldn a) s = .next t ∧ t.user = s.user ∧ velem t a.d a w k =
      if activeAt s a w k then (if k + amount < n then velem s a.s1 a w (k + amount) else 0) else velem s a.d a w k) ∧
    (vecReady (.vperm a) s = true → ∃ t, exec (.vperm a) s = .next t ∧ t.user = s.user ∧ velem t a.d a w k =
      if activeAt s a w k then (if j < n then velem s a.s1 a w j else 0) else velem s a.d a w k))

/-- R150: a reduction puts its value in element 0 and zero in every other; with no element present the value is the
identity, and in an integer format it is the sum modulo the width, the greatest or the least of the present ones.
R91, R150: in every format, behind every MOD, it is the tree over the present elements in ascending order.
R151: with 8-bit sources and fD = i32, each active element gains four products modulo 2^32; with 16-bit sources and fD =
f32, an active element of the lower half is the exact sum of d and four products after the steps of MOD, rounded. -/
def Obligations.VectorReductions : Prop :=
  (∀ (a : VT) (s : State),
     let f := (effOf s).d
     let w := fmtWidth f
     let l := presentElems s a w
     let red (i : Instr) (v : Nat) : Prop := vecReady i s = true → (effOf s).mods = Mods.none →
       ∃ t, exec i s = .next t ∧ velem t a.d a w 0 = v ∧ ∀ k, 0 < k → k < 2 ^ a.w.toNat * 512 / w → velem t a.d a w k = 0
     (l = [] → red (.vredsum a) (identityOf .sum f) ∧ red (.vredmax a) (identityOf .max f) ∧
       red (.vredmin a) (identityOf .min f)) ∧
     (isIntFmt f = true → l ≠ [] → red (.vredsum a) (l.foldl (· + ·) 0 % 2 ^ w) ∧
       (∀ m ∈ l, (∀ x ∈ l, intCodeValue f x ≤ intCodeValue f m) → red (.vredmax a) m) ∧
       (∀ m ∈ l, (∀ x ∈ l, intCodeValue f m ≤ intCodeValue f x) → red (.vredmin a) m))) ∧
  (∀ (a : VT) (s : State),
     let e := effOf s
     let w := fmtWidth e.d
     let leaves := (List.range (2 ^ a.w.toNat * 512 / w)).map fun k =>
       if activeAt s a w k then some (velem s a.s1 a w k) else none
     ∀ p ∈ [(Instr.vredsum a, RedOp.sum), (.vredmax a, .max), (.vredmin a, .min)], vecReady p.1 s = true →
       ∃ t, exec p.1 s = .next t ∧ velem t a.d a w 0 = (treeReduce p.2 e.d e.rm e.mods leaves).1 % 2 ^ w ∧
         (treeReduce p.2 e.d e.rm e.mods leaves).2 ||| t.user.vflags = t.user.vflags) ∧
  (∀ (a : VT) (s : State) (j : Nat), vecReady (.vdot4 a) s = true → (effOf s).d = 0 → j < 2 ^ a.w.toNat * 16 →
     let e := effOf s
     let el (f : Nat) (b : RegIdx) (k : Nat) : Machine.Num := decodeElem f (velem s b a (fmtWidth f) k)
     let p (k : Nat) : Machine.Num := (mulNum (el e.a a.s1 (4 * j + k)) (el e.b a.s2 (4 * j + k))).1
     let v := (exactSum [el 0 a.d j, p 0, p 1, p 2, p 3]).1
     ∃ t, exec (.vdot4 a) s = .next t ∧ velem t a.d a 32 j =
       if activeAt s a 32 j && decide (j < 2 ^ a.w.toNat * 8) then (finishElem e.mods v 0 e.rm).1 % 2 ^ 32
       else velem s a.d a 32 j) ∧
  (∀ (a : VT) (s : State) (j : Nat), vecReady (.vdot4 a) s = true → (effOf s).d = 12 → (effOf s).mods = Mods.none →
     j < 2 ^ a.w.toNat * 16 →
     let e := effOf s
     let p (k : Nat) : Int := intCodeValue e.a (velem s a.s1 a 8 (4 * j + k)) * intCodeValue e.b (velem s a.s2 a 8 (4 * j + k))
     ∃ t, exec (.vdot4 a) s = .next t ∧ (velem t a.d a 32 j : Int) =
       (if activeAt s a 32 j then ((velem s a.d a 32 j : Int) + (p 0 + p 1 + p 2 + p 3)) % 2 ^ 32 else (velem s a.d a 32 j : Int)))

/-- R71, R79: rounding a magnitude to a multiple of a power of two leaves at most half a step of error to nearest with
ties to even, and less than one step in the directed modes, on their side. -/
def Obligations.RoundingIsNearest : Prop :=
  ∀ (neg : Bool) (m sh : Nat) (e : Int), 0 < sh →
    let r (rm : Rm) := roundMag neg m e (e + sh) rm * 2 ^ sh
    (2 * r .rne ≤ 2 * m + 2 ^ sh ∧ 2 * m ≤ 2 * r .rne + 2 ^ sh) ∧
    (2 * r .rne = 2 * m + 2 ^ sh ∨ 2 * m = 2 * r .rne + 2 ^ sh → roundMag neg m e (e + sh) .rne % 2 = 0) ∧
    (r .rtz ≤ m ∧ m < r .rtz + 2 ^ sh) ∧
    (if neg then m ≤ r .rdn ∧ r .rdn < m + 2 ^ sh else r .rdn ≤ m ∧ m < r .rdn + 2 ^ sh) ∧
    (if neg then r .rup ≤ m ∧ m < r .rup + 2 ^ sh else m ≤ r .rup ∧ r .rup < m + 2 ^ sh)

/-- R68, R69: a code of a floating format that is no NaN is the encoding of its value, so that no two codes share one. -/
def Obligations.EncodeOfDecodeElement : Prop :=
  ∀ (f c : Nat), f ≤ 5 → c < 2 ^ fmtWidth f → (decodeElem f c).isNaN = false → encodeElem f (decodeElem f c) = c

/-! ## Loops and prefixes -/

/-- R39 to R41: a prefix word retires, stays pending, and is the address that exceptions of its instruction report. -/
def Obligations.PrefixWordsPend : Prop :=
  (∀ (rm : BitVec 3) (b a d : BitVec 5) (s : State) (w : IWord), prefixPending s = false → atLoopEnd s = false →
    encode (.fmt rm b a d) = some w →
    ∃ t, exec (.fmt rm b a d) s = .next t ∧ SameMemory s t ∧ t.hart.x = s.hart.x ∧ t.hart.v = s.hart.v ∧
      t.hart.m = s.hart.m ∧ t.user = s.user ∧ t.hart.pc = s.hart.pc + 4 ∧ t.hart.pend.f = w ∧ t.hart.pend.fv = true ∧
      t.hart.pend.mv = false ∧ faultPc t = s.hart.pc) ∧
  (∀ (ab ng cl sa : Bool) (k : BitVec 5) (s : State) (w : IWord), s.hart.pend.mv = false → atLoopEnd s = false →
    encode (.mod ab ng cl sa k) = some w →
    ∃ t, exec (.mod ab ng cl sa k) s = .next t ∧ SameMemory s t ∧ t.hart.x = s.hart.x ∧ t.hart.v = s.hart.v ∧
      t.hart.m = s.hart.m ∧ t.user = s.user ∧ t.hart.pc = s.hart.pc + 4 ∧ t.hart.pend.m = w ∧ t.hart.pend.mv = true ∧
      t.hart.pend.fv = s.hart.pend.fv ∧ t.hart.pend.f = s.hart.pend.f ∧ faultPc t = faultPc s)

/-- R22, R34, R126: the privileged instructions in a mode that may not run them take cause 2 with their word. R39: an
instruction that accepts no prefix is illegal behind one, and one that accepts some is illegal behind others: behind MOD
where it takes none, and where the formats are not among its own. A prefix word is illegal behind another that it may not
follow and at the end of an active loop, and so is LOOP there (R36, R39, R154). The model's choice: under TW, WFI traps in
S-mode at once (log entry 45). -/
def Obligations.PrivilegeAndPrefixTraps : Prop :=
  (∀ s : State, prefixPending s = false →
     (s.hart.priv ≠ .machine → exec .mret s = .next (trap 2 0x30200073 s)) ∧
     (s.hart.priv = .user ∨ (s.hart.priv = .supervisor ∧ s.mach.status.tsr = true) →
       exec .sret s = .next (trap 2 0x10200073 s)) ∧
     (s.hart.priv = .user ∨ (s.hart.priv = .supervisor ∧ s.mach.status.tw = true) →
       exec .wfi s = .next (trap 2 0x10500073 s)) ∧
     (s.hart.priv = .user → ∀ (a : RT) (w : IWord),
       ∀ i ∈ [Instr.cset a, .stinval a, .ctxsave a, .ctxload a], encode i = some w →
         exec i s = .next (trap 2 (w.setWidth 64) s))) ∧
  (∀ (i : Instr) (w : IWord) (s : State), prefixPending s = true → encode i = some w →
     (match i with
       | .integerOp _ | .multiplyDivide _ _ _ _ | .bitManipulation _ | .lui _ _ | .auipc _ _ | .branch _ | .jump _
       | .fence _ _ | .fenceTso _ | .fenceI _ _ _ | .ecall | .ebreak | .mret | .sret | .wfi | .sfenceVma _ _ | .loop _ _ _ => True
       | _ => (loadForm i).isSome ∨ (storeForm i).isSome ∨ (atomicForm i).isSome ∨ (lrForm i).isSome ∨ (scForm i).isSome
           ∨ (csrForm i).isSome) →
     exec i s = .next (trap 2 (w.setWidth 64) s)) ∧
  (∀ (i : Instr) (w : IWord) (s : State), prefixPending s = true → s.hart.wait = .none → encode i = some w →
     ((customForm i).isSome ∨ match i with
       | .tzero _ | .ttrn _ | .tsync _ | .lease _ | .unlease _ => True
       | _ => False) → exec i s = .next (trap 2 (w.setWidth 64) s)) ∧
  (∀ (i : Instr) (w : IWord) (mods : Bool) (legal : Eff → Bool) (s : State), prefixShape i = some (mods, legal) →
     prefixOk mods legal s = false → encode i = some w → exec i s = .next (trap 2 (w.setWidth 64) s)) ∧
  (∀ (i : Instr) (w : IWord) (s : State), encode i = some w →
     (match i with
       | .fmt _ _ _ _ => prefixPending s = true ∨ atLoopEnd s = true
       | .mod _ _ _ _ _ => s.hart.pend.mv = true ∨ atLoopEnd s = true
       | .loop _ _ _ => atLoopEnd s = true
       | _ => False) → exec i s = .next (trap 2 (w.setWidth 64) s))

/-! ## Vector memory and conversion (chapter 6) -/

/-- R160, R163, R164: a vector load whose active elements are all local retires with their bytes; inactive elements
keep d; one with an active translated element retires as a producer of class 4 with its group EMPTY. R160, R165: a vector
store whose active elements are all local puts each element at its address, a later element over an earlier one, and
changes no other byte and no register; in general every active byte is in an entry, and the entries from the first
translated one on go into the drain queue, as many as there is room for. R161, R162: the lowest misaligned active element
traps, and where none is misaligned the lowest whose access is not accepted. -/
def Obligations.VectorLocalAccess : Prop :=
  (∀ (i : Instr) (a : VT) (m : VecMode) (s : State), vecLoadForm i = some (a, m) → i.wf = true →
     prefixOk false (moveFmts m) s = true → readyWithPrefix s (addrReads a m ++ maskReads a true) (vRegs a.d a) = true →
     quiet s = true →
     let w := fmtWidth (effOf s).d
     let n := 2 ^ a.w.toNat * 512 / w
     (∀ k, k < n → activeAt s a w k = true → localReady s (elementAddress s a m k) (w / 8) = true) →
     ∃ t, exec i s = .next t ∧ VecRetires s t a.d.toNat (2 ^ a.w.toNat) ∧ ∀ k, k < n → velem t a.d a w k =
       if activeAt s a w k then loaded s (hereKey s (elementAddress s a m k)) (w / 8) else velem s a.d a w k) ∧
  (∀ (i : Instr) (a : VT) (m : VecMode) (s : State), vecStoreForm i = some (a, m) → i.wf = true →
     MemoryCanonical s →
     prefixOk false (moveFmts m) s = true →
     readyWithPrefix s (addrReads a m ++ vRegs a.d a ++ maskReads a false) [] = true → quiet s = true →
     let w := fmtWidth (effOf s).d
     let n := 2 ^ a.w.toNat * 512 / w
     let key (k : Nat) : Nat := hereKey s (elementAddress s a m k)
     (∀ k, k < n → activeAt s a w k = true → localWritable s (elementAddress s a m k) (w / 8) = true) →
     ∃ t, exec i s = .next t ∧ StoresOnly s t ∧
       (∀ k, k < n → activeAt s a w k = true →
         (∀ j, k < j → j < n → activeAt s a w j = true → key j + w / 8 ≤ key k ∨ key k + w / 8 ≤ key j) →
         ∀ b, b < w / 8 → Memory.get t.mem (key k + b) = BitVec.ofNat 8 (velem s a.d a w k / 256 ^ b)) ∧
       (∀ q, (∀ k, k < n → activeAt s a w k = true → q < key k ∨ key k + w / 8 ≤ q) →
         Memory.get t.mem q = Memory.get s.mem q)) ∧
  (∀ (i : Instr) (a : VT) (m : VecMode) (s : State), vecLoadForm i = some (a, m) → i.wf = true →
     prefixOk false (moveFmts m) s = true → readyWithPrefix s (addrReads a m ++ maskReads a true) (vRegs a.d a) = true →
     quiet s = true →
     let w := fmtWidth (effOf s).d
     let n := 2 ^ a.w.toNat * 512 / w
     let ea (k : Nat) : Word := elementAddress s a m k
     (∀ k, k < n → activeAt s a w k = true → (ea k).toNat % (w / 8) = 0 ∧ accessOk s (ea k) (w / 8) = true) →
     (∃ k, k < n ∧ activeAt s a w k = true ∧ 0x80000 ≤ (ea k).toNat) →
     ∃ t, exec i s = .next t ∧ (∀ r, a.d.toNat ≤ r → r < a.d.toNat + 2 ^ a.w.toNat → regState t (.v r) = .empty s.hart.pc) ∧
       (∀ r, r < a.d.toNat ∨ a.d.toNat + 2 ^ a.w.toNat ≤ r → getV t r = getV s r) ∧ t.hart.x = s.hart.x ∧
       t.hart.m = s.hart.m ∧ t.hart.pc = (retiredHart s).pc ∧ t.mach = retiredMach s ∧
       ∃ j, t.off.jobs = [j] ∧ j.id = s.off.nextId ∧ j.dest = .v a.d.toNat (2 ^ a.w.toNat) ∧ j.cls = 4 ∧ j.pc = s.hart.pc) ∧
  (∀ (i : Instr) (a : VT) (m : VecMode) (s : State), vecStoreForm i = some (a, m) → i.wf = true →
     prefixOk false (moveFmts m) s = true →
     readyWithPrefix s (addrReads a m ++ vRegs a.d a ++ maskReads a false) [] = true → quiet s = true →
     let w := fmtWidth (effOf s).d
     let n := 2 ^ a.w.toNat * 512 / w
     let ea (k : Nat) : Word := elementAddress s a m k
     let es := vecEntries s a m (effOf s)
     (∀ k, k < n → activeAt s a w k = true → (ea k).toNat % (w / 8) = 0 ∧ accessOk s (ea k) (w / 8) = true) →
     (∃ t, exec i s = .next t ∧ StoresEntries s t es) ∧
       (∀ k b, k < n → activeAt s a w k = true → b < w / 8 → ∃ e ∈ es, ∃ p ∈ e.bytes,
         e.addr.toNat + p.1 = (ea k).toNat + b ∧ p.2 = BitVec.ofNat 8 (velem s a.d a w k / 256 ^ b)) ∧
       (∀ e ∈ es, (e.scratch = true ↔ e.addr.toNat < 0x80000) ∧ ∀ p ∈ e.bytes, ∃ k b, k < n ∧ activeAt s a w k = true ∧
         b < w / 8 ∧ e.addr.toNat + p.1 = (ea k).toNat + b ∧ p.2 = BitVec.ofNat 8 (velem s a.d a w k / 256 ^ b))) ∧
  (∀ (i : Instr) (a : VT) (m : VecMode) (store : Bool) (s : State) (k : Nat),
     ((store = false ∧ vecLoadForm i = some (a, m) ∧
         readyWithPrefix s (addrReads a m ++ maskReads a true) [] = true) ∨
       (store = true ∧ vecStoreForm i = some (a, m) ∧ s.hart.storesDone = 0 ∧ s.sup.dheld = false ∧
         readyWithPrefix s (addrReads a m ++ vRegs a.d a ++ maskReads a false) [] = true)) →
     i.wf = true → prefixOk false (moveFmts m) s = true →
     let w := fmtWidth (effOf s).d
     let n := 2 ^ a.w.toNat * 512 / w
     let ea (k : Nat) : Word := elementAddress s a m k
     k < n → activeAt s a w k = true →
     ((ea k).toNat % (w / 8) ≠ 0 → (∀ j, j < k → activeAt s a w j = true → (ea j).toNat % (w / 8) = 0) →
       exec i s = .next (trap (if store then 6 else 4) (ea k) s)) ∧
     ((∀ j, j < n → activeAt s a w j = true → (ea j).toNat % (w / 8) = 0) → accessOk s (ea k) (w / 8) = false →
       (∀ j, j < k → activeAt s a w j = true → accessOk s (ea j) (w / 8) = true) →
       exec i s = .next (trap (if store then 7 else 5) (ea k) s)))

/-! ## Tiles and the Array (chapter 7) -/

/-- R167, R292: VGLD always is a producer: its registers go EMPTY under its address, one operation of class 5 starts,
and memory does not change. R198: TLD is always a producer: its tile group goes EMPTY and one operation of class 6
starts; a wholly local one changes no memory and its completion is at once pending. R162, R198: TLD and TST whose base or
stride is no multiple of 16 take cause 4 or 6 with the base, and then the lowest element whose access is not accepted
takes cause 5 or 7 with its address. -/
def Obligations.GroupAndTileLoadsStart : Prop :=
  (∀ (a : VT) (s : State), (Instr.vgld a).wf = true →
     prefixOk false (fun e => e.p.a == 31 && e.p.b == 31 && noRounding e) s = true →
     vgldOk a (xval s a.s1) = true → vgldFmtBad s (xval s a.s1) = false →
     readyWithPrefix s (xs [a.s1]) (vGroup a.d.toNat (vgldRegs a (xval s a.s1))) = true → quiet s = true →
     let n := vgldRegs a (xval s a.s1)
     ∃ t, exec (.vgld a) s = .next t ∧ SameMemory s t ∧ t.hart.x = s.hart.x ∧ t.hart.m = s.hart.m ∧
       (∀ r, a.d.toNat ≤ r → r < a.d.toNat + n → regState t (.v r) = .empty s.hart.pc) ∧
       (∀ r, r < a.d.toNat ∨ a.d.toNat + n ≤ r → getV t r = getV s r) ∧
       t.hart.pc = (retiredHart s).pc ∧ t.off.nextId = s.off.nextId + 1 ∧
       (∃ j, t.off.jobs = [j] ∧ j.id = s.off.nextId ∧ j.dest = .v a.d.toNat n ∧ j.cls = 5)) ∧
  (∀ (a : VT) (s : State), prefixOk false tileMoveFmts s = true → tilesInCount s a.d.toNat (destSpan a) = true →
     tileFmt (moveShape s a).fmt = true → (moveShape s a).valid (destSpan a) = true →
     readyWithPrefix s (xs [a.s1, a.s2]) [] = true → (xval s a.s1).toNat % 16 = 0 → (xval s a.s2).toNat % 16 = 0 →
     (∀ x ∈ tileElems s a, elemOk s x.2 (moveShape s a).step = true) →
     tilesFree s (physTile s a.d.toNat) (destSpan a) = true → quiet s = true →
     ∃ t, exec (.tld a) s = .next t ∧ EmptiesTiles s t (physTile s a.d.toNat) (destSpan a) ∧
       t.hart.pc = (retiredHart s).pc ∧
       (∃ j, t.off.jobs = [j] ∧ j.id = s.off.nextId ∧ j.dest = .m (physTile s a.d.toNat) (destSpan a) ∧ j.cls = 6) ∧
       (farCuts s a = [] → SameMemory s t ∧ pending t (.producerCompletion s.off.nextId 0 (.bytes [])))) ∧
  (∀ (i : Instr) (a : VT) (s : State),
     (i = .tld a ∧ readyWithPrefix s (xs [a.s1, a.s2]) [] = true) ∨
       (i = .tst a ∧ s.hart.storesDone = 0 ∧ s.sup.dheld = false ∧
         readyWithPrefix s (xs [a.s1, a.s2] ++ tileRegs s a.d.toNat (destSpan a)) [] = true) →
     let store := match i with | .tst _ => true | _ => false
     let h := moveShape s a
     let ea (r q : Nat) : Word := BitVec.ofInt 64 ((xval s a.s1).toInt + r * (xval s a.s2).toInt + q * h.step)
     let ok (r q : Nat) : Prop := accessOk s (ea r q) h.step = true
     prefixOk false tileMoveFmts s = true → tilesInCount s a.d.toNat (destSpan a) = true → tileFmt h.fmt = true →
     h.valid (destSpan a) = true →
     ((xval s a.s1).toNat % 16 ≠ 0 ∨ (xval s a.s2).toNat % 16 ≠ 0 →
       exec i s = .next (trap (if store then 6 else 4) (xval s a.s1) s)) ∧
     (∀ r q, (xval s a.s1).toNat % 16 = 0 → (xval s a.s2).toNat % 16 = 0 → r < h.rows → q < h.rowBytes / h.step →
       ¬ ok r q → (∀ q', q' < q → ok r q') → (∀ r' q', r' < r → q' < h.rowBytes / h.step → ok r' q') →
       exec i s = .next (trap (if store then 7 else 5) (ea r q) s)))

/-- R198, R165: TST of a tile that lies wholly in the local scratchpad puts byte q of row r at the row's address plus
q, a later byte over an earlier one, and changes no other byte; in general its entries from the first translated one on go
into the drain queue. R54, R176, R179: with a register out of reach, a shape that its span does not hold or a part selector
that is not accepted, an instruction takes ARRAY_STATE (29) with its word. R199, R206: TZERO zeroes its tile group; TTRN puts
element (i, j) of the source at (j, i) of the result. R204: TGET moves elements (r, c) onwards of the tile to the
vector, each converted, with zero beyond the row; TINS moves vector elements to the tile and leaves the tile's other
elements; an element that overflows takes cause 27. The model's choices: with one format the bits of TGET and TINS move
unchanged (log entry 36); the overlap rule of TCVT counts the scale companion of the destination (`tcvtBad`, log entry 75);
and a format is judged before the count, where the field names a register below 16 (`tileForm`, log entry 26). -/
def Obligations.TilesWithoutLease : Prop :=
  (∀ (a : VT) (s : State), MemoryCanonical s → prefixOk false tileMoveFmts s = true → tilesInCount s a.d.toNat (destSpan a) = true →
     tileFmt (moveShape s a).fmt = true → (moveShape s a).valid (destSpan a) = true →
     readyWithPrefix s (xs [a.s1, a.s2] ++ tileRegs s a.d.toNat (destSpan a)) [] = true →
     (xval s a.s1).toNat % 16 = 0 → (xval s a.s2).toNat % 16 = 0 →
     (∀ x ∈ tileElems s a, x.2.toNat < 0x80000 ∧ localOk s x.2.toNat (moveShape s a).step = true) → quiet s = true →
     let h := moveShape s a
     let key (r q : Nat) : Nat := hereKey s (rowAddr s a r) + q
     let v := tval s a.d.toNat (destSpan a)
     ∃ t, exec (.tst a) s = .next t ∧ StoresOnly s t ∧
       (∀ r q, r < h.rows → q < h.rowBytes →
         (∀ r' q', r < r' → r' < h.rows → q' < h.rowBytes → key r' q' ≠ key r q) →
         Memory.get t.mem (key r q) = BitVec.ofNat 8 (v / 256 ^ (r * h.rowBytes + q))) ∧
       (∀ k, (∀ r q, r < h.rows → q < h.rowBytes → key r q ≠ k) → Memory.get t.mem k = Memory.get s.mem k)) ∧
  (∀ (a : VT) (s : State), prefixOk false tileMoveFmts s = true → tilesInCount s a.d.toNat (destSpan a) = true →
     tileFmt (moveShape s a).fmt = true → (moveShape s a).valid (destSpan a) = true →
     readyWithPrefix s (xs [a.s1, a.s2] ++ tileRegs s a.d.toNat (destSpan a)) [] = true →
     (xval s a.s1).toNat % 16 = 0 → (xval s a.s2).toNat % 16 = 0 →
     (∀ x ∈ tileElems s a, accessOk s x.2 (moveShape s a).step = true) → quiet s = true →
     let h := moveShape s a
     let v := tval s a.d.toNat (destSpan a)
     (∃ t, exec (.tst a) s = .next t ∧ StoresEntries s t (tileEntries s a)) ∧
       (∀ r q, r < h.rows → q < h.rowBytes → ∃ e ∈ tileEntries s a, ∃ p ∈ e.bytes,
         e.addr.toNat + p.1 = (rowAddr s a r).toNat + q ∧ p.2 = BitVec.ofNat 8 (v / 256 ^ (r * h.rowBytes + q)))) ∧
  ((∀ (i : Instr) (ok bad : State → Bool) (w : IWord) (s : State), tileForm i = some (ok, bad) → encode i = some w →
     ok s = true → bad s = true → s.sup.dheld = false → exec i s = .next (trap 29 (w.setWidth 64) s)) ∧
   (∀ (a : VT) (w : IWord) (ok bad : State → Bool) (s : State),
     (tileForm (.tget a) = some (ok, bad) → encode (.tget a) = some w → ok s = true → bad s = false →
       let h := tileShape s a.s1.toNat
       readyWithPrefix s (tileRegs s a.s1.toNat h.span ++ xs [a.s2]) [] = true →
       selBad (xval s a.s2) h (partElems h.fmt (tgetFmt s a)) = true →
       exec (.tget a) s = .next (trap 29 (w.setWidth 64) s)) ∧
     (tileForm (.tins a) = some (ok, bad) → encode (.tins a) = some w → ok s = true → bad s = false →
       let h := tileShape s a.d.toNat
       readyWithPrefix s (.v a.s1.toNat :: xs [a.s2] ++ tileRegs s a.d.toNat (destSpan a)) [] = true →
       selBad (xval s a.s2) h (partElems h.fmt (tinsFmt s a)) = true →
       exec (.tins a) s = .next (trap 29 (w.setWidth 64) s)))) ∧
  ((∀ (a : VT) (s : State), prefixPending s = false → tilesInCount s a.d.toNat (destSpan a) = true →
     tilesFree s (physTile s a.d.toNat) (destSpan a) = true →
     ∃ t, exec (.tzero a) s = .next t ∧ WritesTiles s t (physTile s a.d.toNat) (destSpan a) 0 ∧ SameMemory s t ∧
       t = { s with hart := { retiredHart s with m := t.hart.m }, mach := retiredMach s }) ∧
   (∀ (a : VT) (s : State),
     let hs := tileShape s a.s1.toNat
     let hd := tileShape s a.d.toNat
     prefixPending s = false → plainFmt hs.fmt = true → hd.fmt = hs.fmt → srcAligned a.s1.toNat hs = true →
     tilesInCount s a.s1.toNat hs.span = true → tilesInCount s a.d.toNat (destSpan a) = true →
     hs.validSource = true → hd.valid (destSpan a) = true → hd.rows = hs.cols → hd.cols = hs.rows →
     runsMeet a.s1.toNat hs.span a.d.toNat (destSpan a) = false →
     readyWithPrefix s (tileRegs s a.s1.toNat hs.span) [] = true →
     tilesFree s (physTile s a.d.toNat) (destSpan a) = true →
     ∃ t, exec (.ttrn a) s = .next t ∧ SameMemory s t ∧
       (∀ i j, i < hs.rows → j < hs.cols →
         tileElem hd (tileValue t (physTile s a.d.toNat) (destSpan a)) j i = tileElem hs (tval s a.s1.toNat hs.span) i j) ∧
       t = { s with hart := { retiredHart s with m := t.hart.m }, mach := retiredMach s })) ∧
  ((∀ (a : VT) (s : State),
     let h := tileShape s a.s1.toNat
     let fv := tgetFmt s a
     let n := partElems h.fmt fv
     let r := (xval s a.s2).toNat % 64
     let c := (xval s a.s2).toNat / 256 % 512
     let rm := (effOf s).rm
     prefixOk false (fun e => e.p.b == 31) s = true → partFmts h.fmt fv = true →
     ((effOf s).p.a = 31 ∨ (effOf s).p.a = h.fmt) → srcAligned a.s1.toNat h = true →
     tilesInCount s a.s1.toNat h.span = true → h.validSource = true → selBad (xval s a.s2) h n = false →
     readyWithPrefix s (tileRegs s a.s1.toNat h.span ++ xs [a.s2]) [.v a.d.toNat] = true →
     (∀ k, tgetResult a s = .error k → exec (.tget a) s = .next (trap 27 (BitVec.ofNat 64 k) s)) ∧
     ((tgetResult a s).isOk = true → ∃ t, exec (.tget a) s = .next t ∧ VecRetires s t a.d.toNat 1 ∧ ∀ k, k < n →
       let code := elemAt (fmtWidth fv) (getV t a.d.toNat).val.toNat k
       let src := tileElem h (tval s a.s1.toNat h.span) r (c + k)
       (h.cols ≤ c + k → code = 0) ∧ (c + k < h.cols → fv = h.fmt → code = src) ∧
       (c + k < h.cols → fv ≠ h.fmt →
         ∃ q, convertElem s.user.oft false (decodeElem h.fmt src) fv rm = some q ∧ code = q.1 % 2 ^ fmtWidth fv))) ∧
   (∀ (a : VT) (s : State),
     let h := tileShape s a.d.toNat
     let fv := tinsFmt s a
     let n := partElems h.fmt fv
     let r := (xval s a.s2).toNat % 64
     let c := (xval s a.s2).toNat / 256 % 512
     let rm := (effOf s).rm
     prefixOk false (fun e => e.p.b == 31) s = true → partFmts h.fmt fv = true →
     ((effOf s).p.d = 31 ∨ (effOf s).p.d = h.fmt) →
     tilesInCount s a.d.toNat (destSpan a) = true → h.valid (destSpan a) = true → selBad (xval s a.s2) h n = false →
     readyWithPrefix s (.v a.s1.toNat :: xs [a.s2] ++ tileRegs s a.d.toNat (destSpan a)) [] = true →
     tilesFree s (physTile s a.d.toNat) (destSpan a) = true →
     (∀ k, tinsResult a s = .error k → exec (.tins a) s = .next (trap 27 (BitVec.ofNat 64 k) s)) ∧
     ((tinsResult a s).isOk = true → ∃ t, exec (.tins a) s = .next t ∧ SameMemory s t ∧
       (∀ i j, i < h.rows → j < h.cols →
         let code := tileElem h (tileValue t (physTile s a.d.toNat) (destSpan a)) i j
         let src := elemAt (fmtWidth fv) (getV s a.s1.toNat).val.toNat (j - c)
         let there := i = r ∧ c ≤ j ∧ j < c + n
         (¬ there → code = tileElem h (tval s a.d.toNat (destSpan a)) i j) ∧ (there → fv = h.fmt → code = src) ∧
         (there → fv ≠ h.fmt →
           ∃ q, convertElem s.user.oft false (decodeElem fv src) h.fmt rm = some q ∧ code = q.1 % 2 ^ fmtWidth h.fmt)) ∧
       t = { s with hart := { retiredHart s with m := t.hart.m }, mach := retiredMach s
                    user := { s.user with vflags := t.user.vflags } })))

/-- R76, R169 to R171, R205: a conversion retires when every active element has a result, with each element converted in
the effective rounding mode behind the steps of MOD, and raises the flags of each; otherwise CONVERT_OVERFLOW (27) reports
the lowest element that has none. A quantised block has the scale and the codes of R82 or R86; an infinity that the format
does not have takes CONVERT_OVERFLOW where OFT is 1 and SAT 0. TCVT does the same to each element, or to each block of 32,
whose scales go to the companion. The model's choices: which scale an element of a block-format source has where K is no
multiple of 32 (`scaleAt` in `decodeScaled`, log entry 37), and that NEG of an integer 0 gives −0 in a floating-point
destination (`modSteps`, log entry 95). -/
def Obligations.ConversionsRetireOrTrap : Prop :=
  (∀ (a : VT) (s : State), (Instr.vcvt a).wf = true → prefixOk true (cvtFmts a) s = true →
     let e := effOf s
     let wa := fmtWidth e.a
     let wd := fmtWidth e.d
     let n := 2 ^ a.w.toNat * 512 / max wa wd
     let nd := (n * wd + 511) / 512
     let conv (k : Nat) : Option (Nat × Flags) :=
       convertElem s.user.oft e.mods.sat (modSteps e.mods (decodeElem e.a (velem s a.s1 a wa k))) e.d e.rm
     readyWithPrefix s (vGroup a.s1.toNat ((n * wa + 511) / 512) ++ (if a.m then vGroup a.d.toNat nd ++ vRegs 0 a else []))
       (vGroup a.d.toNat nd) = true →
     ((∀ k, k < n → activeAt s a wd k = true → (conv k).isSome = true) →
       ∃ t, exec (.vcvt a) s = .next t ∧ VecRetires s t a.d.toNat nd ∧ groupValue t a.d.toNat nd < 2 ^ (n * wd) ∧
         ∀ k, k < n →
           (activeAt s a wd k = false → elemAt wd (groupValue t a.d.toNat nd) k = velem s a.d a wd k) ∧
           ∀ q, activeAt s a wd k = true → conv k = some q →
             elemAt wd (groupValue t a.d.toNat nd) k = q.1 % 2 ^ wd ∧ q.2 ||| t.user.vflags = t.user.vflags) ∧
     (∀ k, k < n → activeAt s a wd k = true → conv k = none →
       (∀ j, j < k → activeAt s a wd j = true → (conv j).isSome = true) →
       exec (.vcvt a) s = .next (trap 27 (BitVec.ofNat 64 k) s))) ∧
  (∀ (a : VT) (s : State), (Instr.vdqblk a).wf = true → prefixOk false (vdqFmts a) s = true →
     readyWithPrefix s (vRegs a.s1 a ++ xs [a.s2]) (vRegs a.d a) = true →
     let e := effOf s
     let wd := fmtWidth e.d
     let code (k : Nat) : Nat := elemAt (fmtWidth e.a) (getV s a.s1.toNat).val.toNat k
     let value (k : Nat) : Machine.Num := if isTidal e.a then decodeTidal e.a (code k) ((xval s a.s2).toNat % 2 ^ 24)
       else decodeMx e.a (code k) ((xval s a.s2).toNat % 2 ^ 8)
     let conv (k : Nat) : Option (Nat × Flags) := convertElem s.user.oft false (value k) e.d e.rm
     ((∀ k, k < 32 → (conv k).isSome = true) →
       ∃ t, exec (.vdqblk a) s = .next t ∧ VecRetires s t a.d.toNat (2 ^ a.w.toNat) ∧ ∀ k q, k < 32 → conv k = some q →
         velem t a.d a wd k = q.1 % 2 ^ wd ∧ q.2 ||| t.user.vflags = t.user.vflags) ∧
     (∀ k, k < 32 → conv k = none → (∀ j, j < k → (conv j).isSome = true) →
       exec (.vdqblk a) s = .next (trap 27 (BitVec.ofNat 64 k) s))) ∧
  (∀ (a : VT) (s : State), (Instr.vqblk a).wf = true → prefixOk true (vqFmts a) s = true →
     readyWithPrefix s (vRegs a.s1 a) (.v a.d.toNat :: xs [a.s2]) = true →
     let e := effOf s
     let value (k : Nat) : Machine.Num := modSteps e.mods (decodeElem e.a (velem s a.s1 a (fmtWidth e.a) k))
     ((∀ k, k < 32 → blockTraps s e.d e.mods.sat (value k) = false) →
       ∃ t scale, exec (.vqblk a) s = .next t ∧ WritesX s t a.s2 (BitVec.ofNat 64 scale) ∧ SameMemory s t ∧
         regState t (.v a.d.toNat) = .full ∧ (getV t a.d.toNat).val.toNat < 2 ^ (32 * fmtWidth e.d) ∧
         Quantised e.d e.mods.sat value scale (elemAt (fmtWidth e.d) (getV t a.d.toNat).val.toNat) ∧
         (∀ n, n ≠ a.d.toNat → getV t n = getV s n) ∧ t.hart.m = s.hart.m ∧ t.hart.pc = (retiredHart s).pc ∧
         s.user.vflags ||| t.user.vflags = t.user.vflags ∧ t.mach = retiredMach s) ∧
     (∀ k, k < 32 → blockTraps s e.d e.mods.sat (value k) = true →
       (∀ j, j < k → blockTraps s e.d e.mods.sat (value j) = false) →
       exec (.vqblk a) s = .next (trap 27 (BitVec.ofNat 64 k) s))) ∧
  (∀ (a : VT) (s : State), prefixOk true (fun e => e.p.b == 31) s = true → tcvtIllegal a s = false →
     tcvtBad a s = false →
     readyWithPrefix s (tileRegs s a.s1.toNat (withScales (cvtSrc s a).fmt (cvtSrc s a).span)) [] = true →
     tilesFree s (physTile s a.d.toNat) (withScales (cvtDst s a).fmt (destSpan a)) = true →
     let e := effOf s
     let hs := cvtSrc s a
     let hd := cvtDst s a
     let wd := fmtWidth hd.fmt
     let n := hd.rows * hd.cols
     let value (k : Nat) : Machine.Num := modSteps e.mods (decodeScaled hs.fmt (getM s (physTile s (a.s1.toNat + 1))).val.toNat hs.cols
       (k / hs.cols) (k % hs.cols) (elemAt (fmtWidth hs.fmt) (tval s a.s1.toNat hs.span) k))
     let conv (k : Nat) : Option (Nat × Flags) := convertElem s.user.oft e.mods.sat (value k) hd.fmt e.rm
     let out (t : State) : Nat := tileValue t (physTile s a.d.toNat) (destSpan a)
     let same (t : State) : Prop := SameMemory s t ∧ out t < 2 ^ (n * wd) ∧ t.user.vflags = s.user.vflags ||| t.user.vflags ∧
       t = { s with
         hart := { retiredHart s with m := t.hart.m }, mach := retiredMach s
         user := { s.user with vflags := t.user.vflags } }
     let stops (k : Nat) : Bool := if isBlockFmt hd.fmt then blockTraps s hd.fmt e.mods.sat (value k) else (conv k).isNone
     (isBlockFmt hd.fmt = false → (∀ k, k < n → stops k = false) → ∃ t, exec (.tcvt a) s = .next t ∧ same t ∧
       ∀ k q, k < n → conv k = some q →
         elemAt wd (out t) k = q.1 % 2 ^ wd ∧ q.2 ||| t.user.vflags = t.user.vflags) ∧
     (isBlockFmt hd.fmt = true → (∀ k, k < n → stops k = false) → ∃ t, exec (.tcvt a) s = .next t ∧ same t ∧
       regState t (.m (physTile s a.d.toNat + 1)) = .full ∧ ∀ b, b < n / 32 →
         Quantised hd.fmt e.mods.sat (fun k => value (32 * b + k))
           (elemAt (if isTidal hd.fmt then 32 else 8) (getM t (physTile s a.d.toNat + 1)).val.toNat b)
           (fun k => elemAt wd (out t) (32 * b + k))) ∧
     (∀ k, k < n → stops k = true → (∀ j, j < k → stops j = false) →
       exec (.tcvt a) s = .next (trap 27 (BitVec.ofNat 64 k) s)))

/-- R188 to R190, R203: an accepted matrix command joins the queue with the physical tiles, spans, formats, shapes, depth
and sparse form it captured, its sources read-locked, and its D group goes EMPTY under its address; one that is not accepted takes cause 2 or ARRAY_STATE (29) with its word (R54, R179, R193 to
R195). -/
def Obligations.MatrixCommandEnters : Prop :=
  (∀ (i : Instr) (a : VT) (kind : MatKind) (w : IWord) (s : State), matForm? i = some (a, kind) → encode i = some w →
    prefixOk false noRounding s = true →
    (matIllegal a s = true → exec i s = .next (trap 2 (w.setWidth 64) s)) ∧
    (matIllegal a s = false → matBad a s = true → exec i s = .next (trap 29 (w.setWidth 64) s)) ∧
    ((ownLease s).st = .none → matBad a s = true)) ∧
  ∀ (i : Instr) (a : VT) (kind : MatKind) (s : State), matForm? i = some (a, kind) →
    prefixOk false noRounding s = true → matIllegal a s = false → matBad a s = false → matRoom kind s = true →
    readyWithPrefix s ((matSources s a (kind != .mmz)).flatMap fun src => (exceptArray s src).1) [] = true →
    (∀ r ∈ tileRegs s a.d.toNat (destSpan a), (regState s r).isEmpty = true → fromArray s r = true) →
    let f := matForm s a
    let fmt (given : Nat) (h : Shape) : Nat := if given = 31 then h.fmt else given
    ∃ t c, exec i s = .next t ∧ t.arr.queue = s.arr.queue ++ [c] ∧ c.kind = kind ∧ c.pc = s.hart.pc ∧
      (∀ w, encode i = some w → c.word = w) ∧ c.doom = none ∧ c.seq = s.arr.seq % 256 ∧ c.dField = a.d.toNat ∧
      c.fmtWord = (if s.hart.pend.fv then some s.hart.pend.f else none) ∧
      c.a = physTile s a.s1.toNat ∧ c.b = physTile s a.s2.toNat ∧ c.spanA = f.spanA ∧ c.spanB = f.spanB ∧
      c.fmtA = fmt (effOf s).p.a (tileShape s a.s1.toNat) ∧ c.fmtB = fmt (effOf s).p.b (tileShape s a.s2.toNat) ∧
      c.depth = (tileShape s a.s2.toNat).cols ∧ c.sparse = a.m ∧ (a.m = false → c.kept = 0) ∧
      (a.m = true → c.kept * c.depth = 24 * (tileShape s a.s1.toNat).cols) ∧
      (∀ n, n ∈ c.sources ↔ RegName.m n ∈ tileRegs s a.s1.toNat (runA f) ++ tileRegs s a.s2.toNat (runB f) ++
        (if kind = .mmz then [] else tileRegs s a.d.toNat (destSpan a))) ∧
      (∀ r ∈ c.sources, r ∈ lockedTiles t) ∧ c.rows = (tileShape s a.d.toNat).rows ∧ c.cols = (tileShape s a.d.toNat).cols ∧
      c.d = physTile s a.d.toNat ∧ c.spanD = destSpan a ∧ SameMemory s t ∧
      EmptiesTiles s t (physTile s a.d.toNat) (destSpan a) ∧
      t.arr.seq = (if kind = .mmaq then s.arr.seq + 1 else s.arr.seq) ∧ t.mach = retiredMach s

/-- R200 to R202: LEASE without a lease requests lane groups, with rd EMPTY until the grant; TSYNC retires once the
queue is empty and nothing executes, and stalls before; UNLEASE with the token of the lease ends it. LEASE with a lease or
another count, and UNLEASE without a lease or with another token, take ARRAY_STATE (29). R184, R191, R192:
the Array's steps: the oldest command starts under the lease; a command without error fills D with its result, and
MMAQ pushes one entry; a run of 8,192 clocks ends when another core contends; a reserved set that has become free is
granted. No statement is made about a LEASE that is still out when UNLEASE ends it (log entry 43). -/
def Obligations.LeasesAndArray : Prop :=
  (∀ (a : VT) (s : State), prefixPending s = false →
     (ready s (xs [a.s1]) (xs [a.d]) = true → quiet s = true → (ownLease s).st = .none →
       (xval s a.s1).toNat ∈ [1, 2, 4] →
       ∃ t, exec (.lease a) s = .next t ∧ (a.d ≠ 0 → regState t (.x a.d.toNat) = .empty s.hart.pc) ∧
         (∀ n, n ≠ a.d.toNat → getX t n = getX s n) ∧ t.hart.v = s.hart.v ∧ t.hart.m = s.hart.m ∧ SameMemory s t ∧
         (ownLease t).st = .requested ∧ (ownLease t).count = (xval s a.s1).toNat ∧ pending t .leaseGrant) ∧
     (∀ w, encode (.lease a) = some w → ((ownLease s).st ≠ .none ∨
         (ready s (xs [a.s1]) [] = true ∧ (xval s a.s1).toNat ∉ [1, 2, 4])) →
       exec (.lease a) s = .next (trap 29 (w.setWidth 64) s)) ∧
     (∀ w, encode (.unlease a) = some w → ((ownLease s).st = .none ∨
         (ready s (xs [a.s1]) [] = true ∧ ((xval s a.s1).toNat / 256 ≠ 0 ∨ (xval s a.s1).toNat / 16 % 16 ≠ (ownLease s).count))) →
       exec (.unlease a) s = .next (trap 29 (w.setWidth 64) s)) ∧
     (arrayIdle s = true → ∃ t, exec (.tsync a) s = .next t ∧ Retires s t) ∧
     (arrayIdle s = false → exec (.tsync a) s = .next (stall s)) ∧
     (ready s (xs [a.s1]) [] = true → arrayIdle s = true → (ownLease s).st ≠ .none → s.arr.job = none →
       (xval s a.s1).toNat / 256 = 0 → (xval s a.s1).toNat / 16 = (ownLease s).count →
       ∃ t, exec (.unlease a) s = .next t ∧ (ownLease t).st = .none ∧ (ownLease t).mask = 0 ∧ SameMemory s t ∧
         t.hart = retiredHart s ∧ t.mach = retiredMach s)) ∧
  (∀ s : State,
     (∀ c rest, s.arr.running = none → s.arr.queue = c :: rest → (ownLease s).st = .held → s.arr.stop = false →
       ∃ t, exec .arrayCommandStart s = .next t ∧ t.arr.running = some c ∧ t.arr.queue = rest ∧ t.hart = s.hart ∧
         SameMemory s t ∧ (ownLease t).started = (ownLease s).started + 1 ∧ pending t .arrayCommandComplete) ∧
     (∀ c, s.arr.running = some c → s.ras.regErrors = [] → s.arr.hit = none → c.doom = none →
       (∀ n ∈ c.sources, ∀ pc info, (getM s n).st ≠ .faulted pc info) → c.d + c.spanD ≤ 16 →
       (∀ q ∈ s.arr.queue, q.d + q.spanD ≤ c.d ∨ c.d + c.spanD ≤ q.d) →
       ∃ t, exec .arrayCommandComplete s = .next t ∧ t.arr.running = none ∧ SameMemory s t ∧ t.hart.x = s.hart.x ∧
         t.hart.v = s.hart.v ∧ (∀ n, c.d ≤ n → n < c.d + c.spanD → regState t (.m n) = .full) ∧
         tileValue t c.d c.spanD = packElems 32 (commandResult s c).1 % 2 ^ (65536 * c.spanD) ∧
         t.arr.results.length = s.arr.results.length + (if c.kind = .mmaq then 1 else 0)) ∧
     (∀ m : BitVec 4, (leaseOf s m.toNat).st = .held → (leaseOf s m.toNat).grantedAt + 8192 ≤ s.sched.clock →
       atBoundary s m.toNat = true → contenders s ≠ [] →
       ∃ t, exec (.leaseRunTimeout m) s = .next t ∧ (leaseOf t m.toNat).st = .yielded ∧ (leaseOf t m.toNat).mask = 0 ∧
         t.hart = s.hart ∧ SameMemory s t) ∧
     (∀ m g, s.arr.reserve.find? (fun r => (weighted s).contains r.1 && setFree s r.1 r.2) = some (m, g) → m < 16 →
       (∀ k, k < 16 → atBoundary s k = true → runOver s k = false) → hasCommands s m = true →
       ∃ t, exec .leaseGrant s = .next t ∧ (leaseOf t m).st = .held ∧ (leaseOf t m).mask = g) ∧
     (∀ m, contenders s = [m] → (∀ k, k < 16 → (leaseOf s k).st ≠ .held) → s.arr.reserve = [] →
       s.arr.outOfService = 0 → s.arr.due = true → (leaseOf s m).count ∈ [1, 2, 4] →
       ∃ t, exec .leaseGrant s = .next t ∧ (leaseOf t m).st = .held ∧
         (leaseOf t m).mask = (if (leaseOf s m).count = 1 then 1 else if (leaseOf s m).count = 2 then 3 else 15)))

/-- R95: with integer operands an element of D is D (or zero for MMZ) plus the sum of the products, modulo 2^32: over all of
a dense row of A, and over the stored elements of a sparse one, each with the element of B at its logical position. -/
def Obligations.ArrayIntegerElement : Prop :=
  ∀ (s : State) (c : ArrayCmd) (d0 i j : Nat), (c.fmtA = 8 ∨ c.fmtA = 9 ∨ c.fmtA = 16) →
    (c.fmtB = 8 ∨ c.fmtB = 9 ∨ c.fmtB = 16) →
    let av (n : Nat) : Int := intCodeValue c.fmtA (elemAt (fmtWidth c.fmtA) (tileValue s c.a c.spanA) n)
    let bv (k : Nat) : Int := intCodeValue c.fmtB (elemAt (fmtWidth c.fmtB) (tileValue s c.b c.spanB) (j * c.depth + k))
    let pos (g t : Nat) : Nat := metaPos (tileValue s (c.a + 1) 1) c.depth c.kept i g t
    let kept (g t : Nat) : Int :=
      if pos g t < 24 then av (i * (c.depth / 24 * c.kept) + g * c.kept + t) * bv (24 * g + pos g t) else 0
    (c.sparse = false → ((resultElem s c d0 i j).1 : Int) =
      (d0 + ((List.range c.depth).map fun k => av (i * c.depth + k) * bv k).foldl (· + ·) 0) % 2 ^ 32) ∧
    (c.sparse = true → ((resultElem s c d0 i j).1 : Int) =
      (d0 + ((List.range (c.depth / 24)).map fun g =>
        ((List.range c.kept).map fun t => kept g t).foldl (· + ·) 0).foldl (· + ·) 0) % 2 ^ 32)

/-! ## The machine as a whole -/

/-- R22, R23, R239: a step at which the hart moves runs the instruction whose bytes stand at the pc: `exec` of what
they decode to, in the state after the step's own changes (the clock, mcycle, hrem, the note that an instruction is tried
again) and the fetch's (page bits, caches); a word that is no instruction, or a failed fetch, runs the step of its exception. The model's choices: the
hart moves where no turn is given and no other step can (log entry 4), a step is one clock (13), and how long a word stays
in the instruction cache (11). -/
def Obligations.StepRunsDecodedInstruction : Prop :=
  ∀ (s : State) (rest : List Nat),
    let u0 := advance { s with sched := { s.sched with turns := rest } }
    let u : State := { u0 with hart := { u0.hart with again := false } }
    (s.sched.turns = 0 :: rest ∨ (s.sched.turns = [] ∧ rest = [] ∧ defaultEntry u0 = none ∧ drainReady u0 = false)) →
    stuck s = false → hartRuns u0 = true → heldDeath u0 = none → budgetOut u0 = false → reservationOld u0 = false →
    interruptToTake u0 = none → s.hart.wait = .none → s.hart.disp = false →
    (∀ x ∈ s.hart.x0, x.atReturn = false → x.next ≠ s.hart.pc) →
    (∀ w i, (fetch u).1 = .word w → decode w = .ok i → step s = exec i (fetch u).2) ∧
    (∀ w, (fetch u).1 = .word w → (∀ i, decode w ≠ .ok i) → step s = exec (.illegalInstructionWord w) (fetch u).2) ∧
    (∀ c, (fetch u).1 = .fault c → step s = exec (.instructionFetchFault c s.hart.pc) (fetch u).2) ∧
    u0.hart = s.hart ∧ u.mem = s.mem ∧ u.user = s.user ∧ u.mach = { s.mach with mcycle := s.mach.mcycle + 1 } ∧
    (∀ u1 x, classOf s.hart.pc = .translated → translate u (stationOf (ownCore u)) u.sup.pid s.hart.pc .fetch = (u1, .ok x) →
      Tab.find? u1.stn.icache x.key = none → u1.stn.badLines.contains x.key = false → poisoned u1 x.key 4 = false →
      ∃ w, (fetch u).1 = .word w ∧ w.toNat = loaded u1 x.key 4)

/-- R436: without power and with no reset pending every step is a fault; every other step has a next state, whatever
instruction or event comes. The model's own: the other agents' steps are entries of its agenda (log entries 1 and 4).
-/
def Obligations.EveryStepAnswers : Prop :=
  ∀ s : State, (s.ras.powered = false → (∀ e ∈ s.sched.agenda, e.ev ≠ .packageReset) → step s = .fault .powerLost) ∧
    ((s.ras.powered = true ∨ ∃ e ∈ s.sched.agenda, e.ev = .packageReset) → ∃ t, step s = .next t)

/-- Every step keeps memory in its canonical form, so that equal memories are equal data. The form is the model's own
(log entry 2 says what an unlisted byte reads as). -/
def Obligations.StepKeepsMemoryCanonical : Prop :=
  ∀ s t : State, MemoryCanonical s → step s = .next t → MemoryCanonical t

/-- R43, R56, R432: after reset every register is FULL and zero, the hart is in M-mode, no root is set, every counter
is FREE and every timeline 0; mideleg delegates 1, 9, 16, 17 and 18. R435: a ROM that rejects the image stays in the ROM and
reports it. Memory is canonical. Values that the model chose,
not the manual: log entries 5, 6 and 73. -/
def Obligations.ResetState : Prop :=
  MemoryCanonical State.reset ∧ State.reset.hart.priv = .machine ∧ State.reset.mach.mideleg = 0x70202 ∧
  (∀ n, n < 32 → getX State.reset n = Reg.zero 64 ∧ getV State.reset n = Reg.zero 512) ∧
  (∀ n, n < 16 → getM State.reset n = Reg.zero 65536) ∧
  (∀ p, Tab.find? State.reset.stn.roots p = none) ∧ State.reset.ctr.timeline = 0 ∧
  (∀ k, k % 16384 ≠ 0 → (counterAt State.reset k).st = .free) ∧ State.reset.ras.pkgSet = false ∧
  (∀ r, romRejects = some r → State.reset.ras.romHeld = true ∧ .rejected r ∈ State.reset.host.mgmt) ∧
  (romRejects = none → State.reset.ras.romHeld = false)

/-! ## CSRs -/

/-- R22, R103 to R110: a CSR instruction returns the old value and writes the new one, as the register keeps it; one whose
number does not exist or whose mode or direction is not allowed is illegal. R154: the end test comes after the write of a
loop's count. R192, R344, R431: one that reads qres takes the oldest result and waits while there is none, one that reads
mlog0 takes the oldest record of the selected log, and one that reads celaunch launches. Which standard CSRs exist, and which
of their bits are fixed, is in part the model's choice (log entry 6). -/
def Obligations.CsrInstructionResult : Prop :=
  ∀ (i : Instr) (op : CsrOp) (a : CsrArgs) (imm : Bool) (s : State), csrForm i = some (op, a, imm) →
    (ready s (if imm then [] else xs [a.src]) (xs [a.rd]) = true → csrAllowed s a.csr (csrWrites op a) = true →
      let old := readCsr s a.csr
      let operand : Word := if imm then a.src.setWidth 64 else xval s a.src
      let v := match op with | .write => operand | .set => old ||| operand | .clear => old &&& ~~~operand
      let log := if s.ras.mlogPkg then s.ras.packageLog else s.ras.clusterLog
      (a.csr ≠ 0x821 → a.csr ≠ 0x83F → a.csr ≠ 0x7E1 →
        ∃ t, exec i s = .next t ∧ WritesX s t a.rd old ∧ SameMemory s t ∧ t.hart.v = s.hart.v ∧ t.hart.m = s.hart.m ∧
          (csrWrites op a = true → ∀ m, plainMask s a.csr.toNat = some m → readCsr t a.csr = v &&& m) ∧
          (csrWrites op a = true → (a.csr = 0x80A ∨ a.csr = 0x80D) →
            let r := endTest (s.hart.pc + 4) (writeCsr a.csr v s)
            readCsr t a.csr = readCsr r.2 a.csr ∧ t.hart.pc = r.1 ∧
              (atLoopEnd (writeCsr a.csr v s) = false → readCsr t a.csr = v)) ∧
          (csrWrites op a = true → a.csr = 0x5C8 → JctlWritten s t v) ∧
          (csrWrites op a = false → t = { s with hart := { retiredHart s with x := t.hart.x }, mach := retiredMach s })) ∧
      (a.csr = 0x821 →
        (csrReads op a = true → ∀ r rest, s.arr.results = r :: rest → ∃ t, exec i s = .next t ∧ WritesX s t a.rd r ∧
          SameMemory s t ∧ t.arr = { s.arr with results := if csrWrites op a then [] else rest }) ∧
        (csrReads op a = true → s.arr.results = [] → exec i s = .next (stallCsr s)) ∧
        (csrReads op a = false → ∃ t, exec i s = .next t ∧ SameMemory s t ∧ t.hart.x = s.hart.x ∧
          t.arr = { s.arr with results := [] })) ∧
      (a.csr = 0x7E1 → csrReads op a = true →
        (∀ r rest, log = r :: rest → ∃ t, exec i s = .next t ∧ WritesX s t a.rd r.word0 ∧ SameMemory s t ∧
          t.ras = { s.ras with
            mlog1 := r.time, packageLog := if s.ras.mlogPkg then rest else s.ras.packageLog
            clusterLog := if s.ras.mlogPkg then s.ras.clusterLog else rest }) ∧
        (log = [] → ∃ t, exec i s = .next t ∧ WritesX s t a.rd 0 ∧ SameMemory s t ∧ t.ras = s.ras)) ∧
      (a.csr = 0x83F → csrReads op a = true → quiet s = true → launchTrap s 0 s.user.shadow = none →
        (snapMode s.user.shadow ≠ 6 → s.transfers.length < 4 → ∃ t, exec i s = .next t ∧
          WritesX s t a.rd (BitVec.ofNat 64 (s.launches % 256)) ∧ SameMemory s t ∧ t.user = s.user ∧ Launched s t) ∧
        (snapMode s.user.shadow = 6 → ∃ t, exec i s = .next t ∧ SameMemory s t ∧ t.user = s.user ∧
          WritesX s t a.rd (controlTransfer s s.user.shadow[11]).1 ∧
          t.transfers = (controlTransfer s s.user.shadow[11]).2.transfers))) ∧
    (∀ w, prefixPending s = false → encode i = some w →
      (privCode s.hart.priv < a.csr.toNat / 256 % 4 ∨ ((op = .write ∨ a.src ≠ 0) ∧ a.csr.toNat / 1024 = 3) ∨
        csrOf a.csr = none) →
      exec i s = .next (trap 2 (w.setWidth 64) s))

/-- R192, R431: a read of qres takes the oldest result, and waits while there is none; a read of mlog0 takes the
oldest record of the selected log and latches its time in mlog1. R42, R56, R110, R118, R192, R431, R433: what the
writes of the system registers do, by their rows. Which standard CSRs exist is the model's choice (log entry 6), and so is
the way in which M-mode clears mip bit 11 (log entry 7). -/
def Obligations.CsrEffects : Prop :=
  (∀ (rd : RegIdx) (s : State), ready s [] (xs [rd]) = true →
     (∀ r rest, s.arr.results = r :: rest → ∃ t, exec (.qresRead rd) s = .next t ∧ WritesX s t rd r ∧ SameMemory s t ∧
       t.arr = { s.arr with results := rest } ∧ t.hart = { retiredHart s with x := t.hart.x } ∧ t.mach = retiredMach s) ∧
     (s.arr.results = [] → exec (.qresRead rd) s = .next (stallCsr s)) ∧
     (∀ r rest, s.hart.priv = .machine → (if s.ras.mlogPkg then s.ras.packageLog else s.ras.clusterLog) = r :: rest →
       ∃ t, exec (.mlog0Read rd) s = .next t ∧ WritesX s t rd r.word0 ∧ SameMemory s t ∧ t.ras.mlog1 = r.time ∧
         (if s.ras.mlogPkg then t.ras.packageLog else t.ras.clusterLog) = rest ∧
         (if s.ras.mlogPkg then t.ras.clusterLog = s.ras.clusterLog else t.ras.packageLog = s.ras.packageLog) ∧
         t.hart = { retiredHart s with x := t.hart.x } ∧ t.mach = retiredMach s) ∧
     (s.hart.priv = .machine → (if s.ras.mlogPkg then s.ras.packageLog else s.ras.clusterLog) = [] →
       ∃ t, exec (.mlog0Read rd) s = .next t ∧ RetiresWith s t rd 0)) ∧
  (∀ (v : Word) (s : State),
     (exec .qresWrite s = .next { s with arr := { s.arr with results := [] } }) ∧
     (∃ t, exec (.pfxstWrite v) s = .next t ∧ t.hart.pend.fv = v.getLsbD 0 ∧ t.hart.pend.mv = v.getLsbD 1 ∧
       t.hart.pend.f = s.hart.pend.f ∧ t.hart.pend.m = s.hart.pend.m ∧ (prefixPending t = true → faultPc t = s.hart.pc) ∧
       t = { s with hart := { s.hart with pend := t.hart.pend } }) ∧
     (exec .jctlDrn s = .next { s with sup := { s.sup with dheld := false } }) ∧
     (s.sup.dheld = true → ∃ t, exec .jctlDdrop s = .next t ∧ t.sup.dheld = false ∧ drainStores t = [] ∧ SameMemory s t ∧
       t.hart = s.hart ∧ ∀ d ∈ s.off.drain, (∀ e, d ≠ .store e) → d ∈ t.off.drain) ∧
     (exec (.sjobWrite v) s = .next { s with sup := { s.sup with pid := BitVec.ofNat 16 v.toNat, reports := 0 } }) ∧
     (exec .hangstClear s = .next { s with sup := { s.sup with hung := false } }) ∧
     (∃ t, exec (.interruptPendingWrite true v) s = .next t ∧ t = { s with mach := { s.mach with mip := t.mach.mip } } ∧
       (∀ n ∈ [1, 3, 9, 16, 17, 18, 19], t.mach.mip.getLsbD n = v.getLsbD n) ∧
       t.mach.mip.getLsbD 11 = (s.mach.mip.getLsbD 11 && v.getLsbD 11)) ∧
     (∃ t, exec (.interruptPendingWrite false v) s = .next t ∧ t = { s with mach := { s.mach with mip := t.mach.mip } } ∧
       ∀ n ∈ [1, 9, 16, 17, 18, 19], t.mach.mip.getLsbD n =
         (if s.mach.mideleg.getLsbD n then v.getLsbD n else s.mach.mip.getLsbD n)) ∧
     (∃ t, exec (.mlogcWrite v) s = .next t ∧ t.ras.mlogPkg = v.getLsbD 63 ∧ t.hart = s.hart ∧ SameMemory s t ∧
       t.ras.packageLog = s.ras.packageLog ∧ t.ras.clusterLog = s.ras.clusterLog ∧
       (v.getLsbD 62 = false → (if v.getLsbD 63 then t.ras.packageOvf else t.ras.clusterOvf) = false)) ∧
     (s.ras.pkgSet = false → exec (.mpkgWrite v) s =
       .next { s with ras := { s.ras with pkg := BitVec.ofNat 12 v.toNat, pkgSet := true } }) ∧
     (s.ras.pkgSet = true → exec (.mpkgWrite v) s = .next s) ∧
     (∀ n m, csrAllowed s n true = true → plainMask s n.toNat = some m →
       ∃ t, exec (.csrWrite n v) s = .next t ∧ readCsr t n = v &&& m ∧ SameMemory s t ∧ t.hart.x = s.hart.x) ∧
     (∃ t, exec (.csrWrite 0x80A v) s = .next t ∧ t = { s with hart := { s.hart with loop0 := { s.hart.loop0 with count := v } } }) ∧
     (∃ t, exec (.csrWrite 0x80D v) s = .next t ∧ t = { s with hart := { s.hart with loop1 := { s.hart.loop1 with count := v } } }) ∧
     (∃ t, exec (.csrWrite 0x5C8 v) s = .next t ∧ JctlWritten s t v ∧ t.hart = s.hart ∧ SameMemory s t))

/-! ## Counters (chapter 10) -/

/-- R266 to R268: cadd, cwait, cpoll, cwaitt, cset and calloc are producers of class 3 whose request goes to the counter's
home; a cwaitt carries its deadline, and a limit of 0 is at once due. cfree and carm send their request and hold the hart
until the response, with which they retire or take COUNTER_ERROR (28). R249, R260: an add, set or free of index 0 and a
carm with 16 arms outstanding take it at once. -/
def Obligations.CounterInstructions : Prop :=
  ∀ (i : Instr) (s : State),
    (∀ a srcs h ev, counterRequest s i = some (a, srcs, h, ev) → ready s (xs srcs) (xs [a.rd]) = true → quiet s = true →
      ((∃ b, i = .cset b) → s.hart.priv ≠ .user) → ((∃ b, i = .cadd b ∨ i = .cset b) → hIndex h ≠ 0) →
      ∃ t, exec i s = .next t ∧ StartsProducer s t a.rd 3 a.aq ∧ Sent t (hPkg h) .request (ev (.job s.off.nextId 0)) ∧
        (∀ b, i = .cwaitt b → (∃ j ∈ t.off.jobs, j.wait =
            some { kind := 2, handle := h, threshold := xval s b.rs2, deadline := s.ctr.timeline + s.user.ctimeout.setWidth 64 }) ∧
          (s.user.ctimeout = 0 → pending t (.cwaittDeadline s.off.nextId)))) ∧
    (∀ a srcs ev, counterStallRequest s i = some (a, srcs, ev) →
      (ready s (xs srcs) [] = true → quiet s = true → s.hart.wait = .none → ((∃ b, i = .cfree b) → hIndex (xval s a.rs1) ≠ 0) →
        ((∃ b, i = .carm b) → Tab.getD s.ctr.arms (ownCore s) 0 < 16) →
        ∃ t, exec i s = .next t ∧ t.hart = { s.hart with wait := .response } ∧ SameMemory s t ∧
          Sent t (hPkg (xval s a.rs1)) .request ev ∧
          ((∃ b, i = .carm b) → reachable s (hPkg (xval s a.rs1)) = true → Tab.getD t.ctr.arms (ownCore s) 0 = Tab.getD s.ctr.arms (ownCore s) 0 + 1)) ∧
      (∀ v, s.hart.wait = .response → s.hart.answer = .accepted v → ∃ t, exec i s = .next t ∧ RetiresElsewhere s t) ∧
      (∀ d, s.hart.wait = .response → s.hart.answer = .failed d →
        let u := if a.aq then invalidateStrand s else s
        exec i s = .next (trap 28 (xval s a.rs1) { u with sup := { s.sup with
          dfpc := s.hart.pc, dfinfo := dfinfoWord (hPkg (xval s a.rs1)) 0 0 3 d } }))) ∧
    (∀ a, (((i = .cadd a ∨ (i = .cset a ∧ s.hart.priv ≠ .user) ∨ (i = .cfree a ∧ s.hart.wait = .none)) ∧
          hIndex (xval s a.rs1) = 0) ∨
        (i = .carm a ∧ s.hart.wait = .none ∧ 16 ≤ Tab.getD s.ctr.arms (ownCore s) 0)) →
      ready s (xs [a.rs1, a.rs2]) [] = true → s.sup.dheld = false → exec i s =
        .next (trap 28 (xval s a.rs1) { s with sup := { s.sup with
          dfpc := s.hart.pc, dfinfo := dfinfoWord (hPkg (xval s a.rs1)) 0 0 3 0 } })) ∧
    (∀ a w, i = .cset a → s.hart.priv = .user → encode i = some w → exec i s = .next (trap 2 (w.setWidth 64) s))

/-- R249 to R264, R269: what a bank does with each request on a counter that its issuer may use, and with one on a counter
whose value is lost. R264, R405: a registered wait of another package is acknowledged (log entry 79). The model's choice:
cfree frees a POISONED counter although it answers MEMORY_UNCORRECTABLE (log entry 81). -/
def Obligations.CounterBankOperations : Prop :=
  (∀ (h n : Word) (src : Issuer) (rto armFor : ReplyTo) (s : State), Usable s h src →
    let v := counterValue s h
    let waiter (isArm : Bool) (rto : ReplyTo) : Waiter :=
      { counter := counterKey s h, threshold := n, isArm := isArm, issuer := src, replyTo := rto }
    (v + n.toNat < 2 ^ 64 → ∃ t, exec (.homeCadd h n src rto) s = .next t ∧ LeavesHart s t ∧ counterValue t h = v + n.toNat ∧
      Answers t rto (.value (BitVec.ofNat 64 v)) ∧ Wakes s t h (v + n.toNat) ∧ OtherCounters s t h) ∧
    (2 ^ 64 ≤ v + n.toNat → ∃ t, exec (.homeCadd h n src rto) s = .next t ∧ LeavesHart s t ∧ t.ctr = s.ctr ∧
      Answers t rto (.failed 0 (homePkg s))) ∧
    (∃ t, exec (.homeCset h n src rto) s = .next t ∧ LeavesHart s t ∧ counterValue t h = n.toNat ∧
      Answers t rto (.value (BitVec.ofNat 64 v)) ∧ Wakes s t h n.toNat ∧ OtherCounters s t h) ∧
    (∃ t, exec (.homeCpoll h src rto) s = .next t ∧ LeavesHart s t ∧ t.ctr = s.ctr ∧
      Answers t rto (.value (BitVec.ofNat 64 v))) ∧
    (n.toNat ≤ v →
      (∃ t, exec (.homeCwait h n src rto) s = .next t ∧ LeavesHart s t ∧ t.ctr = s.ctr ∧
        Answers t rto (.value (BitVec.ofNat 64 v))) ∧
      (∃ t, exec (.waiterRetry h n src rto) s = .next t ∧ LeavesHart s t ∧ t.ctr = s.ctr ∧
        Woken t (herePkg s) src.pid rto (.value (BitVec.ofNat 64 v)))) ∧
    (∀ ev ∈ [Instr.homeCwait h n src rto, .waiterRetry h n src rto],
      (v < n.toNat → tableUse s (counterKey s h / 16384) < 1024 →
        ∃ t, exec ev s = .next t ∧ LeavesHart s t ∧ t.ctr = { s.ctr with waiters := s.ctr.waiters ++ [waiter false rto] } ∧
          (ev = .homeCwait h n src rto → replyBase rto ≠ .hart → ∀ o inner, rto = .over o inner →
            Answers t (.over o .none) (.value 0))) ∧
      (v < n.toNat → 1024 ≤ tableUse s (counterKey s h / 16384) →
        ∃ t, exec ev s = .next t ∧ LeavesHart s t ∧ t.ctr = s.ctr ∧ pending t (.waiterRetry h n src rto))) ∧
    (n.toNat ≤ v → ∃ t, exec (.homeCarm h n src rto armFor) s = .next t ∧ LeavesHart s t ∧ t.ctr = s.ctr ∧
      Answers t rto (.value 0) ∧ Woken t (hPkg h) src.pid armFor (.value (BitVec.ofNat 64 v))) ∧
    (v < n.toNat → tableUse s (counterKey s h / 16384) < 1024 →
      ∃ t, exec (.homeCarm h n src rto armFor) s = .next t ∧ LeavesHart s t ∧ Answers t rto (.value 0) ∧
        t.ctr = { s.ctr with waiters := s.ctr.waiters ++ [waiter true armFor] }) ∧
    (v < n.toNat → 1024 ≤ tableUse s (counterKey s h / 16384) → ∃ t, exec (.homeCarm h n src rto armFor) s = .next t ∧
      Answers t rto (.failed 0 (homePkg s)) ∧ t.ctr.waiters = s.ctr.waiters) ∧
    (∃ t, exec (.homeCfree h src rto) s = .next t ∧ t.hart = s.hart ∧ SameMemory s t ∧
      (counterAt t (counterKey s h)).st = .free ∧ Answers t rto (.value 0) ∧
      (∀ w ∈ t.ctr.waiters, w.counter ≠ counterKey s h) ∧ OtherCounters s t h)) ∧
  (∀ (h n : Word) (src : Issuer) (rto : ReplyTo) (s : State), hIndex h ≠ 0 →
    (counterAt s (counterKey s h)).st = .poisoned → (counterAt s (counterKey s h)).check = hCheck h →
    (src.anyJob = true ∨ (counterAt s (counterKey s h)).pid = src.pid) →
    (∀ ev ∈ [Instr.homeCadd h n src rto, .homeCpoll h src rto, .homeCwait h n src rto], ∃ t, exec ev s = .next t ∧
      LeavesHart s t ∧ t.ctr = s.ctr ∧ Answers t rto (.failed dMemoryUncorrectable (homePkg s))) ∧
    (∃ t, exec (.homeCset h n src rto) s = .next t ∧ LeavesHart s t ∧ (counterAt t (counterKey s h)).st = .live ∧
      (counterAt t (counterKey s h)).value = n ∧ Answers t rto (.failed dMemoryUncorrectable (homePkg s))) ∧
    (∃ t, exec (.homeCfree h src rto) s = .next t ∧ (counterAt t (counterKey s h)).st = .free ∧
      Answers t rto (.failed dMemoryUncorrectable (homePkg s))))

/-- R250, R251, R253, R269: calloc gives a LIVE counter of value 0 with the owner's incarnation as its check, or 0
when the bank is exhausted; a request on a handle that is not the issuer's fails with STALE_COUNTER and changes no
counter. R249, R257, R260, R270, R275, R278: the steps that time and registrations bring. -/
def Obligations.CounterAllocationAndTime : Prop :=
  ((∀ (src : Issuer) (rto : ReplyTo) (s : State),
     (∀ ix b, chooseIndex s src.cluster = some (ix, b) → ix < 16384 → ix ≠ 0 → ∃ t, exec (.homeCalloc src rto) s = .next t ∧
       LeavesHart s t ∧ counterAt t (src.cluster * 16384 + ix) =
         { st := .live, value := 0, check := src.actor.extractLsb' 0 30, owner := src.actor, pid := src.pid, worn := false } ∧
       Answers t rto (.value (mkHandle (pkgOfCluster s src.cluster) (src.cluster % 256) ix (src.actor.extractLsb' 0 30)))) ∧
     (chooseIndex s src.cluster = none → ∃ t, exec (.homeCalloc src rto) s = .next t ∧ LeavesHart s t ∧ t.ctr = s.ctr ∧
       Answers t rto (.value 0))) ∧
   (∀ (h n : Word) (src : Issuer) (rto : ReplyTo) (s : State) (ev : Instr), hIndex h ≠ 0 →
     ((counterAt s (counterKey s h)).st = .free ∨ (counterAt s (counterKey s h)).check ≠ hCheck h ∨
       (src.anyJob = false ∧ (counterAt s (counterKey s h)).pid ≠ src.pid)) →
     ev ∈ [.homeCadd h n src rto, .homeCset h n src rto, .homeCpoll h src rto, .homeCwait h n src rto, .homeCfree h src rto] →
     ∃ t, exec ev s = .next t ∧ t.hart = s.hart ∧ SameMemory s t ∧ t.ctr = s.ctr ∧
       Answers t rto (.failed dStaleCounter (homePkg s)))) ∧
  (∀ (s : State),
     (∀ ns, ∃ t, exec (.timelineTick ns) s = .next t ∧ t.hart = s.hart ∧ SameMemory s t ∧
       t.ctr.timeline = s.ctr.timeline + BitVec.ofNat 64 ns ∧
       ∀ w ∈ t.ctr.waiters, w.counter % 16384 = 0 → w.counter / 16384 < 256 → t.ctr.timeline.toNat < w.threshold.toNat) ∧
     (∀ rto w, s.ctr.waiters.find? (fun x => !x.isArm && replyKey s x.replyTo == replyKey s rto) = some w →
       ∃ t, exec (.waiterWithdrawal rto) s = .next t ∧ LeavesHart s t ∧
         Answers t rto (.value (counterAt s w.counter).value) ∧
         (∀ x ∈ t.ctr.waiters, x.isArm = true ∨ replyKey s x.replyTo ≠ replyKey s rto) ∧ t.ctr.cells = s.ctr.cells) ∧
     (∀ rto h n src r e, s.ctr.waiters = [] → s.sched.agenda = [e] → (e.ev = .homeCwait h n src r ∨ e.ev = .waiterRetry h n src r) →
       replyKey s r = replyKey s rto → ∃ t, exec (.waiterWithdrawal rto) s = .next t ∧ LeavesHart s t ∧ t.ctr = s.ctr ∧
         Answers t rto (match matchFail s h src with
           | some d => .failed d (homePkg s)
           | none => .value (counterAt s (counterKey s h)).value)) ∧
     (∃ t, exec (.armFiringArrives (.arm (ownCore s))) s = .next t ∧ t.mach = { s.mach with mip := s.mach.mip ||| 0x20000 } ∧
       Tab.getD t.ctr.arms (ownCore s) 0 = Tab.getD s.ctr.arms (ownCore s) 0 - 1 ∧ t.hart = s.hart ∧ SameMemory s t) ∧
     (∀ slot a, Tab.find? s.ctr.hostArms slot = some a → ∃ t, exec (.armFiringArrives (.hostArm slot)) s = .next t ∧
       LeavesHart s t ∧ Tab.find? t.ctr.hostArms slot = some { a with state := 2 } ∧
       t.host.msix = s.host.msix ++ [slot] ∧ t.mach = s.mach) ∧
     (∀ id j w, s.off.jobs.find? (fun j => j.id == id) = some j → j.wait = some w → w.kind = 2 →
       ∃ t, exec (.cwaittDeadline id) s = .next t ∧ LeavesHart s t ∧
         Sent t (hPkg w.handle) .request (.waiterWithdrawal (.job id 0))) ∧
     (∀ u : Word, s.ctr.hangSince = some u → s.ctr.hangDone = false → u.toNat + 10000 ≤ s.ctr.timeline.toNat →
       ∃ t, exec .hangReport s = .next t ∧ t.hart = s.hart ∧ SameMemory s t ∧ t.sup.hung = true ∧ t.ctr.hangDone = true ∧
         t.sup.reports.toNat = min (s.sup.reports.toNat + 1) (2 ^ 32 - 1) ∧
         t.mach = { s.mach with mip := s.mach.mip ||| 0x40000 }))

/-! ## Homes, the drain queue, and the ends of waits -/

/-- R210, R224 to R226, R238, R422, R423: a home reads, writes or performs an atomic, and answers; words that it cannot
read are named in its answer, or fail an atomic; a read of the hart's own finds its earlier stores in it (R213). Host memory
answers where its link is up, the host does not refuse the read and 450 µs have not passed (`hostFails`); which reads the
host refuses is its own choice, a free value (log entry 116). A station sends a translated request to its home and answers
one that it cannot translate. -/
def Obligations.HomeAndStationSteps : Prop :=
  ∀ (s : State) (key : Nat) (rto : ReplyTo),
    (∀ len, (isHostKey key = true → hostFails s key rto = false) → poisoned s key len = false → ∃ t b,
      exec (.homeRead key len rto) s = .next t ∧ LeavesHart s t ∧ Answers t rto (.bytes b) ∧ b.length = len ∧
      (drainStores s = [] → ∀ k, k < len → b[k]? = some (Memory.get s.mem (key + k)))) ∧
    (∀ len, (isHostKey key = true → hostFails s key rto = false) → 0 < len → poisoned s key len = true → ∃ t b bad,
      exec (.homeRead key len rto) s = .next t ∧ LeavesHart s t ∧ Answers t rto (.damaged b bad (pkgOfKey s key)) ∧
      b.length = len ∧ bad ≠ [] ∧ ∀ k, k ∈ bad ↔ k < len ∧ poisoned s (key + k) 1 = true) ∧
    (isHostKey key = true →
      (∀ len, s.host.up = false ∨ hostFails s key rto = true →
        ∃ t, exec (.homeRead key len rto) s = .next t ∧ LeavesHart s t ∧ Answers t rto (.failed dHostLink s.ras.pkg)) ∧
      (∀ data, s.host.up = false → ∃ t, exec (.homeWrite key data rto) s = .next t ∧ LeavesHart s t ∧
        Answers t rto (.failed dHostLink s.ras.pkg))) ∧
    (∀ data : List Byte, MemoryCanonical s → (isHostKey key = true → s.host.up = true) →
      inDeadChannel s key data.length = false → ∃ t, exec (.homeWrite key data rto) s = .next t ∧
      (∀ k b, data[k]? = some b → Memory.get t.mem (key + k) = b) ∧
      (∀ k, k < key ∨ key + data.length ≤ k → Memory.get t.mem k = Memory.get s.mem k) ∧ t.hart.x = s.hart.x ∧
      t.sup = s.sup ∧ Answers t rto (.value 0)) ∧
    (∀ op n operand expected, MemoryCanonical s → (n = 4 ∨ n = 8) → poisoned s key n = false →
      let old := loaded s key n
      let new := atomicNew op n old (operand.toNat % 256 ^ n) (expected.toNat % 256 ^ n)
      ∃ t, exec (.homeAtomic key op n operand expected rto) s = .next t ∧ t.hart.x = s.hart.x ∧ t.sup = s.sup ∧
        (match new.1 with | some v => Stored s t key n v | none => SameMemory s t) ∧
        Answers t rto (.value (BitVec.ofNat 64 (if n = 4 then old + new.2.toNat * 2 ^ 32 else old)))) ∧
    (∀ op n operand expected, poisoned s key n = true → ∃ t, exec (.homeAtomic key op n operand expected rto) s = .next t ∧
      LeavesHart s t ∧ Answers t rto (.failed dMemoryUncorrectable (pkgOfKey s key))) ∧
    (∀ pid va act, match translate s (stationOf (ownCore s)) pid va (actionKind act) with
      | (u, .ok x) => ∃ t, exec (.stationTranslate pid va act rto) s = .next t ∧ t.mem = u.mem ∧ t.hart.x = s.hart.x ∧
          Sent t x.pkg .request (match act with
            | .read len => .homeRead x.key len rto
            | .write data => .homeWrite x.key data rto
            | .atomic op n v e => .homeAtomic x.key op n v e rto)
      | (_, .error (d, pkg)) => ∃ t, exec (.stationTranslate pid va act rto) s = .next t ∧ LeavesHart s t ∧
          Answers t rto (.failed d pkg))

/-- R44, R45, R106: the answer to a producer with one request fills its register, or leaves it FAULTED with the
producer's pc and a dfinfo word of its class and detail. R116, R213, R221: the store at the head of the drain queue is
performed byte by byte at its home, in a scratchpad, own HBM or host memory, or goes to a peer as a WRITE and leaves the
queue with its answer (R405), or fails and is held with no byte written; of a run that has ended it is discarded instead
(R102). A release behind no store is sent, and is over when its effect has been applied. -/
def Obligations.ProducersAndDrain : Prop :=
  (∀ (s : State) (j : Job) (p : Part) (n : Nat), s.off.jobs = [j] → j.waiting = [] → j.issued = [p] → j.failure = none →
     j.dest = .x n → 0 < n → n < 32 →
     (∀ v, j.finish = .value → ∃ t, exec (.producerCompletion j.id p.no (.value v)) s = .next t ∧ t.off.jobs = [] ∧
       getX t n = { val := v, st := .full } ∧ (∀ k, k ≠ n → getX t k = getX s k) ∧ SameMemory s t ∧
       t.hart.pc = s.hart.pc ∧ t.hart.v = s.hart.v ∧ t.hart.m = s.hart.m ∧ (j.aq = true → t.stn.strand = [])) ∧
     (∀ d pkg, ∃ t, exec (.producerCompletion j.id p.no (.failed d pkg)) s = .next t ∧ t.off.jobs = [] ∧
       regState t (.x n) = .faulted j.pc (dfinfoWord pkg.toNat 0 (partElem p) j.cls d) ∧
       (∀ k, k ≠ n → getX t k = getX s k) ∧ SameMemory s t)) ∧
  (∀ (s : State), s.sup.dheld = false → s.off.jobs = [] →
     (∀ e rest, s.off.drain = .store e :: rest → e.out = none → e.lost = false → (e.bytes.map (·.1)).Nodup →
       (e.scratch = true → MemoryCanonical s →
         ∃ t, exec .drainEntryPerformed s = .next t ∧ t.off.drain = rest ∧
           (∀ x ∈ e.bytes, Memory.get t.mem (hereKey s e.addr + x.1) = x.2) ∧
           (∀ k, (∀ x ∈ e.bytes, k ≠ hereKey s e.addr + x.1) → Memory.get t.mem k = Memory.get s.mem k) ∧
           t.hart.x = s.hart.x ∧ t.hart.pc = s.hart.pc ∧ t.sup = s.sup) ∧
       (e.scratch = false → ∀ u,
         (∀ d pkg, translate s (stationOf (ownCore s)) e.pid e.addr .store = (u, .error (d, pkg)) →
           (∀ n, s.hart.wait ≠ .runEnd n) → ∃ t, exec .drainEntryPerformed s = .next t ∧ t.sup = { s.sup with dheld := true } ∧ SameMemory s t ∧
             drainStores t = drainStores s ∧ t.off.heldInfo = dfinfoWord pkg.toNat 0 e.elem 1 d ∧ t.hart = s.hart) ∧
         (∀ d pkg n, translate s (stationOf (ownCore s)) e.pid e.addr .store = (u, .error (d, pkg)) →
           s.hart.wait = .runEnd n → ∃ t, exec .drainEntryPerformed s = .next t ∧ t.sup = s.sup ∧ SameMemory s t ∧
             drainStores t = [] ∧ t.hart = s.hart) ∧
         (∀ x, translate s (stationOf (ownCore s)) e.pid e.addr .store = (u, .ok x) → MemoryCanonical u →
           (x.aperture = 2 → u.host.up = false → (∀ n, s.hart.wait ≠ .runEnd n) →
             ∃ t, exec .drainEntryPerformed s = .next t ∧ t.sup = { s.sup with dheld := true } ∧ t.mem = u.mem ∧
               drainStores t = drainStores s ∧ t.off.heldInfo = dfinfoWord x.pkg 0 e.elem 1 dHostLink ∧ t.hart = s.hart) ∧
           ((x.aperture = 0 ∨ (x.aperture = 2 ∧ u.host.up = true)) → s.ras.deadChannels = [] →
             ∃ t, exec .drainEntryPerformed s = .next t ∧ t.off.drain = rest ∧ t.sup = s.sup ∧ t.hart.x = s.hart.x ∧
               (∀ b ∈ e.bytes, Memory.get t.mem (x.key + b.1) = b.2) ∧
               (∀ k, (∀ b ∈ e.bytes, k ≠ x.key + b.1) → Memory.get t.mem k = Memory.get u.mem k)) ∧
           (∀ o b more, x.aperture = 1 → reachable s x.pkg = true → runsOf e.bytes = (o, b) :: more →
             ∃ t, exec .drainEntryPerformed s = .next t ∧ t.mem = u.mem ∧ t.sup = s.sup ∧
               t.off.drain = .store { e with out := some x.key } :: rest ∧
               Sent t x.pkg .request (.homeWrite (x.key + o) b (.drain e.id)))))) ∧
     (∀ e rest o b key, s.off.drain = .store e :: rest → e.out = some key → runsOf e.bytes = [(o, b)] →
       (∀ v, ∃ t, exec (.producerCompletion e.id 0 (.value v)) s = .next t ∧ t.off.drain = rest ∧ LeavesHart s t) ∧
       (∀ d pkg, (∀ n, s.hart.wait ≠ .runEnd n) → ∃ t, exec (.producerCompletion e.id 0 (.failed d pkg)) s = .next t ∧
         t.sup = { s.sup with dheld := true } ∧ SameMemory s t ∧ t.off.heldInfo = dfinfoWord pkg.toNat 0 e.elem 1 d)) ∧
     (∀ id es rest, s.off.drain = .release id es :: rest → ∃ t, exec .releaseTakesEffect s = .next t ∧ LeavesHart s t ∧
       t.off.drain = (if (es.any fun e => effectLater e.ev) then .sent id es :: rest else rest) ∧
       ∀ e ∈ es, Sent t e.pkg e.ch e.ev) ∧
     (∀ id es rest, s.off.drain = .sent id es :: rest →
       ((∀ e ∈ es, effectPending s e.ev = false) →
         ∃ t, exec .releaseTakesEffect s = .next t ∧ LeavesHart s t ∧ t.off.drain = rest) ∧
       ((∃ e ∈ es, effectPending s e.ev = true) → exec .releaseTakesEffect s = .next s)))

/-- R50, R51, R53, R115: an instruction that reads a FAULTED register takes DEFERRED_LOAD (25) with the register and its
record; one that reads an EMPTY register takes EMPTY_SOURCE (24) where that operand has its E bit, and otherwise the hart
waits at it; it waits too while a destination is EMPTY. R48, R50 to R52, R190, R268: a wait on registers ends when what it
waits for is there, and not before, and the instruction is tried again; a failed producer with destination x0 traps where
its wait stands. A stall at issue or of a CSR read ends with every look at it: the instruction is then tried again, and until it is the hart
counts as blocked where it did (R277). -/
def Obligations.WaitsEnd : Prop :=
  (∀ (i : Instr) (s : State) (ops : List Operand) (dest : List RegName), operandsAt i s = some (ops, dest) →
    s.hart.storesDone = 0 → s.ras.regErrors = [] →
    let all := ops.flatMap fun o => o.1
    let marked := (ops.filter fun o => o.2).flatMap fun o => o.1
    (∀ a r b pc info, all = a ++ r :: b → (∀ x ∈ a, (regState s x).isFaulted = false) → regState s r = .faulted pc info →
      exec i s = .next (trap 25 (regNumber r) { s with sup := { s.sup with dfpc := pc, dfinfo := info } })) ∧
    ((∀ x ∈ all, (regState s x).isFaulted = false) →
      (∀ a r b, marked = a ++ r :: b → (∀ x ∈ a, (regState s x).isEmpty = false) → (regState s r).isEmpty = true →
        exec i s = .next (trap 24 (regNumber r) s)) ∧
      ((∀ x ∈ marked, (regState s x).isEmpty = false) →
        ((∃ r ∈ all, (regState s r).isEmpty = true) →
          exec i s = .next { s with hart := { s.hart with wait := .source all } }) ∧
        ((∀ r ∈ all, regState s r = .full) → (∃ r ∈ dest, (regState s r).isEmpty = true) →
          exec i s = .next { s with hart := { s.hart with wait := .dest dest } })))) ∧
  ∀ (s : State),
    (∀ regs, s.hart.wait = .source regs →
      (((∀ r ∈ regs, (regState s r).isEmpty = false) ∨ ∃ r ∈ regs, (regState s r).isFaulted = true) →
        exec .sourceWaitEnds s = .next { s with hart := { s.hart with wait := .none } }) ∧
      ((∃ r ∈ regs, (regState s r).isEmpty = true) → (∀ r ∈ regs, (regState s r).isFaulted = false) →
        exec .sourceWaitEnds s = .next s)) ∧
    (∀ w rest info, s.hart.wait = .none → s.hart.x0 = w :: rest → w.failed = some info → w.atReturn = false →
      w.next = s.hart.pc → trapsHere s 25 = true →
      ∃ t, exec .sourceWaitEnds s = .next t ∧ TakesException
        { s with sup := { s.sup with dfpc := w.pc, dfinfo := info }, hart := { s.hart with x0 := rest, pc := w.pc } } t 25 0) ∧
    (∀ regs, s.hart.wait = .dest regs →
      ((∀ r ∈ regs, (regState s r).isEmpty = false ∧ ∀ n, r = .m n → n ∉ lockedTiles s) →
        exec .destinationWaitEnds s = .next { s with hart := { s.hart with wait := .none } }) ∧
      ((∃ r ∈ regs, (regState s r).isEmpty = true ∨ ∃ n ∈ lockedTiles s, r = .m n) →
        exec .destinationWaitEnds s = .next s)) ∧
    (∀ n b, s.hart.wait = .issue n b →
      exec .issueStallEnds s = .next { s with hart := { s.hart with wait := .none, again := b } }) ∧
    (∀ n, s.hart.wait = .csr n →
      exec .issueStallEnds s = .next { s with hart := { s.hart with wait := .none, again := true } }) ∧
    (s.hart.wait = .response ∨ s.hart.wait = .registration →
      (∀ v, exec (.counterResponseArrival (.value v)) s = .next { s with hart := { s.hart with answer := .accepted v } }) ∧
      (∀ d p, exec (.counterResponseArrival (.failed d p)) s = .next { s with hart := { s.hart with answer := .failed d } })) ∧
    (∀ w c, s.hart.resv = some (w, c) → c + 256 ≤ s.sched.clock →
      exec .reservationExpiry s = .next { s with hart := { s.hart with resv := none } }) ∧
    (∀ w c, s.hart.resv = some (w, c) → s.sched.clock < c + 256 → exec .reservationExpiry s = .next s)

/-- R40, R41, R56, R100, R111: an interrupt is pending and enabled; it goes to S-mode where mideleg says so and
otherwise to M-mode, with the address at which the hart goes on, and leaves every register and byte. What the entry
leaves in spfxf, spfxm and spfxst rests on log entry 20, and that the address of the first prefix word is kept on log
entry 21. -/
def Obligations.InterruptEntry : Prop :=
  ∀ (s : State),
    (∀ n, interruptToTake s = some n →
      let epc := if s.hart.disp then 0 else if heldAtInstr s then faultPc s else s.hart.pc
      let vector (tvec : Word) : Word := (tvec &&& ~~~(3 : Word)) + (if tvec.toNat % 4 = 1 then BitVec.ofNat 64 (4 * n) else 0)
      s.mach.mip.getLsbD n = true ∧ s.mach.mie.getLsbD n = true ∧
      ∃ t, exec .interruptTaken s = .next t ∧ LeavesContext s t ∧
        (s.mach.mideleg.getLsbD n = true → t.hart.priv = .supervisor ∧ t.hart.pc = vector s.sup.stvec ∧ t.sup.sepc = epc ∧
          t.sup.scause = BitVec.ofNat 64 (2 ^ 63 + n) ∧ t.sup.stval = 0 ∧ t.sup.dfrom = s.hart.disp ∧
          t.mach = { s.mach with status := { s.mach.status with
            spp := s.hart.priv == .supervisor, spie := s.mach.status.sie, sie := false } } ∧
          t.sup.spfv = (!heldAtInstr s && s.hart.pend.fv) ∧ t.sup.spmv = (!heldAtInstr s && s.hart.pend.mv) ∧
          t.sup.spf = s.hart.pend.f ∧ t.sup.spm = s.hart.pend.m ∧
          t.sup.spfirst = (if prefixPending s = true ∧ heldAtInstr s = false then some (epc, s.hart.pend.first) else none)) ∧
        (s.mach.mideleg.getLsbD n = false → t.hart.priv = .machine ∧ t.hart.pc = vector s.mach.mtvec ∧ t.mach.mepc = epc ∧
          t.mach.mcause = BitVec.ofNat 64 (2 ^ 63 + n) ∧ t.mach.mtval = 0 ∧ t.sup = { s.sup with mdfrom := s.hart.disp } ∧
          t.mach.status = { s.mach.status with mpp := s.hart.priv, mpie := s.mach.status.mie, mie := false })) ∧
    (exec .machineExternalEvent s = .next { s with mach := { s.mach with mip := s.mach.mip ||| 0x800 } })

/-! ## Address spaces and contexts -/

/-- R241, R242: stinval in a mode other than U removes the named translations from every station of this package, and of
no other one, sets a root, and invalidates the strand buffer. R122 to R130: ctxsave with nothing to quiesce writes the image
of R123 to R125 into its area, local or translated, and no byte outside it, marks the context SAVED and retires; with TILE it
gives the Array's commands, results and lease up. ctxload of an image without records to honour takes from it the registers
of the parts that it names, with their states, and every CSR of the header. That the limits of ranges are saved with 20 bits
(log entry 16) and that a v register of code 01 becomes FAULTED with CONTEXT_FORMAT (88) is the model's choice. -/
def Obligations.TranslationAndContext : Prop :=
  (∀ (a : RT) (s : State), s.hart.priv ≠ .user → ready s (xs [a.rs1, a.rs2]) [] = true → quiet s = true →
     invalOk s (xval s a.rs1) (xval s a.rs2) = true → (∀ e ∈ s.sched.agenda, homeAccess e.ev = none) →
     (∀ x ∈ s.transfers, x.key = none) →
     let addr := (xval s a.rs1).toNat
     let pid : Pid := BitVec.ofNat 16 (xval s a.rs2).toNat
     let scope := (xval s a.rs2).toNat / 2 ^ 18 % 4
     let global := (xval s a.rs2).getLsbD 16
     ∃ t, exec (.stinval a) s = .next t ∧ RetiresElsewhere s t ∧ t.stn.strand = [] ∧
       (∀ e, e ∈ t.stn.tlb ↔ e ∈ s.stn.tlb ∧ (32 ≤ e.station ∨
         ((scope = 0 → ¬ (e.vpn = addr / 2 ^ (12 + 9 * e.level) ∧
           ((e.pid = pid ∧ leafG e.leaf = false) ∨ (global = true ∧ leafG e.leaf = true)))) ∧
         (scope = 1 → ¬ (e.pid = pid ∧ leafG e.leaf = false)) ∧ scope ≠ 2 ∧ (scope = 3 → e.pid ≠ pid)))) ∧
       (scope ≠ 3 → t.stn.roots = s.stn.roots) ∧
       (scope = 3 → addr ≠ 0 → Tab.find? t.stn.roots pid.toNat = some (addr % 2 ^ 45))) ∧
  (∀ (a : RT) (s : State) (key : Nat → Nat), s.hart.priv ≠ .user → ready s (xs [a.rs1]) [] = true → quiet s = true →
     let op := if a.rs1 = 0 then s.sup.sctxptr else xval s a.rs1
     let tile := op.getLsbD 2
     op.toNat % 4096 < 8 → op.getLsbD 0 = false → (tile = true → s.arr.running = none) →
     (MemoryCanonical s → AreaAt s op .store key → (0x80000 ≤ op.toNat → AreaApart s key) →
       ∃ t, exec (.ctxsave a) s = .next t ∧ ImageSaved s t op key ∧ t.hart.saved = true ∧ t.hart.x = s.hart.x ∧
         t.hart.v = s.hart.v ∧ t.hart.pc = (retiredHart s).pc ∧ t.mach = retiredMach s ∧ t.stn.strand = [] ∧
         (∀ n, n < 16 → (tile = false ∨ ∀ c ∈ s.arr.queue, n ∉ c.dest) → getM t n = getM s n) ∧
         (tile = true → t.arr.queue = [] ∧ t.arr.results = [] ∧ (ownLease t).st = .none)) ∧
     (AreaAt s op .load key → (∀ o, o < 0x24000 → poisoned s (key o) 1 = false) → areaWord s key 0 % 2 ^ 16 = 1 →
       areaWord s key 8 % 16 ∈ [0, 1, 2, 4] → areaWord s key 8 / 16 % 2 ^ 10 = 0 → areaWord s key 8 / 2 ^ 14 ≤ 16 →
       ∃ t, exec (.ctxload a) s = .next t ∧ ImageLoaded s t op key ∧ t.hart.saved = false ∧ SameMemory s t ∧
         t.mach = retiredMach s ∧ t.stn.strand = []))

/-! ## Messages and actors (chapters 12 and 13) -/

/-- R335 to R338: send hands over one record with the bytes of its payload to the mailbox agent of its destination, and
sendg one to every member of its group; both retire. A descriptor with reserved fields or too long a payload, a group name
with reserved fields, the name 0, and a group name whose TIER or INSTANCE is not one of R336 take MESSAGE_ERROR (30). Which
operand reports a group name's reserved fields rests on log entry 57. -/
def Obligations.MessagesAreSent : Prop :=
  ∀ (a : RT) (s : State), ready s (xs [a.rs1, a.rs2]) [] = true → quiet s = true →
    let d := (xval s a.rs2).toNat
    let addr := d % 2 ^ 19
    let len := d / 2 ^ 24 % 2 ^ 12
    addr % 8 = 0 → (len = 0 ∨ (addr + len ≤ 0x80000 ∧ localOk s addr len = true)) →
    (d / 2 ^ 19 % 2 ^ 5 ≠ 0 ∨ d / 2 ^ 36 % 16 ≠ 0 ∨ 4080 < len →
      exec (.send a) s = .next (trap 30 (xval s a.rs2) s) ∧ exec (.sendg a) s = .next (trap 30 (xval s a.rs2) s)) ∧
    (d / 2 ^ 19 % 2 ^ 5 = 0 → d / 2 ^ 36 % 16 = 0 → len ≤ 4080 →
    (xval s a.rs1 = 0 → exec (.send a) s = .next (trap 30 0 s)) ∧
    (groupNameReserved (xval s a.rs1) = true → exec (.sendg a) s = .next (trap 30 (xval s a.rs2) s)) ∧
    (groupNameReserved (xval s a.rs1) = false → groupNameOk (xval s a.rs1) = false →
      exec (.sendg a) s = .next (trap 30 (xval s a.rs1) s)) ∧
    ((len = 0 ∨ poisoned s (localKey s addr) len = false) →
    ∃ payload : List Byte, payload.length = len ∧
      (∀ k, k < len → payload[k]? = some (Memory.get s.mem (s.coreid.toNat * 0x80000 + addr + k))) ∧
      let r (dst : Word) (flood : Bool) : Record :=
        { dst := dst, flood := flood, kind := 0, flags := BitVec.ofNat 8 (d / 2 ^ 40), tag := BitVec.ofNat 32 (d / 2 ^ 48 % 2 ^ 16)
          sender := s.act.name, pid := s.sup.pid, payload := payload }
      (xval s a.rs1 ≠ 0 → ∃ t, exec (.send a) s = .next t ∧ RetiresElsewhere s t ∧
        Sent t (namePkg (xval s a.rs1)) .message (.recordAdmit (r (xval s a.rs1) false))) ∧
      (groupNameReserved (xval s a.rs1) = false → groupNameOk (xval s a.rs1) = true →
        ∃ t, exec (.sendg a) s = .next t ∧ RetiresElsewhere s t ∧
        (namePkg (xval s a.rs1) ≠ s.ras.pkg.toNat → Sent t (namePkg (xval s a.rs1)) .message (.recordAdmit (r (xval s a.rs1) true))) ∧
        (namePkg (xval s a.rs1) = s.ras.pkg.toNat → ∀ c ∈ floodCores s (xval s a.rs1),
          Sent t s.ras.pkg.toNat .message (.recordAdmit (r (mkName s.ras.pkg.toNat c (floodSlot (xval s a.rs1)) 0) true))))))

/-- R311 to R319, R321, R358: spawn and tmov are producers whose request goes to their target; endh, exit and kill of the
own name end the run; kill of another name and trapx retire. R220, R318, R319: with aq, those that end the run empty the
strand buffer. The model's choice: the part of the end of run that takes no time is one step (log entry 14). -/
def Obligations.ActorInstructions : Prop :=
  ∀ (a : RT) (s : State), quiet s = true →
    (ready s (xs [a.rs1, a.rs2]) (xs [a.rd]) = true → ctlOk (xval s a.rs1) = true →
      let q : SpawnReq := { ctl := xval s a.rs1, payload := xval s a.rs2, spawner := s.act.name, pid := s.sup.pid
                            replyTo := .job s.off.nextId 0 }
      ∃ t, exec (.spawn a) s = .next t ∧ StartsProducer s t a.rd 8 a.aq ∧ Sent t (ctlPkg q.ctl) .message
        (if (xval s a.rs1).getLsbD 63 then .cohortSpawnAtMember q 0 [] none else .spawnAtTarget q)) ∧
    (∀ b, RunsHandler s b → ready s [] [] = true → s.arr.running = none →
      let ix := actorIx s s.act.name
      let consumed := mailboxValue s (ownCore s) b.consumeIx + recordBytes (recordLen s (headRecord s (ownCore s) b))
      (counterAt s (mailboxKey (ownCore s) b.consumeIx)).st = .live → b.commitIx ≠ b.consumeIx → consumed < 2 ^ 64 →
      ∃ t, exec (.endh a) s = .next t ∧ EndsRun s t ∧ (a.aq = true → t.stn.strand = []) ∧ mailboxValue t (ownCore s) b.consumeIx = consumed ∧ SameMemory s t ∧
        (actorAt t ix).st = (if consumed < mailboxValue s (ownCore s) b.commitIx then .runnable else .idle)) ∧
    (∀ b, RunsHandler s b → ready s (xs [a.rs1]) [] = true → s.arr.running = none → ∃ t, exec (.exit a) s = .next t ∧
      EndsRun s t ∧ (a.aq = true → t.stn.strand = []) ∧ SameMemory s t ∧ Exits s t s.act.name
        { reason := 0, detail := xval s a.rs1, origin := s.act.name, cascade := false }) ∧
    (ready s (xs [a.rs1, a.rs2]) [] = true →
      (xval s a.rs1 ≠ s.act.name ∨ s.hart.priv ≠ .user ∨ s.act.name = 0 → ∃ t, exec (.kill a) s = .next t ∧
        RetiresElsewhere s t ∧ Sent t (namePkg (xval s a.rs1)) .message (.killRequest
          { target := xval s a.rs1, reason := 1, detail := xval s a.rs2, origin := xval s a.rs1, cascade := false
            pid := s.sup.pid, jobOnly := s.hart.priv == .user })) ∧
      (∀ b, RunsHandler s b → xval s a.rs1 = s.act.name → s.hart.wait ≠ .response →
        ∃ t, exec (.kill a) s = .next t ∧ EndsRun s t ∧ (a.aq = true → t.stn.strand = []) ∧ SameMemory s t ∧
        Exits s t s.act.name { reason := 1, detail := xval s a.rs2, origin := s.act.name, cascade := false })) ∧
    (∀ b, RunsHandler s b → ready s (xs [a.rs1]) [] = true → ∃ t, exec (.trapx a) s = .next t ∧ RetiresElsewhere s t ∧
      actorAt t (actorIx s s.act.name) = { b with trapExits := (xval s a.rs1).getLsbD 0 }) ∧
    (s.hart.priv = .user → s.act.name ≠ 0 → ready s (xs [a.rs1, a.rs2]) (xs [a.rd]) = true → s.transfers.length < 4 →
      tmovBad (xval s a.rs1) (xval s a.rs2) = false →
      let slot := (xval s a.rs2).toNat % 64
      let op := (xval s a.rs2).toNat / 256 % 4
      let here := slotKey (ownCore s) slot
      (op ≠ 1 → Tab.find? s.actors.slotOwner here = some s.act.name) →
      ∃ t, exec (.tmov a) s = .next t ∧ StartsProducer s t a.rd 9 a.aq ∧
        (op ≠ 1 → ∃ m, pending t (.move m) ∧ m.slot.toNat = slot ∧ m.receiver = xval s a.rs1 ∧ m.actor = s.act.name ∧
          m.replyTo = .job s.off.nextId 0) ∧
        (op = 1 → ∀ k, unownedSlot s (ownCore s) s.sup.pid = some k → k < 64 →
          Tab.find? t.actors.slotOwner (slotKey (ownCore s) k) = some s.act.name ∧
          pending t (.producerCompletion s.off.nextId 0 (.value (BitVec.ofNat 64 (2 ^ 63 + k))))))

/-- R100, R101, R308 to R310: the dispatcher starts the handler of the head actor whose allotment fits, with its
record in a0 to a2, its state and working ranges in a3, a4 and sp, and DFROM and MDFROM 0; a run whose budget is spent ends
its actor with reason 3. R113: a directory that the dispatcher cannot read is a device error. The model's choice: the part
of the end of a run that takes no time is one step (log entry 14), and that device error carries cause 25, which the
statement does not name (log entry 106). -/
def Obligations.DispatchAndBudget : Prop :=
  ∀ (s : State),
    (∀ ix a e w tb, s.hart.disp = true → boundedOutstanding s = false → runEnding s = false → headActor s = some (ix, a) →
      holding s (ownCore s) a = true → headIsSkip s (ownCore s) a = false → placement s (ownCore s) s.sup.pid = some e →
      allotment s (ownCore s) e a = some (w, tb) → poisoned s (s.coreid.toNat * 0x80000) 0x100 = false →
      poisoned s (headRecord s (ownCore s) a) 16 = false →
      let key := headRecord s (ownCore s) a
      ∃ t, exec .dispatch s = .next t ∧ t.hart.pc = a.snap.handler ∧ t.hart.priv = .user ∧ t.hart.disp = false ∧
        t.sup.dfrom = false ∧ t.sup.mdfrom = false ∧
        SameMemory s t ∧ t.hart.v = s.hart.v ∧ t.stn.strand = [] ∧ (actorAt t ix).st = .running ∧
        t.act.name = nameAt s (ownCore s) (ix % 1024) ∧ t.user.aweight = 1 ∧ t.user.oft = true ∧
        t.sup.hrem = (if a.snap.budget = 0 then BitVec.allOnes 64 else BitVec.ofNat 64 (2 ^ a.snap.budget)) ∧
        getX t 10 = { val := BitVec.ofNat 64 (key - s.coreid.toNat * 0x80000), st := .full } ∧
        getX t 11 = { val := BitVec.ofNat 64 (recordLen s key), st := .full } ∧
        getX t 12 = { val := BitVec.ofNat 64 (recordKind s key), st := .full } ∧
        getX t 13 = { val := BitVec.ofNat 64 a.sbase, st := .full } ∧ getX t 14 = { val := BitVec.ofNat 64 w, st := .full } ∧
        getX t 2 = { val := BitVec.ofNat 64 (w + a.snap.work), st := .full } ∧
        ∀ n, n < 32 → n ∉ [2, 10, 11, 12, 13, 14] → getX t n = Reg.zero 64) ∧
    (s.hart.disp = true → headActor s = none → exec .dispatch s = .next s) ∧
    (runEnding s = true → exec .dispatch s = .next s) ∧
    (s.hart.disp = true → boundedOutstanding s = false → runEnding s = false → headActor s ≠ none →
      poisoned s (s.coreid.toNat * 0x80000) 0x100 = true → s.sched.place = none → s.ras.packageLog.length < 1024 →
      ∃ t r, exec .dispatch s = .next t ∧ t.hart.disp = true ∧ t.hart.x = s.hart.x ∧ SameMemory s t ∧ t.actors = s.actors ∧
        t.ras.packageLog = s.ras.packageLog ++ [r] ∧ r.word0.toNat / 2 ^ 56 = 11) ∧
    (∀ a, RunsHandler s a → s.sup.hrem = 0 → s.hart.wait ≠ .response → s.hart.storesDone = 0 →
      ∃ t, exec .budgetExpiry s = .next t ∧ EndsRun s t ∧ SameMemory s t ∧
      Exits s t s.act.name { reason := 3, detail := 0, origin := s.act.name, cascade := false }) ∧
    (s.sup.hrem ≠ 0 → exec .budgetExpiry s = .next s)

/-- R386 to R388, R400 to R402, R366 to R370: link and mon put an entry at the near side and send an install; unlink and
demon remove it and send a removal; supadd installs a record whose first round is pending, supdel removes it; colset reads
its descriptor, waits for its registration and installs an entry, or takes COUNTER_ERROR (28); colclr removes one. The
model's choice: a poisoned descriptor takes cause 5 as one that is not LOCAL, aligned and within bounds does (`descOk`, log
entry 31). -/
def Obligations.LinkAndCollectiveInstructions : Prop :=
  ∀ (a : RT) (s : State), quiet s = true → ready s (xs [a.rs1]) [] = true →
    let x := xval s a.rs1
    let me := s.act.name
    (s.hart.priv = .user → me ≠ 0 → nameInc x ≠ 0 → x ≠ me →
      (∀ p ∈ [(Instr.link a, false), (.mon a, true)], ¬ Linked s (nearKind p.2) me x → reachable s (namePkg x) = true →
        tableFull s me = false → ∃ t, exec p.1 s = .next t ∧ RetiresElsewhere s t ∧ Linked t (nearKind p.2) me x ∧
          (∀ l, l ∈ s.actors.links → l ∈ t.actors.links) ∧
          Sent t (namePkg x) .message (.linkInstall { mon := p.2, near := me, far := x, pid := s.sup.pid })) ∧
      (∀ p ∈ [(Instr.unlink a, false), (.demon a, true)], ∃ t, exec p.1 s = .next t ∧ RetiresElsewhere s t ∧
        (∀ l, l ∈ t.actors.links ↔ l ∈ s.actors.links ∧ l ≠ { kind := nearKind p.2, owner := me, named := x }) ∧
        Sent t (namePkg x) .message (.linkRemoval { mon := p.2, near := me, far := x, pid := s.sup.pid }))) ∧
    (s.hart.priv = .user → me ≠ 0 →
      let d := descWord s x.toNat
      (descOk s x 64 (64 + 64 * supChildren d) = true → supMalformed d = false → findSup s me = none →
        supTableFull s (supChildren d) = false → d 2 = 0 → ∃ t, exec (.supadd a) s = .next t ∧ RetiresElsewhere s t ∧
        pending t (.restartRound me) ∧ ∃ u, t.actors.sups = s.actors.sups ++ [u] ∧ u.name = me ∧ u.st = .starting ∧
          u.maxr = (d 0).toNat / 2 ^ 16 % 256 ∧ u.children.length = (d 0).toNat / 2 ^ 8 % 64) ∧
      ((descOk s x 64 64 = false ∨ descOk s x 64 (64 + 64 * supChildren d) = false) →
        exec (.supadd a) s = .next (trap 5 x s)) ∧
      (∀ u, findSup s me = some u → u.st = .steady → x = 0 → ∃ t, exec (.supdel a) s = .next t ∧ RetiresElsewhere s t ∧
        findSup t me = none ∧ t.actors.links = s.actors.links)) ∧
    (let d := colDesc s a
     let c := colEntry s d
     (s.hart.wait = .none → descOk s x 64 64 = true → colMalformed d = false → findColl s (ownCluster s) s.sup.pid (colId d) = none →
        colRangeFail s c = none → (s.colls.filter fun c => c.cluster == ownCluster s).length < 256 →
        ∃ t, exec (.colset a) s = .next t ∧
          t.hart = { s.hart with wait := .registration, desc := (List.range 8).map d } ∧ SameMemory s t ∧
          t.colls = s.colls ∧ Sent t (hPkg (d 2)) .request (.homeCwait (d 2) (d 3) (issuerOf s) .hart)) ∧
     (let d := heldDesc s
      (∀ v, s.hart.wait = .registration → s.hart.answer = .accepted v → v.toNat < (d 3).toNat →
        (∃ w ∈ s.ctr.waiters, w.isArm = false ∧ w.replyTo = .hart) → ∃ t, exec (.colset a) s = .next t ∧
          RetiresElsewhere s t ∧ t.colls = s.colls ++ [colEntry s d]) ∧
      (∀ x, s.hart.wait = .registration → s.hart.answer = .failed x → exec (.colset a) s = .next (trap 28 (d 2)
        { s with sup := { s.sup with dfpc := s.hart.pc, dfinfo := dfinfoWord (hPkg (d 2)) 0 0 3 x } }))) ∧
     (∀ e, x.toNat < 2 ^ 32 → findColl s (ownCluster s) s.sup.pid (BitVec.ofNat 32 x.toNat) = some e → collBusy e = false →
        ∃ t, exec (.colclr a) s = .next t ∧ RetiresElsewhere s t ∧
          findColl t (ownCluster s) s.sup.pid (BitVec.ofNat 32 x.toNat) = none ∧
          ∀ w ∈ t.ctr.waiters, w.replyTo ≠ collTo e) ∧
     (x.toNat < 2 ^ 32 → findColl s (ownCluster s) s.sup.pid (BitVec.ofNat 32 x.toNat) = none →
        ∃ t, exec (.colclr a) s = .next t ∧ Retires s t))

/-! ## What comes to actors (chapters 12, 13 and 15) -/

/-- R324 to R329, R434: a record wakes a gated core. One that fits is written, header and payload, where the mailbox reserves, and committed, and an IDLE
actor becomes RUNNABLE; one that does not fit ends the actor with reason 4; one for a name that is not live, or of another
job, is not stored. -/
def Obligations.RecordAdmission : Prop :=
  ∀ (r : Record) (s : State), r.flood = false →
    let core := coreIndex s (namePkg r.dst) (nameCore r.dst)
    let ix := actorIx s r.dst
    let len := r.payload.length
    let n := 16 + (len + 15) / 16 * 16
    (∀ a, liveActor s r.dst = some a → a.pid = r.pid → mailboxBroken s core a = none → len ≤ 4080 →
      nameAt s core (nameSlot r.dst) = r.dst →
      let limit := if r.kind = 1 ∨ r.kind = 4 then a.snap.mbox + 192 else a.snap.mbox
      let ring := a.snap.mbox + 192
      let reserve := mailboxValue s core a.reserveIx
      let pad := if ring - reserve % ring < n then ring - reserve % ring else 0
      let key := core * 0x80000 + a.sbase + (reserve + pad) % ring
      (MemoryCanonical s → reserve + pad + n ≤ mailboxValue s core a.consumeIx + limit → reserve + pad + n < 2 ^ 64 →
        a.reserveIx ≠ a.commitIx → ∃ t, exec (.recordAdmit r) s = .next t ∧
        recordWord t key 0 = r.tag.toNat * 2 ^ 32 + r.flags.toNat * 2 ^ 24 + r.kind.toNat * 2 ^ 16 + len ∧
        recordWord t key 1 = r.sender.toNat ∧
        (∀ k b, r.payload[k]? = some b → Memory.get t.mem (key + 16 + k) = b) ∧
        mailboxValue t core a.reserveIx = reserve + pad + n ∧ mailboxValue t core a.commitIx = reserve + pad + n ∧
        (actorAt t ix).st = (if a.st = .idle then .runnable else a.st) ∧ t.hart.x = s.hart.x ∧
        (pad = 0 → ∀ k, k < key ∨ key + n ≤ k → Memory.get t.mem k = Memory.get s.mem k)) ∧
      (mailboxValue s core a.consumeIx + limit < reserve + pad + n → a.st ≠ .running → ∃ t, exec (.recordAdmit r) s = .next t ∧
        SameMemory s t ∧ Exits s t r.dst { reason := 4, detail := r.sender, origin := r.dst, cascade := false })) ∧
    ((∀ a, liveActor s r.dst = some a → a.pid ≠ r.pid) → ∃ t, exec (.recordAdmit r) s = .next t ∧ LeavesHart s t ∧
      t.actors = s.actors ∧ t.ctr = s.ctr ∧ core ∉ t.ras.gated ∧
      (r.sender = 0 → t = { s with ras := { s.ras with gated := s.ras.gated.filter fun c => c != core } }) ∧
      ∀ l ∈ s.actors.links, r.sender ≠ 0 → l.owner = r.sender → l.kind ≠ .watches → Sent t (namePkg l.named) .message
        (.directSignal { dst := l.named, frm := r.dst, origin := r.dst, reason := 6, detail := r.dst
                         mon := l.kind == .watchedBy, cascade := false }))

/-- R313, R314: the target of a spawn answers the new actor's name, 0 when it refuses, or its failure; the actor then
stands in its slot with its type and job. A cohort goes through its members and answers their number. -/
def Obligations.SpawnSteps : Prop :=
  ∀ (q : SpawnReq) (s : State),
    let core := coreIndex s (ctlPkg q.ctl) (ctlCore q.ctl)
    (match (spawnAt core q s).1 with
      | .name n => ∃ t, exec (.spawnAtTarget q) s = .next t ∧ Answers t q.replyTo (.value n) ∧
          (actorAt t (slotIndex core (nameSlot n))).st ≠ .free ∧ (actorAt t (slotIndex core (nameSlot n))).pid = q.pid ∧
          (actorAt t (slotIndex core (nameSlot n))).typ = BitVec.ofNat 8 q.ctl.toNat ∧
          (actorAt t (slotIndex core (nameSlot n))).inc =
            (if (actorAt s (slotIndex core (nameSlot n))).inc + 1 = 0 then 1 else (actorAt s (slotIndex core (nameSlot n))).inc + 1)
      | .refused => ∃ t, exec (.spawnAtTarget q) s = .next t ∧ Answers t q.replyTo (.value 0)
      | .failed d => ∃ t, exec (.spawnAtTarget q) s = .next t ∧
          Answers t q.replyTo (.failed d (BitVec.ofNat 12 (ctlPkg q.ctl)))) ∧
    (∀ member made, member + 1 < (cohortCores q.ctl).2 → ∃ t, exec (.cohortSpawnAtMember q member made none) s = .next t ∧
      ((∃ made' fail, pending t (.cohortSpawnAtMember q (member + 1) made' fail) ∧ ∀ n ∈ made, n ∈ made'))) ∧
    (∀ member made, (cohortCores q.ctl).2 ≤ member + 1 →
      (spawnAt (coreIndex s (ctlPkg q.ctl) ((cohortCores q.ctl).1 + member)) q s).1 = .refused →
      ∃ t, exec (.cohortSpawnAtMember q member made none) s = .next t ∧
        Answers t q.replyTo (.value (BitVec.ofNat 64 made.length)))

/-- R379 to R387, R476: kills and signals end an actor that is not running, unless it traps exits or the signal is a
monitor's; a link signal takes its entry with it; installs and removals change the far side; the exit walk frees the slot,
removes every entry of the dead actor and tells everyone linked to it; while a collective send of the actor is out it
waits, with the actor's transfers stopping. That a direct signal's death is not marked as cascading rests on log entry 56. -/
def Obligations.DeathsAndLinks : Prop :=
  ∀ (s : State),
    (∀ k a, liveActor s k.target = some a → (k.jobOnly = false ∨ a.pid = k.pid) → a.st ≠ .running →
      ∃ t, exec (.killRequest k) s = .next t ∧ SameMemory s t ∧ t.hart = s.hart ∧ Exits s t k.target
        { reason := k.reason, detail := k.detail, origin := k.origin, cascade := k.cascade }) ∧
    (∀ k a, liveActor s k.target = some a → k.jobOnly = true → a.pid ≠ k.pid → exec (.killRequest k) s = .next s) ∧
    (∀ g a, liveActor s g.dst = some a → a.st ≠ .running → a.trapExits = false → g.mon = false →
      ∃ t, exec (.directSignal g) s = .next t ∧ SameMemory s t ∧ t.hart = s.hart ∧ Exits s t g.dst
        { reason := g.reason, detail := g.detail, origin := g.dst, cascade := false }) ∧
    (∀ g a, liveActor s g.dst = some a → a.st ≠ .running → a.trapExits = false → g.mon = false → findSup s g.dst = none →
      Linked s .link g.dst g.frm → ∃ t, exec (.linkSignal g) s = .next t ∧ SameMemory s t ∧
        ¬ Linked t .link g.dst g.frm ∧ (g.reason = 0 → t.actors.table = s.actors.table) ∧
        (g.reason ≠ 0 → Exits s t g.dst { reason := g.reason, detail := g.detail, origin := g.origin, cascade := true })) ∧
    (∀ g, liveActor s g.dst = none → exec (.linkSignal g) s = .next s ∧ exec (.directSignal g) s = .next s) ∧
    (∀ r a, liveActor s r.far = some a → a.pid = r.pid → tableFull s r.far = false → ∃ t, exec (.linkInstall r) s = .next t ∧
      LeavesHart s t ∧ Linked t (farKind r.mon) r.far r.near ∧ ∀ l, l ∈ s.actors.links → l ∈ t.actors.links) ∧
    (∀ r a, liveActor s r.far = some a → a.pid = r.pid → ¬ Linked s (farKind r.mon) r.far r.near → tableFull s r.far = true →
      ∃ t, exec (.linkInstall r) s = .next t ∧ LeavesHart s t ∧ ¬ Linked t (nearKind r.mon) r.near r.far ∧
        Sent t (namePkg r.near) .message (.directSignal
          { dst := r.near, frm := r.near, origin := r.near, reason := 0x0C, detail := r.far, mon := false, cascade := false })) ∧
    (∀ r, liveActor s r.far = none → ∃ t, exec (.linkInstall r) s = .next t ∧ LeavesHart s t ∧
      ¬ Linked t (nearKind r.mon) r.near r.far ∧ Sent t (namePkg r.near) .message
        (.directSignal { dst := r.near, frm := r.far, origin := r.far, reason := 6, detail := r.far, mon := false, cascade := false })) ∧
    (∀ r, ∃ t, exec (.linkRemoval r) s = .next t ∧ LeavesHart s t ∧
      ∀ l, l ∈ t.actors.links ↔ l ∈ s.actors.links ∧ l ≠ { kind := farKind r.mon, owner := r.far, named := r.near }) ∧
    (∀ name d, (actorAt s (actorIx s name)).st = .exiting → (actorAt s (actorIx s name)).inc = nameInc name →
      (actorAt s (actorIx s name)).death = some d → (∀ c ∈ s.colls, c.owner = name → collBusy c = false) →
      (∀ x ∈ s.transfers, x.actor = name → x.stop = false ∧
        (x.st = .active → touchesLocal (ownMember s) x.snap 0 0x80000 = true → snapMode x.snap = 4 ∧ x.busy = false)) →
      ∃ t, exec (.exitWalk name) s = .next t ∧ SameMemory s t ∧ t.hart = s.hart ∧
        ((actorAt t (actorIx s name)).st = .free ∨ (actorAt t (actorIx s name)).st = .restarting) ∧
        (actorAt t (actorIx s name)).inc = nameInc name ∧ (∀ l ∈ t.actors.links, l.owner ≠ name) ∧
        (∀ c ∈ t.colls, c.owner ≠ name) ∧
        ∀ l ∈ s.actors.links, l.owner = name → l.kind ≠ .watches → Sent t (namePkg l.named) .message
          (.linkSignal { dst := l.named, frm := name, origin := d.origin, reason := d.reason, detail := d.detail
                         mon := l.kind == .watchedBy, cascade := d.cascade })) ∧
    (∀ name c, (actorAt s (actorIx s name)).st = .exiting → (actorAt s (actorIx s name)).inc = nameInc name →
      c ∈ s.colls → c.owner = name → collBusy c = true → ∃ t, exec (.exitWalk name) s = .next t ∧ LeavesHart s t ∧
        t.actors = s.actors ∧ pending t (.exitWalk name) ∧
        ∀ x ∈ t.transfers, x.actor = name → x.reply = none → x.stop = false →
          touchesLocal (ownMember s) x.snap 0 0x80000 = false)

/-- R391 to R397: a failure within MAXR rounds starts a round; one too many ends the supervisor with reason 7. A restarted
child is linked with its supervisor. With a supervisor that is not live nothing is restarted. R405: a restart on another
package goes there as a request, and until its outcome is back the round waits; how the outcome comes back is the model's
choice (log entry 101). -/
def Obligations.RestartSteps : Prop :=
  ∀ (s : State) (u : Sup), findSup s u.name = some u →
    (isLive s u.name = false → exec (.restartRound u.name) s = .next s ∧ ∀ i, exec (.childRestart u.name i) s = .next s) ∧
    (isLive s u.name = true →
    (∀ f rest, u.st = .steady → u.failures = f :: rest → (u.children[f.child]?.map (·.name)) = some f.name →
      let now := timelineAt s (placeCore s u.name / 16)
      let counted := (u.rounds.filter fun c => decide (now.toNat < c.toNat + u.window.toNat)).length + 1
      (counted ≤ u.maxr → u.allForOne = false → ∃ t v, exec (.restartRound u.name) s = .next t ∧ LeavesHart s t ∧
        findSup t u.name = some v ∧ v.st = .round ∧ v.failures = rest ∧ v.todo = [f.child] ∧ v.counted = counted ∧
        pending t (.childRestart u.name f.child)) ∧
      (u.maxr < counted → (∀ a, liveActor s u.name = some a → a.st ≠ .running) → ∃ t, exec (.restartRound u.name) s = .next t ∧
        SameMemory s t ∧ findSup t u.name = none ∧
          Exits s t u.name { reason := 7, detail := BitVec.ofNat 64 f.child, origin := u.name, cascade := false })) ∧
    (∀ i rest c, u.todo = i :: rest → u.children[i]? = some c → u.awaited = [] → namePkg u.name = herePkg s →
      let v := { u with toStandby := u.toStandby || !reachable s (namePkg c.place) }
      let p := childPlace s u c
      (u.request = .idle → (p ≠ 0 ∨ v.toStandby = false) → reachable s (namePkg p) = true →
        (∀ n u1, namePkg p = herePkg s → installAt v i c s = (.done n, u1) → tableFull u1 u.name = false →
          ∃ t, exec (.childRestart u.name i) s = .next t ∧ Linked t .link n u.name ∧ Linked t .link u.name n) ∧
        (namePkg p ≠ herePkg s → ∃ t, exec (.childRestart u.name i) s = .next t ∧ LeavesHart s t ∧
          findSup t u.name = some { v with request := .out } ∧ Sent t (namePkg p) .message (.childRestart u.name i))) ∧
      (u.request = .out → exec (.childRestart u.name i) s = .next s)))

/-! ## Transfers and collectives (chapter 14) -/

/-- R343 to R349, R363: a launch that R349 does not turn away takes a snapshot of the shadow set and returns its number; a
CONTROL launch returns the status of the transfer that it names, pauses a WALK of the job, or resumes any paused WALK. -/
def Obligations.LaunchesAndControl : Prop :=
  (∀ (i : Instr) (mode : Nat) (rd : RegIdx) (s : State), launchForm i = some (mode, rd) →
    ready s [] (xs [rd]) = true → quiet s = true → s.user.shadow[6].toNat % 16 = mode → launchTrap s 0 s.user.shadow = none →
    s.transfers.length < 4 →
    ∃ t, exec i s = .next t ∧ WritesX s t rd (BitVec.ofNat 64 (s.launches % 256)) ∧ SameMemory s t ∧ t.user = s.user ∧
      t.hart = { retiredHart s with x := t.hart.x } ∧ t.mach = retiredMach s ∧ Launched s t ∧
      (mode = 0 ∨ mode = 2 ∨ mode = 5 → pending t (.transferComplete s.launches))) ∧
  (∀ (i : Instr) (action : Nat) (rd : RegIdx) (s : State), controlForm i = some (action, rd) →
    ready s [] (xs [rd]) = true → s.sup.dheld = false → s.user.shadow[6].toNat % 16 = 6 →
    s.user.shadow[11].toNat / 256 % 4 = action → launchTrap s 0 s.user.shadow = none →
    let id := s.user.shadow[11].toNat % 256
    let found := s.transfers.find? fun x => x.reply.isNone && x.id % 256 == id
    (found = none → ∃ t, exec i s = .next t ∧ RetiresWith s t rd (BitVec.ofNat 64 id)) ∧
    (∀ x, found = some x → findTransfer s x.id = some x →
      (action = 0 → ∃ t, exec i s = .next t ∧ RetiresWith s t rd (BitVec.ofNat 64
        (x.step * 2 ^ 32 + (match x.st with | .active => 1 | .gated => 2 | .paused => 3) * 2 ^ 8 + id))) ∧
      (x.snap[6].toNat % 16 = 3 → x.pause = false →
        (action = 1 → x.st ≠ .paused → x.pid = s.sup.pid → ∃ t, exec i s = .next t ∧ SameMemory s t ∧
          ∃ y ∈ t.transfers, y.id = x.id ∧ y.st = x.st ∧ y.pause = true) ∧
        (action = 2 → x.st = .paused → x.step < snapRows x.snap → ∃ t, exec i s = .next t ∧ SameMemory s t ∧
          ∃ y ∈ t.transfers, y.id = x.id ∧ y.st ≠ .paused ∧ y.step = x.step))))

/-- R344, R350 to R352, R354, R361: a transfer moves row after row, byte by byte where both ends are local; a WALK
goes step by step behind its gate; REDUCE updates element after element; a failed transfer ends, and its live actor is
signalled, as is a GATHER whose index cannot be read. R356 to R360: what a move of a tile slot answers, and whose the slot
then is; one for another package goes there as a packet, unless its transfer has been stopped, when the slot is freed.
R356, R360: a TILEMOVE to a receiver that is not live gives the slot back to its actor and adds nothing. The model's choice: a transfer advances one row, step or element at a
time (log entry 53). -/
def Obligations.TransfersAndSlots : Prop :=
  (∀ (s : State) (x : Transfer), findTransfer s x.id = some x →
     let v := x.snap
     let src : Word := v[0] + BitVec.ofNat 64 x.step * v[4]
     let dst : Word := v[1] + BitVec.ofNat 64 x.step * v[5]
     let len := v[2].toNat
     let here (a : Word) : Nat := s.coreid.toNat * 0x80000 + a.toNat
     (snapMode v = 0 → x.reply = none → x.busy = false → x.adding = false → x.stop = false → x.buf = [] → x.done = 0 →
       x.step < snapRows v → snapMcast v = false → src.toNat + len ≤ 0x80000 → dst.toNat + len ≤ 0x80000 →
       poisoned s (here src) len = false → MemoryCanonical s → ∃ t, exec (.transferComplete x.id) s = .next t ∧
         (∀ k, k < len → Memory.get t.mem (here dst + k) = Memory.get s.mem (here src + k)) ∧
         (∀ k, k < here dst ∨ here dst + len ≤ k → Memory.get t.mem k = Memory.get s.mem k) ∧ t.hart.x = s.hart.x ∧
         (∃ y ∈ t.transfers, y.id = x.id ∧ y.step = x.step + 1) ∧ pending t (.transferComplete x.id)) ∧
     ((snapMode v = 0 ∨ snapMode v = 2 ∨ snapMode v = 5) → x.reply = none → x.busy = false → snapRows v ≤ x.step → v[7] = 0 →
       ∃ t, exec (.transferComplete x.id) s = .next t ∧ LeavesHart s t ∧ TransferGone t x.id) ∧
     (∀ d, x.reply = none → x.adding = false → ∃ t, exec (.transferFailure x.id d) s = .next t ∧ LeavesHart s t ∧
       TransferGone t x.id ∧
       (x.actor ≠ 0 → isLive s x.actor = true → ∃ g, pending t (.directSignal g) ∧ g.dst = x.actor ∧ g.reason = 0x0B ∧ g.mon = false)) ∧
     (snapMode v = 2 → x.reply = none → x.busy = false → x.adding = false → x.step < snapRows v →
       poisoned s (here (v[11] + BitVec.ofNat 64 (4 * x.step))) 4 = true → v[11].toNat + 4 * x.step < 0x80000 →
       x.actor ≠ 0 → isLive s x.actor = true → ∃ t g, exec (.transferComplete x.id) s = .next t ∧ LeavesHart s t ∧
         TransferGone t x.id ∧ pending t (.directSignal g) ∧ g.dst = x.actor ∧ g.reason = 0x0B ∧
         g.detail.toNat % 2 ^ 16 = dMemoryUncorrectable.toNat) ∧
     (x.st = .gated → ∃ t, exec (.walkGateOpens x.id) s = .next t ∧ LeavesHart s t ∧ pending t (.walkStepDone x.id) ∧
       ∃ y ∈ t.transfers, y.id = x.id ∧ y.st = .active) ∧
     (∀ x1 u, snapMode v = 3 → x.st = .active → x.pause = false → x.stop = false → x.busy = false → x.adding = false →
       v[7] = 0 → x.step < snapRows v → moveRow x (x.step % snapRing v) s = .on x1 u → ∃ t, exec (.walkStepDone x.id) s = .next t ∧ t.mem = u.mem ∧
         (x.step + 1 < snapRows v → ∃ y ∈ t.transfers, y.id = x.id ∧ y.step = x.step + 1) ∧
         (x.step + 1 = snapRows v → TransferGone t x.id)) ∧
     (snapMode v = 1 → snapFmt v = 12 → snapRop v = 0 → snapSkip v = false → x.busy = false → x.stop = false → x.buf = [] →
       x.key = none → s.sched.place = none → x.step < snapRows v → x.elem < len / 4 →
       src.toNat + len ≤ 0x80000 → dst.toNat + len ≤ 0x80000 → poisoned s (here src) len = false →
       poisoned s (here dst) len = false → MemoryCanonical s → ∃ t, exec (.reduceElementUpdate x.id) s = .next t ∧
         Stored s t (here dst + 4 * x.elem) 4 (loaded s (here dst + 4 * x.elem) 4 + loaded s (here src + 4 * x.elem) 4) ∧
         t.hart.x = s.hart.x ∧ (pending t (.reduceElementUpdate x.id) ∨ pending t (.transferComplete x.id)))) ∧
  (∀ (m : MoveReq) (s : State) (id part : Nat), m.replyTo = .job id part → m.start = none → s.sched.packet = none →
     let s0 := { s with transfers := s.transfers.filter fun t => t.id != 2 ^ 64 + id }
     (m.receiver = 0 → ∃ t, exec (.move m) s = .next t ∧ LeavesHart s t ∧
       Answers t m.replyTo (.value (BitVec.ofNat 64 (2 ^ 63 + m.slot.toNat)))) ∧
     (m.receiver ≠ 0 → namePkg m.receiver ≠ herePkg s → (findTransfer s (2 ^ 64 + id)).isSome = true →
       ∃ t, exec (.move m) s = .next t ∧ LeavesHart s t ∧
       Sent t (namePkg m.receiver) .message (.move { m with replyTo := .transfer (2 ^ 64 + id) })) ∧
     (m.receiver ≠ 0 → namePkg m.receiver ≠ herePkg s → findTransfer s (2 ^ 64 + id) = none →
       ∃ t, exec (.move m) s = .next t ∧ LeavesHart s t ∧
         Tab.find? t.actors.slotOwner (slotKey (coreIndex s (namePkg m.actor) (nameCore m.actor)) m.slot.toNat) = none) ∧
     (m.receiver ≠ 0 → namePkg m.receiver = herePkg s → match (moveSlot m s0).1 with
       | .moved k => k < 64 → ∃ t, exec (.move m) s = .next t ∧ Answers t m.replyTo (.value (BitVec.ofNat 64 (2 ^ 63 + k))) ∧
           Tab.find? t.actors.slotOwner (slotKey (coreIndex s (namePkg m.receiver) (nameCore m.receiver)) k) = some m.receiver
       | .noActor => ∃ t, exec (.move m) s = .next t ∧ Answers t m.replyTo (.value 0x06)
       | .mailboxFull => ∃ t, exec (.move m) s = .next t ∧ Answers t m.replyTo (.value 0x04)
       | .outOfRoom => ∃ t, exec (.move m) s = .next t ∧ Answers t m.replyTo (.value 0x0C)
       | .failed d => ∃ t pkg, exec (.move m) s = .next t ∧ Answers t m.replyTo (.failed d pkg))) ∧
  (∀ (m : MoveReq) (s : State) (x : Transfer), m.replyTo = .transfer x.id → m.start = none → s.sched.packet = none →
     findTransfer s x.id = some x → namePkg m.receiver = herePkg s → receiverGone m s = true → isLive s m.actor = true →
     ∃ t, exec (.move m) s = .next t ∧ SameMemory s t ∧ TransferGone t x.id ∧ t.ctr = s.ctr ∧
       Tab.find? t.actors.slotOwner (slotKey (coreIndex s (namePkg m.actor) (nameCore m.actor)) m.slot.toNat) = some m.actor)

/-- R367, R371 to R373, R411: an entry that fires sends its source to every destination, or tries again where 256 are
unanswered; a contribution before the firing is told
to retry, a second one of a number counts as accepted without effect, and the first of a plain entry becomes RES; an answer
acknowledges its send or has it sent again. A member's read of a group load joins its request. The model's choice: an answer
to another package is a CANSWER packet of channel 3 that names the packet it answers (log entry 80). -/
def Obligations.CollectiveSteps : Prop :=
  ∀ (s : State),
    (∀ c, findColl s c.cluster c.pid c.colid = some c → c.st = .waiting → c.self = false → c.skip = false →
      poisoned s (scratchKey c.core c.src) (c.lines * 64) = false → (∀ d ∈ c.dests, reachable s (pkgOfCluster s d.cluster) = true) →
      ∃ t, exec (.collectiveFire c.cluster c.pid c.colid) s = .next t ∧ LeavesHart s t ∧
        ∀ d ∈ c.dests, ∃ x,
          let pkg := pkgOfCluster s d.cluster
          let sent := Sent t pkg .collective (.contributionArrival x)
          (sent ∨ (pkg ≠ s.ras.pkg.toNat ∧ pending t (.contributionResend x))) ∧
          (unansweredContributions s pkg + c.dests.length ≤ 256 → sent) ∧ x.dst = d.cluster ∧ x.src = c.cluster ∧ x.colid = c.colid ∧ x.own = c.own ∧ x.group = c.group ∧
          ∀ k, k < c.lines * 64 → x.data[k]? = some (Memory.get s.mem (scratchKey c.core c.src + k))) ∧
    (∀ x, (∀ e, findColl s x.dst x.pid x.colid = some e → e.st = .waiting) →
      ∃ t, exec (.contributionArrival x) s = .next t ∧ LeavesHart s t ∧
        Acknowledged s t x false) ∧
    (∀ x e, findColl s x.dst x.pid x.colid = some e → e.st = .active ∨ e.st = .done → e.bitmap.getLsbD x.own.toNat = true →
      ∃ t, exec (.contributionArrival x) s = .next t ∧ LeavesHart s t ∧ t.colls = s.colls ∧ Acknowledged s t x true) ∧
    (∀ x e, findColl s x.dst x.pid x.colid = some e → e.st = .active → e.bitmap.getLsbD x.own.toNat = false →
      e.group = x.group → e.op = x.op.toNat → e.fmt = x.fmt.toNat → e.lines = x.lines → countBits e.bitmap < e.expect →
      e.first = true → e.self = false → e.skip = false → e.absent = [] → x.data.length = e.lines * 64 → e.fmt = 12 →
      MemoryCanonical s → ∃ t, exec (.contributionArrival x) s = .next t ∧
        (∀ k b, x.data[k]? = some b → Memory.get t.mem (scratchKey e.core e.res + k) = b) ∧
        (∀ k, k < scratchKey e.core e.res ∨ scratchKey e.core e.res + e.lines * 64 ≤ k →
          Memory.get t.mem k = Memory.get s.mem k) ∧
        Acknowledged s t x true ∧
        ∃ c ∈ t.colls, c.colid = e.colid ∧ c.bitmap.getLsbD x.own.toNat = true) ∧
    (∀ x e, findColl s x.src x.pid x.colid = some e → e.st = .active → ∃ t, exec (.canswerArrival x false) s = .next t ∧
      LeavesHart s t ∧ pending t (.contributionResend x) ∧
        t.colls.map (fun (c : Coll) => { c with dests := c.dests.map fun (d : CollDest) => { d with retried := false } }) =
          s.colls.map (fun (c : Coll) => { c with dests := c.dests.map fun (d : CollDest) => { d with retried := false } })) ∧
    (∀ x e, findColl s x.src x.pid x.colid = some e → e.st = .active → e.expect = countBits e.bitmap + 1 →
      e.dests = [{ cluster := x.dst, acked := false }] → ∃ t, exec (.canswerArrival x true) s = .next t ∧ LeavesHart s t ∧
        ∃ c ∈ t.colls, c.colid = e.colid ∧ c.dests = [{ cluster := x.dst, acked := true }]) ∧
    (∀ x e d, findColl s x.src x.pid x.colid = some e → e.st = .active ∨ e.st = .failed → d ∈ e.dests → d.cluster = x.dst →
      d.acked = false → reachable s (pkgOfCluster s x.dst) = true →
      ∃ t, exec (.contributionResend x) s = .next t ∧ LeavesHart s t ∧
        (pkgOfCluster s x.dst = s.ras.pkg.toNat ∨ unansweredContributions s (pkgOfCluster s x.dst) < 256 →
          Sent t (pkgOfCluster s x.dst) .collective (.contributionArrival x)) ∧
        (pkgOfCluster s x.dst ≠ s.ras.pkg.toNat → 256 ≤ unansweredContributions s (pkgOfCluster s x.dst) →
          pending t (.contributionResend x))) ∧
    (∀ x, findColl s x.src x.pid x.colid = none → exec (.contributionResend x) s = .next s) ∧
    (∀ j p member, s.off.jobs = [j] → j.issued = [p] → j.waiting = [] → member ∈ groupMembers p.va →
      (∀ l ∈ p.leaves, l.1 ≠ member) → ∃ t, exec (.groupMemberRead j.id p.no member) s = .next t ∧ SameMemory s t ∧
        t.hart.pc = s.hart.pc ∧
        (p.leaves.length + 1 < (groupMembers p.va).length → ∃ j' p', t.off.jobs = [j'] ∧ j'.issued = [p'] ∧
          p'.leaves = p.leaves ++ [(member, memberBytes s p ((groupCores p.va).1 + member))]) ∧
        ((groupMembers p.va).length ≤ p.leaves.length + 1 → t.off.jobs = []))

/-! ## The host (chapters 10, 13 and 17) -/

/-- R274, R275, R418 to R423: while its link is up and ready, the host adds to LIVE counters and reads every one, writes and
reads arm slots and doorbells, and writes and reads own HBM through BAR2; a read of BAR0 of another size or alignment, or
beyond what is listed, is not supported, and such a write changes nothing. Otherwise nothing of it comes in, and a
configuration request is told to retry. That host traffic waits for the link and the firmware is the model's reading (log
entry 66), and so is where the parts of BAR0 end (log entry 92). -/
def Obligations.HostTraffic : Prop :=
  ∀ (s : State),
    let answered (tag : Nat) (a : HostAnswer) : State := { s with host := { s.host with answers := s.host.answers ++ [(tag, a)] } }
    (s.host.up = true → s.host.ready = true →
      (∀ k tag : Nat, k < 2 ^ 22 →
        exec (.hostCounterRead (.bar0 (0x2000000 + 8 * k)) 8 tag) s = .next (answered tag (.data (wordToBytes 8
          (match (counterAt s k).st with
            | .free => 0 | .live => (counterAt s k).value | .poisoned => BitVec.allOnes 64))))) ∧
      (∀ (k : Nat) (n : Word), k < 2 ^ 22 → k % 16384 ≠ 0 → (counterAt s k).st = .live →
        (counterAt s k).value.toNat + n.toNat < 2 ^ 64 → ∃ t, exec (.hostCounterAdd (0x2000000 + 8 * k) 8 n) s = .next t ∧
          LeavesHart s t ∧ (counterAt t k).value = (counterAt s k).value + n ∧
          (∀ q, q ≠ k → counterAt t q = counterAt s q) ∧
          ∀ w ∈ t.ctr.waiters, w.counter = k → (counterAt t k).value.toNat < w.threshold.toNat) ∧
      (∀ slot tag : Nat, slot < 64 →
        exec (.hostCounterRead (.bar0 (0x1000000 + 16 * slot)) 8 tag) s =
          .next (answered tag (.data (wordToBytes 8 (hostArmAt s slot).handle))) ∧
        exec (.hostCounterRead (.bar0 (0x1000008 + 16 * slot)) 8 tag) s =
          .next (answered tag (.data (wordToBytes 8 (BitVec.ofNat 64 (hostArmAt s slot).state)))) ∧
        ∀ v : Word, ∃ t, exec (.hostCounterAdd (0x1000000 + 16 * slot) 8 v) s = .next t ∧
          LeavesHart s t ∧ hostArmAt t slot = { hostArmAt s slot with handle := v }) ∧
      (∀ (slot : BitVec 6) (handle : Option Word) (thr : Word),
        let h := handle.getD (hostArmAt s slot.toNat).handle
        reachable s (hPkg h) = true → ∃ t, exec (.hostArmThresholdWrite slot handle thr) s = .next t ∧ LeavesHart s t ∧
          hostArmAt t slot.toNat = { handle := h, threshold := thr, state := 1 } ∧
          (∀ w ∈ t.ctr.waiters, w.replyTo ≠ .hostArm slot.toNat) ∧
          Sent t (hPkg h) .request (.homeCarm h thr hostIssuer .none (.hostArm slot.toNat))) ∧
      (∀ (core : BitVec 12) (v : Word),
        (∀ tag, exec (.hostCounterRead (.bar0 (0x800000 + 8 * core.toNat)) 8 tag) s = .next (answered tag (.data (wordToBytes 8
          (if (if core = s.coreid then s.mach.mip.getLsbD 9 else Tab.getD s.host.seip core.toNat false) = true then 1 else 0))))) ∧
        (v.getLsbD 0 = true → core = s.coreid →
          exec (.doorbellWrite core v) s = .next { s with mach := { s.mach with mip := s.mach.mip ||| 0x200 } }) ∧
        (v.getLsbD 0 = true → core ≠ s.coreid → ∃ t, exec (.doorbellWrite core v) s = .next t ∧ LeavesHart s t ∧
          Tab.find? t.host.seip core.toNat = some true) ∧
        (v.getLsbD 0 = false → exec (.doorbellWrite core v) s = .next s)) ∧
      (∀ off len tag : Nat, len ≠ 8 ∨ off % 8 ≠ 0 ∨ 0x4000000 ≤ off →
        exec (.hostCounterRead (.bar0 off) len tag) s = .next (answered tag .unsupported) ∧
        ∀ v, exec (.hostCounterAdd off len v) s = .next s) ∧
      (∀ (off : Nat) (data : List Byte), off + data.length ≤ 384000000000 → MemoryCanonical s →
        ∃ t, exec (.bar2Write off data) s = .next t ∧ (∀ k b, data[k]? = some b → Memory.get t.mem (ownBase + off + k) = b) ∧
          (∀ k, k < ownBase + off ∨ ownBase + off + data.length ≤ k → Memory.get t.mem k = Memory.get s.mem k) ∧
          t.hart.x = s.hart.x ∧ t.mach = s.mach) ∧
      (∀ (off len tag : Nat), off + len ≤ 384000000000 → poisoned s (ownBase + off) len = false →
        ∃ b, exec (.bar2Read off len tag) s = .next (answered tag (.data b)) ∧
          b.length = len ∧ ∀ k, k < len → b[k]? = some (Memory.get s.mem (ownBase + off + k))) ∧
      (∀ (off len tag : Nat), 384000000000 < off + len →
        exec (.bar2Read off len tag) s = .next (answered tag .unsupported))) ∧
    ((s.host.up = false ∨ s.host.ready = false) →
      (∀ off len v, exec (.hostCounterAdd off len v) s = .next s) ∧
      (∀ slot handle thr, exec (.hostArmThresholdWrite slot handle thr) s = .next s) ∧
      (∀ core v, exec (.doorbellWrite core v) s = .next s) ∧ (∀ off data, exec (.bar2Write off data) s = .next s) ∧
      (∀ q base cap actor, exec (.hostQueueEnable q base cap actor) s = .next s) ∧
      (∀ q, exec (.hostQueueDisable q) s = .next s) ∧ (∀ q tail, exec (.hostQueueTailWrite q tail) s = .next s)) ∧
    (∀ off len tag, s.host.up = true → s.host.ready = false →
      exec (.hostCounterRead (.config off) len tag) s = .next (answered tag .retry))

/-- R339 to R342, R421, R422: a host queue takes BASE, CAP and ACTOR while it is DISABLED and then only, is enabled from
DISABLED, takes a good TAIL and stops on a bad one, forwards a record that fits, and stops where its actor is not live; its
descriptor reads as R339 lays it out. A read of host memory that has had no completion for 450 µs, or whose link goes down,
fails with HOST_LINK.
That a ring of any CAP and BASE is taken rests on log entry 64. -/
def Obligations.HostQueuesAndLink : Prop :=
  ∀ (s : State) (q : BitVec 14),
    let h := queueAt s q.toNat
    (s.host.up = true → s.host.ready = true →
      (∀ (base : Option (BitVec 45)) (cap : BitVec 32) (actor : Option Word),
        (h.state = 0 → ∃ t, exec (.hostQueueEnable q base cap actor) s = .next t ∧
          LeavesHart s t ∧ pending t (.hostQueueForward q) ∧ queueAt t q.toNat =
            { base := (base.map (·.toNat)).getD h.base, state := 1, err := 0, cap := cap.toNat, actor := actor.getD h.actor
              tail := 0, head := 0 }) ∧
        (h.state ≠ 0 → exec (.hostQueueEnable q base cap actor) s = .next s)) ∧
      (∀ v : Word,
        let at_ (n : Nat) : Nat := 64 * q.toNat + 8 * n
        (h.state = 0 →
          (∃ t, exec (.hostCounterAdd (at_ 0) 8 v) s = .next t ∧ LeavesHart s t ∧
            queueAt t q.toNat = { h with base := v.toNat % 2 ^ 45 }) ∧
          (∃ t, exec (.hostCounterAdd (at_ 2) 8 v) s = .next t ∧ LeavesHart s t ∧ queueAt t q.toNat = { h with actor := v }) ∧
          (v.getLsbD 63 = false → ∃ t, exec (.hostCounterAdd (at_ 1) 8 v) s = .next t ∧ LeavesHart s t ∧
            queueAt t q.toNat = { h with cap := v.toNat % 2 ^ 32 })) ∧
        (h.state ≠ 0 → exec (.hostCounterAdd (at_ 0) 8 v) s = .next s ∧ exec (.hostCounterAdd (at_ 2) 8 v) s = .next s) ∧
        exec (.hostCounterAdd (at_ 4) 8 v) s = .next s) ∧
      (∀ n tag : Nat, n < 8 → h.state < 4 → h.err < 2 ^ 8 → h.cap < 2 ^ 32 → h.base < 2 ^ 45 → h.tail < 2 ^ 64 →
        h.head < 2 ^ 64 → ∃ w : Word,
          exec (.hostCounterRead (.bar0 (64 * q.toNat + 8 * n)) 8 tag) s =
            .next { s with host := { s.host with answers := s.host.answers ++ [(tag, .data (wordToBytes 8 w))] } } ∧
          (n = 0 → w.toNat = h.base) ∧ (n = 2 → w = h.actor) ∧ (n = 3 → w.toNat = h.tail) ∧ (n = 4 → w.toNat = h.head) ∧
          (n = 1 → w.getLsbD 63 = (h.state != 0) ∧ w.toNat / 2 ^ 60 % 8 = h.state ∧ w.toNat / 2 ^ 40 % 2 ^ 8 = h.err ∧
            w.toNat % 2 ^ 32 = h.cap)) ∧
      (∃ t, exec (.hostQueueDisable q) s = .next t ∧ LeavesHart s t ∧ (queueAt t q.toNat) = { h with state := 0 }) ∧
      (∀ tail : Word, (h.state = 1 ∨ h.state = 2) →
        (h.tail ≤ tail.toNat → tail.toNat ≤ h.head + h.cap → tail.toNat % 16 = 0 → ∃ t, exec (.hostQueueTailWrite q tail) s = .next t ∧
          LeavesHart s t ∧ queueAt t q.toNat = { h with tail := tail.toNat } ∧ pending t (.hostQueueForward q)) ∧
        ((tail.toNat < h.tail ∨ h.head + h.cap < tail.toNat ∨ tail.toNat % 16 ≠ 0) → ∃ t, exec (.hostQueueTailWrite q tail) s = .next t ∧
          LeavesHart s t ∧ queueAt t q.toNat = { h with state := 3, err := 4 } ∧ 64 ∈ t.host.msix))) ∧
    ((h.state = 1 ∨ h.state = 2) →
      (liveActor s h.actor = none → ∃ t, exec (.hostQueueForward q) s = .next t ∧ LeavesHart s t ∧
        queueAt t q.toNat = { h with state := 3, err := 1 } ∧ 64 ∈ t.host.msix) ∧
      (∀ a, liveActor s h.actor = some a → namePkg h.actor = s.ras.pkg.toNat →
        (h.head = h.tail → ∃ t, exec (.hostQueueForward q) s = .next t ∧ LeavesHart s t ∧ queueAt t q.toNat = { h with state := 1 }) ∧
        (let off := h.base + h.head % h.cap
         let len := loaded s (ownBase + off) 8 % 2 ^ 16
         let n := 16 + (len + 15) / 16 * 16
         let core := nameCore h.actor
         h.head ≠ h.tail → off + 16 + len ≤ 384000000000 → poisoned s (ownBase + off) (16 + len) = false → len ≤ 4080 →
         h.head + n ≤ h.tail → n ≤ a.snap.mbox → loaded s (ownBase + off) 8 / 2 ^ 16 % 2 ^ 8 ≠ 3 →
         mailboxBroken s core a = none → (ringPlace s core a n a.snap.mbox).2 = true →
         ∃ t, exec (.hostQueueForward q) s = .next t ∧ t.hart.x = s.hart.x ∧ pending t (.hostQueueForward q) ∧
           queueAt t q.toNat = { h with state := 1, head := h.head + n }))) ∧
    (∀ e ∈ s.sched.agenda, ∀ key len rto, isHostKey key = true → e.ev = .homeRead key len rto →
      (hostReadLate s rto = true →
        ∃ t, exec (.hostCompletionTimeout rto) s = .next t ∧ LeavesHart s t ∧ Answers t rto (.failed dHostLink s.ras.pkg) ∧
        ∀ x ∈ t.sched.agenda, ∀ k n, x.ev = .homeRead k n rto → isHostKey k = false) ∧
      (hostReadLate s rto = false → exec (.hostCompletionTimeout rto) s = .next s) ∧
      (∃ t, exec .hostLinkDown s = .next t ∧ LeavesHart s t ∧ t.host.up = false ∧ Answers t rto (.failed dHostLink s.ras.pkg))) ∧
    exec .hostLinkReady s = .next { s with host := { s.host with up := true, ready := true } }

/-! ## Errors, power, identity and the fabric (chapters 15 to 17) -/

/-- R423 to R431: a corrected, transient or lasting error of the memories counts at its level, a lasting one in own HBM
poisons its word; the retirement of a core takes it out of service and brings in the standby, or leaves its number vacant; the
standby of this core starts in M-mode at the adoption entry, and no waiter goes (R247). A visit of a level's first word ends
the pass before, whatever it finds. The model's choices: the standby's CSRs are as after reset (log entry 68), a visit of
level 3 with a key from 2^40 on is one of a buffer's entries (94), how a visit names an element (47), and where a
scrubber's pass ends (60). -/
def Obligations.ErrorsAndRetirement : Prop :=
  ∀ (s : State),
    (∀ (lv : BitVec 3) (key : Nat), lv = 2 ∨ lv = 3 ∨ lv = 5 →
      let old := levelAt s lv.toNat
      (∃ t, exec (.scrubVisit lv key .corrected) s = .next t ∧ LeavesHart s t ∧
        (levelAt t lv.toNat).corrected.toNat = min (old.corrected.toNat + 1) (2 ^ 32 - 1)) ∧
      (∃ t, exec (.scrubVisit lv key .transient) s = .next t ∧ LeavesHart s t ∧
        (levelAt t lv.toNat).transient.toNat = min (old.transient.toNat + 1) (2 ^ 16 - 1)) ∧
      (∃ t, exec (.scrubVisit lv key .lasting) s = .next t ∧ t.hart.x = s.hart.x ∧ SameMemory s t ∧
        (levelAt t lv.toNat).lasting.toNat = min (old.lasting.toNat + 1) (2 ^ 16 - 1) ∧
        (lv = 5 → (ownBase + key) / 8 * 8 ∈ t.ras.poison)) ∧
      (key ≠ 0 → exec (.scrubVisit lv key .clean) s = .next s) ∧
      (old.period ≠ 0 → ∃ t, exec (.scrubVisit lv 0 .clean) s = .next t ∧ LeavesHart s t ∧
        levelAt t lv.toNat = { old with begun := true, passes := if old.begun then old.passes + 1 else old.passes }) ∧
      (∀ found, old.period ≠ 0 → ∃ t, exec (.scrubVisit lv 0 found) s = .next t ∧ (levelAt t lv.toNat).begun = true ∧
        (levelAt t lv.toNat).passes = (if old.begun then old.passes + 1 else old.passes))) ∧
    (∀ (core : BitVec 12) (cause : BitVec 2),
      let begin := Instr.coreRetirement core (.begins cause)
      let finish := Instr.coreRetirement core (.ends cause)
      (core.toNat ∈ s.ras.vacant → exec begin s = .next s ∧ exec finish s = .next s) ∧
      (core.toNat ∈ s.ras.sparing → exec begin s = .next s) ∧ (core.toNat ∉ s.ras.sparing → exec finish s = .next s) ∧
      (core.toNat ∉ s.ras.vacant → core.toNat ∉ s.ras.sparing → core ≠ s.coreid → ∃ t, exec begin s = .next t ∧
        core.toNat ∈ t.ras.sparing ∧ pending t finish ∧ SameMemory s t ∧ t.hart = s.hart) ∧
      (core.toNat ∉ s.ras.vacant → core.toNat ∈ s.ras.sparing → ∃ t, exec finish s = .next t ∧ core.toNat ∉ t.ras.sparing ∧
        t.ctr.waiters.length = s.ctr.waiters.length ∧
        (core.toNat / 16 ∈ s.ras.standbyUsed → core.toNat ∈ t.ras.vacant ∧ LeavesHart s t) ∧
        (core.toNat / 16 ∉ s.ras.standbyUsed → core.toNat / 16 ∈ t.ras.standbyUsed ∧ core.toNat ∉ t.ras.vacant ∧
          (core ≠ s.coreid → t.hart = s.hart) ∧
          (core = s.coreid → t.hart = { Hart.reset with pc := Config.adoptionEntry } ∧ t.user = UserCsrs.reset ∧
            t.sup = SupCsrs.reset ∧ t.act = ActCsrs.zero))))

/-- R1, R20, R432 to R437: the clock steps within 1.5 to 3.0 GHz; 105 °C throttles and 115 °C stops, and takes core power
from a module; a core is gated while
idle and woken; a reset leaves registers as after reset and memory outside the package; a power loss leaves only a
reset; a report first spends a key index, and then is its head and its signature. What a reset keeps is the model's
reading (log entries 2, 62 and 70), and so are the encodings of a report and a public key (log entry 63). -/
def Obligations.PowerAndIdentity : Prop :=
  ∀ (s : State),
    (∃ t, exec (.powerClockStep true) s = .next t ∧ LeavesHart s t ∧ t.ras.clock = min 30 (s.ras.clock + 1)) ∧
    (∃ t, exec (.powerClockStep false) s = .next t ∧ LeavesHart s t ∧ t.ras.clock = max 15 (s.ras.clock - 1)) ∧
    (∀ (die : BitVec 2) (c : BitVec 16),
      (105 ≤ c.toNat → ∃ t, exec (.thermalThrottle die c) s = .next t ∧ LeavesHart s t ∧ t.ras.clock = max 15 (s.ras.clock - 1)) ∧
      (c.toNat < 105 → exec (.thermalThrottle die c) s = .next s) ∧
      (115 ≤ c.toNat → ∃ t, exec (.thermalShutdown die c) s = .next t ∧ LeavesHart s t ∧ t.ras.stopped = true ∧
        t.host.msix = s.host.msix ++ [66] ∧ MgmtReport.thermal die c ∈ t.host.mgmt ∧
        t.ras.corePower = (s.ras.corePower && !Config.isModule)) ∧
      (c.toNat < 115 → exec (.thermalShutdown die c) s = .next s)) ∧
    (∀ core : BitVec 12,
      (∃ t, exec (.coreWake core) s = .next t ∧ LeavesHart s t ∧ core.toNat ∉ t.ras.gated ∧
        ∀ c ∈ s.ras.gated, c ≠ core.toNat → c ∈ t.ras.gated) ∧
      (coreIdle s core.toNat = true → ∃ t, exec (.corePowerGating core) s = .next t ∧ LeavesHart s t ∧ core.toNat ∈ t.ras.gated) ∧
      (coreIdle s core.toNat = false → exec (.corePowerGating core) s = .next s)) ∧
    (∃ t, exec .packageReset s = .next t ∧ t.hart = State.reset.hart ∧ t.user = State.reset.user ∧ t.sup = State.reset.sup ∧
      t.mach = State.reset.mach ∧ t.stn = State.reset.stn ∧ t.ctr.timeline = 0 ∧ t.ras.powered = true ∧ t.ras.pkgSet = false ∧
      t.ras.keyIndex = s.ras.keyIndex ∧ t.ras.corePower = true ∧ t.ras.romHeld = romRejects.isSome ∧ t.sched.agenda = [] ∧ t.coreid = s.coreid ∧
      (MemoryCanonical s → ∀ k, Memory.get t.mem k = if outside k then Memory.get s.mem k else 0)) ∧
    (∃ t, exec .powerLoss s = .next t ∧ t.ras.powered = false ∧ LeavesHart s t ∧ t.ras.keyIndex = s.ras.keyIndex ∧
      ∀ e ∈ t.sched.agenda, e.ev = .packageReset) ∧
    (s.ras.powered = true → s.ras.corePower = true → s.ras.stopped = false → s.ras.romHeld = false →
      let reported (b : List Byte) : State := { s with host := { s.host with mgmt := s.host.mgmt ++ [.answer b] } }
      (∀ nonce : List Byte, nonce.length = 32 →
        (s.ras.keyIndex < 32768 → ∃ t, exec (.attestationRequest (.asked nonce)) s = .next t ∧ LeavesHart s t ∧ t.host = s.host ∧
          t.ras = { s.ras with keyIndex := s.ras.keyIndex + 1 } ∧
          pending t (.attestationRequest (.spent nonce s.ras.keyIndex))) ∧
        (∀ k, k < s.ras.keyIndex → ∃ b, exec (.attestationRequest (.spent nonce k)) s = .next (reported b) ∧ b.length = 1704 ∧
          (∀ i, i < 32 → b[20 + i]? = nonce[i]?) ∧
          (∀ i, i < 4 → b[88 + i]? = some (BitVec.ofNat 8 (k / 256 ^ (3 - i))) ∧ b[92 + i]? = b[88 + i]?) ∧
          b[99]? = some 4 ∧ b[1223]? = some 7) ∧
        (32768 ≤ s.ras.keyIndex → ∃ b, exec (.attestationRequest (.asked nonce)) s = .next (reported b) ∧ b.length = 92 ∧
          (∀ i, i < 32 → b[20 + i]? = nonce[i]?) ∧ ∀ i, i < 4 → b[88 + i]? = some 0xFF)) ∧
      (∃ b, exec .identityKeyRequest s = .next (reported b) ∧ b.length = 56 ∧ b[3]? = some 7 ∧ b[7]? = some 4))

/-- R384, R403, R407 to R413: permits, the loss of a peer and its return, the resending of a packet, the acknowledgement and
the resending of flits, and the ports. What this package knows of its peers rests on log entry 18. The model's choice: a loss
drops a peer's packets in one step, and a readmission starts all streams anew (log entry 69). -/
def Obligations.PeersAndPorts : Prop :=
  ∀ (s : State),
    (∀ (pkg : BitVec 12) (bits : BitVec 5),
      let p := peerOf s pkg.toNat
      (∃ t, exec (.permitTableWrite pkg bits) s = .next t ∧ LeavesHart s t ∧ (peerOf t pkg.toNat).permits = bits ∧
        (peerOf t pkg.toNat).known = true ∧ (peerOf t pkg.toNat).lost = p.lost ∧
        ∀ q, q ≠ pkg.toNat → peerOf t q = peerOf s q) ∧
      (pkg ≠ s.ras.pkg → p.lost = false →
        (∃ t, exec (.lossNotice pkg) s = .next t ∧ LeavesHart s t ∧ (peerOf t pkg.toNat).lost = true ∧
          (∀ e ∈ t.sched.agenda, isFor s pkg.toNat e = false) ∧
          (∀ w ∈ t.ctr.waiters, pkgOfCluster s (w.counter / 16384) ≠ pkg.toNat) ∧
          ∀ l ∈ s.actors.links, namePkg l.named = pkg.toNat → namePkg l.owner = s.ras.pkg.toNat → l.kind ≠ .watchedBy →
            ∃ g, pending t (.linkSignal g) ∧ g.dst = l.owner ∧ g.frm = l.named ∧ g.reason = 0x05) ∧
        (∀ c : Word, p.timer = some c → c.toNat + 500000 ≤ s.ctr.timeline.toNat → ∃ t, exec (.peerLossTimeout pkg) s = .next t ∧
          LeavesHart s t ∧ (peerOf t pkg.toNat).lost = true)) ∧
      (∀ c : Word, p.timer = some c → s.ctr.timeline.toNat < c.toNat + 500000 → exec (.peerLossTimeout pkg) s = .next s) ∧
      (p.lost = true → exec (.lossNotice pkg) s = .next s ∧ ∃ t, exec (.peerReadmit pkg) s = .next t ∧ LeavesHart s t ∧
        (peerOf t pkg.toNat).lost = false ∧ (peerOf t pkg.toNat).permits = p.permits) ∧
      (p.lost = false → exec (.peerReadmit pkg) s = .next s) ∧
      (∀ (ch : Channel) (rid : Nat), ch ≠ .answer →
        let sent := (outStream s pkg.toNat ch).packets.find? fun q => q.left && q.via.rid == rid
        (∀ q, sent = some q → (isAnswer q.via = true ∨ streamPort s (flitHeader q.via) = none) →
          exec (.endToEndResend pkg ch rid) s = .next s) ∧
        (∀ q, sent = some q → isAnswer q.via = false → (streamPort s (flitHeader q.via)).isSome = true →
          (∀ e ∈ s.sched.agenda, e.via ≠ some q.via) → ∃ t, exec (.endToEndResend pkg ch rid) s = .next t ∧ LeavesHart s t ∧
            ∃ e ∈ t.sched.agenda, e.ev = q.ev ∧ e.via = some q.via) ∧
        (sent = none → exec (.endToEndResend pkg ch rid) s = .next s))) ∧
    (∀ (pkg seq : BitVec 12),
      let ofIt (f : Flit) : Prop := headerDst f.header = pkg.toNat ∧ trailerSeq f.trailer = seq
      ((∀ k < 32, ∀ f ∈ (portAt s k).unacked, ¬ ofIt f) → exec (.flitAcknowledgement pkg seq) s = .next s) ∧
      (∀ k a f rest, k < 32 → (portAt s k).unacked = a ++ f :: rest → ofIt f → (∀ g ∈ a, ¬ ofIt g) →
        (∀ j < k, ∀ g ∈ (portAt s j).unacked, ¬ ofIt g) →
        ∃ t more, exec (.flitAcknowledgement pkg seq) s = .next t ∧ LeavesHart s t ∧ (portAt t k).unacked = rest ++ more ∧
          ((∃ g ∈ rest, headerDst g.header = pkg.toNat) → (peerOf t pkg.toNat).timer = some s.ctr.timeline) ∧
          ((∀ g ∈ rest, headerDst g.header ≠ pkg.toNat) →
            (∀ j < 32, (portAt s j).waiting = [] ∧ (j ≠ k → ∀ g ∈ (portAt s j).unacked, headerDst g.header ≠ pkg.toNat)) →
            (∀ x ∈ s.fab.peers, ∀ st ∈ x.2.out.toList, ∀ q ∈ st.packets, q.left = true) →
            (peerOf t pkg.toNat).timer = none))) ∧
    (∀ (n : BitVec 5),
      let p := portAt s n.toNat
      (∀ seq a f rest, p.unacked = a ++ f :: rest → trailerSeq f.trailer = seq → (∀ g ∈ a, trailerSeq g.trailer ≠ seq) →
        ∃ t, exec (.linkRetry n seq) s = .next t ∧ LeavesHart s t ∧
          portAt t n.toNat = { p with resent := p.resent + (rest.length + 1) } ∧
          (levelAt t 6).corrected.toNat = min ((levelAt s 6).corrected.toNat + 1) (2 ^ 32 - 1)) ∧
      (∀ seq, (∀ g ∈ p.unacked, trailerSeq g.trailer ≠ seq) → exec (.linkRetry n seq) s = .next s) ∧
      (∃ t, exec (.fabricLaneFailure n) s = .next t ∧ LeavesHart s t ∧ (portAt t n.toNat).lanesLost = p.lanesLost + 1 ∧
        (p.lanesLost = 0 → (portAt t n.toNat).trained = p.trained) ∧ (p.lanesLost ≠ 0 → (portAt t n.toNat).trained = false)) ∧
      (s.ras.pkgSet = true → p.lanesLost ≤ 1 → ∃ t, exec (.portTrainingComplete n) s = .next t ∧ LeavesHart s t ∧
        (portAt t n.toNat).trained = true ∧ (portAt t n.toNat).lanesLost = p.lanesLost) ∧
      (s.ras.pkgSet = false ∨ 1 < p.lanesLost → exec (.portTrainingComplete n) s = .next s))

end
end

