-- ==== Sys2Proof/Laws/State.lean ====
section
/-!
SUPPORT. What each update of the state leaves as it was: one lemma per field per update.
-/
namespace Sys2Proof.Machine

/-! ## post -/

@[simp] theorem post_hart (ev : Instr) (s : State) : (post ev s).hart = s.hart := rfl
@[simp] theorem post_coreid (ev : Instr) (s : State) : (post ev s).coreid = s.coreid := rfl
@[simp] theorem post_user (ev : Instr) (s : State) : (post ev s).user = s.user := rfl
@[simp] theorem post_act (ev : Instr) (s : State) : (post ev s).act = s.act := rfl
@[simp] theorem post_sup (ev : Instr) (s : State) : (post ev s).sup = s.sup := rfl
@[simp] theorem post_mach (ev : Instr) (s : State) : (post ev s).mach = s.mach := rfl
@[simp] theorem post_off (ev : Instr) (s : State) : (post ev s).off = s.off := rfl
@[simp] theorem post_arr (ev : Instr) (s : State) : (post ev s).arr = s.arr := rfl
@[simp] theorem post_mem (ev : Instr) (s : State) : (post ev s).mem = s.mem := rfl
@[simp] theorem post_stn (ev : Instr) (s : State) : (post ev s).stn = s.stn := rfl
@[simp] theorem post_ctr (ev : Instr) (s : State) : (post ev s).ctr = s.ctr := rfl
@[simp] theorem post_actors (ev : Instr) (s : State) : (post ev s).actors = s.actors := rfl
@[simp] theorem post_transfers (ev : Instr) (s : State) : (post ev s).transfers = s.transfers := rfl
@[simp] theorem post_launches (ev : Instr) (s : State) : (post ev s).launches = s.launches := rfl
@[simp] theorem post_colls (ev : Instr) (s : State) : (post ev s).colls = s.colls := rfl
@[simp] theorem post_host (ev : Instr) (s : State) : (post ev s).host = s.host := rfl
@[simp] theorem post_fab (ev : Instr) (s : State) : (post ev s).fab = s.fab := rfl
@[simp] theorem post_ras (ev : Instr) (s : State) : (post ev s).ras = s.ras := rfl

/-! ## postOwn -/

@[simp] theorem postOwn_hart (ev : Instr) (s : State) : (postOwn ev s).hart = s.hart := rfl
@[simp] theorem postOwn_coreid (ev : Instr) (s : State) : (postOwn ev s).coreid = s.coreid := rfl
@[simp] theorem postOwn_user (ev : Instr) (s : State) : (postOwn ev s).user = s.user := rfl
@[simp] theorem postOwn_act (ev : Instr) (s : State) : (postOwn ev s).act = s.act := rfl
@[simp] theorem postOwn_sup (ev : Instr) (s : State) : (postOwn ev s).sup = s.sup := rfl
@[simp] theorem postOwn_mach (ev : Instr) (s : State) : (postOwn ev s).mach = s.mach := rfl
@[simp] theorem postOwn_off (ev : Instr) (s : State) : (postOwn ev s).off = s.off := rfl
@[simp] theorem postOwn_arr (ev : Instr) (s : State) : (postOwn ev s).arr = s.arr := rfl
@[simp] theorem postOwn_mem (ev : Instr) (s : State) : (postOwn ev s).mem = s.mem := rfl
@[simp] theorem postOwn_stn (ev : Instr) (s : State) : (postOwn ev s).stn = s.stn := rfl
@[simp] theorem postOwn_ctr (ev : Instr) (s : State) : (postOwn ev s).ctr = s.ctr := rfl
@[simp] theorem postOwn_actors (ev : Instr) (s : State) : (postOwn ev s).actors = s.actors := rfl
@[simp] theorem postOwn_transfers (ev : Instr) (s : State) : (postOwn ev s).transfers = s.transfers := rfl
@[simp] theorem postOwn_launches (ev : Instr) (s : State) : (postOwn ev s).launches = s.launches := rfl
@[simp] theorem postOwn_colls (ev : Instr) (s : State) : (postOwn ev s).colls = s.colls := rfl
@[simp] theorem postOwn_host (ev : Instr) (s : State) : (postOwn ev s).host = s.host := rfl
@[simp] theorem postOwn_fab (ev : Instr) (s : State) : (postOwn ev s).fab = s.fab := rfl
@[simp] theorem postOwn_ras (ev : Instr) (s : State) : (postOwn ev s).ras = s.ras := rfl

/-! ## enter -/

@[simp] theorem enter_hart (e : Entry) (s : State) : (enter e s).hart = s.hart := rfl
@[simp] theorem enter_coreid (e : Entry) (s : State) : (enter e s).coreid = s.coreid := rfl
@[simp] theorem enter_user (e : Entry) (s : State) : (enter e s).user = s.user := rfl
@[simp] theorem enter_act (e : Entry) (s : State) : (enter e s).act = s.act := rfl
@[simp] theorem enter_sup (e : Entry) (s : State) : (enter e s).sup = s.sup := rfl
@[simp] theorem enter_mach (e : Entry) (s : State) : (enter e s).mach = s.mach := rfl
@[simp] theorem enter_off (e : Entry) (s : State) : (enter e s).off = s.off := rfl
@[simp] theorem enter_arr (e : Entry) (s : State) : (enter e s).arr = s.arr := rfl
@[simp] theorem enter_mem (e : Entry) (s : State) : (enter e s).mem = s.mem := rfl
@[simp] theorem enter_stn (e : Entry) (s : State) : (enter e s).stn = s.stn := rfl
@[simp] theorem enter_ctr (e : Entry) (s : State) : (enter e s).ctr = s.ctr := rfl
@[simp] theorem enter_actors (e : Entry) (s : State) : (enter e s).actors = s.actors := rfl
@[simp] theorem enter_transfers (e : Entry) (s : State) : (enter e s).transfers = s.transfers := rfl
@[simp] theorem enter_launches (e : Entry) (s : State) : (enter e s).launches = s.launches := rfl
@[simp] theorem enter_colls (e : Entry) (s : State) : (enter e s).colls = s.colls := rfl
@[simp] theorem enter_host (e : Entry) (s : State) : (enter e s).host = s.host := rfl
@[simp] theorem enter_fab (e : Entry) (s : State) : (enter e s).fab = s.fab := rfl
@[simp] theorem enter_ras (e : Entry) (s : State) : (enter e s).ras = s.ras := rfl

/-! ## hold -/

@[simp] theorem hold_coreid (w : Wait) (s : State) : (hold w s).coreid = s.coreid := rfl
@[simp] theorem hold_user (w : Wait) (s : State) : (hold w s).user = s.user := rfl
@[simp] theorem hold_act (w : Wait) (s : State) : (hold w s).act = s.act := rfl
@[simp] theorem hold_sup (w : Wait) (s : State) : (hold w s).sup = s.sup := rfl
@[simp] theorem hold_mach (w : Wait) (s : State) : (hold w s).mach = s.mach := rfl
@[simp] theorem hold_off (w : Wait) (s : State) : (hold w s).off = s.off := rfl
@[simp] theorem hold_arr (w : Wait) (s : State) : (hold w s).arr = s.arr := rfl
@[simp] theorem hold_mem (w : Wait) (s : State) : (hold w s).mem = s.mem := rfl
@[simp] theorem hold_stn (w : Wait) (s : State) : (hold w s).stn = s.stn := rfl
@[simp] theorem hold_ctr (w : Wait) (s : State) : (hold w s).ctr = s.ctr := rfl
@[simp] theorem hold_actors (w : Wait) (s : State) : (hold w s).actors = s.actors := rfl
@[simp] theorem hold_transfers (w : Wait) (s : State) : (hold w s).transfers = s.transfers := rfl
@[simp] theorem hold_launches (w : Wait) (s : State) : (hold w s).launches = s.launches := rfl
@[simp] theorem hold_colls (w : Wait) (s : State) : (hold w s).colls = s.colls := rfl
@[simp] theorem hold_host (w : Wait) (s : State) : (hold w s).host = s.host := rfl
@[simp] theorem hold_fab (w : Wait) (s : State) : (hold w s).fab = s.fab := rfl
@[simp] theorem hold_ras (w : Wait) (s : State) : (hold w s).ras = s.ras := rfl
@[simp] theorem hold_sched (w : Wait) (s : State) : (hold w s).sched = s.sched := rfl

/-! ## clearPrefix -/

@[simp] theorem clearPrefix_coreid (s : State) : (clearPrefix s).coreid = s.coreid := rfl
@[simp] theorem clearPrefix_user (s : State) : (clearPrefix s).user = s.user := rfl
@[simp] theorem clearPrefix_act (s : State) : (clearPrefix s).act = s.act := rfl
@[simp] theorem clearPrefix_sup (s : State) : (clearPrefix s).sup = s.sup := rfl
@[simp] theorem clearPrefix_mach (s : State) : (clearPrefix s).mach = s.mach := rfl
@[simp] theorem clearPrefix_off (s : State) : (clearPrefix s).off = s.off := rfl
@[simp] theorem clearPrefix_arr (s : State) : (clearPrefix s).arr = s.arr := rfl
@[simp] theorem clearPrefix_mem (s : State) : (clearPrefix s).mem = s.mem := rfl
@[simp] theorem clearPrefix_stn (s : State) : (clearPrefix s).stn = s.stn := rfl
@[simp] theorem clearPrefix_ctr (s : State) : (clearPrefix s).ctr = s.ctr := rfl
@[simp] theorem clearPrefix_actors (s : State) : (clearPrefix s).actors = s.actors := rfl
@[simp] theorem clearPrefix_transfers (s : State) : (clearPrefix s).transfers = s.transfers := rfl
@[simp] theorem clearPrefix_launches (s : State) : (clearPrefix s).launches = s.launches := rfl
@[simp] theorem clearPrefix_colls (s : State) : (clearPrefix s).colls = s.colls := rfl
@[simp] theorem clearPrefix_host (s : State) : (clearPrefix s).host = s.host := rfl
@[simp] theorem clearPrefix_fab (s : State) : (clearPrefix s).fab = s.fab := rfl
@[simp] theorem clearPrefix_ras (s : State) : (clearPrefix s).ras = s.ras := rfl
@[simp] theorem clearPrefix_sched (s : State) : (clearPrefix s).sched = s.sched := rfl

/-! ## putX -/

@[simp] theorem putX_coreid (n : Nat) (r : XReg) (s : State) : (putX n r s).coreid = s.coreid := by unfold putX; split <;> rfl
@[simp] theorem putX_user (n : Nat) (r : XReg) (s : State) : (putX n r s).user = s.user := by unfold putX; split <;> rfl
@[simp] theorem putX_act (n : Nat) (r : XReg) (s : State) : (putX n r s).act = s.act := by unfold putX; split <;> rfl
@[simp] theorem putX_sup (n : Nat) (r : XReg) (s : State) : (putX n r s).sup = s.sup := by unfold putX; split <;> rfl
@[simp] theorem putX_mach (n : Nat) (r : XReg) (s : State) : (putX n r s).mach = s.mach := by unfold putX; split <;> rfl
@[simp] theorem putX_off (n : Nat) (r : XReg) (s : State) : (putX n r s).off = s.off := by unfold putX; split <;> rfl
@[simp] theorem putX_arr (n : Nat) (r : XReg) (s : State) : (putX n r s).arr = s.arr := by unfold putX; split <;> rfl
@[simp] theorem putX_mem (n : Nat) (r : XReg) (s : State) : (putX n r s).mem = s.mem := by unfold putX; split <;> rfl
@[simp] theorem putX_stn (n : Nat) (r : XReg) (s : State) : (putX n r s).stn = s.stn := by unfold putX; split <;> rfl
@[simp] theorem putX_ctr (n : Nat) (r : XReg) (s : State) : (putX n r s).ctr = s.ctr := by unfold putX; split <;> rfl
@[simp] theorem putX_actors (n : Nat) (r : XReg) (s : State) : (putX n r s).actors = s.actors := by unfold putX; split <;> rfl
@[simp] theorem putX_transfers (n : Nat) (r : XReg) (s : State) : (putX n r s).transfers = s.transfers := by unfold putX; split <;> rfl
@[simp] theorem putX_launches (n : Nat) (r : XReg) (s : State) : (putX n r s).launches = s.launches := by unfold putX; split <;> rfl
@[simp] theorem putX_colls (n : Nat) (r : XReg) (s : State) : (putX n r s).colls = s.colls := by unfold putX; split <;> rfl
@[simp] theorem putX_host (n : Nat) (r : XReg) (s : State) : (putX n r s).host = s.host := by unfold putX; split <;> rfl
@[simp] theorem putX_fab (n : Nat) (r : XReg) (s : State) : (putX n r s).fab = s.fab := by unfold putX; split <;> rfl
@[simp] theorem putX_ras (n : Nat) (r : XReg) (s : State) : (putX n r s).ras = s.ras := by unfold putX; split <;> rfl
@[simp] theorem putX_sched (n : Nat) (r : XReg) (s : State) : (putX n r s).sched = s.sched := by unfold putX; split <;> rfl

/-! ## putV -/

@[simp] theorem putV_coreid (n : Nat) (r : VReg) (s : State) : (putV n r s).coreid = s.coreid := rfl
@[simp] theorem putV_user (n : Nat) (r : VReg) (s : State) : (putV n r s).user = s.user := rfl
@[simp] theorem putV_act (n : Nat) (r : VReg) (s : State) : (putV n r s).act = s.act := rfl
@[simp] theorem putV_sup (n : Nat) (r : VReg) (s : State) : (putV n r s).sup = s.sup := rfl
@[simp] theorem putV_mach (n : Nat) (r : VReg) (s : State) : (putV n r s).mach = s.mach := rfl
@[simp] theorem putV_off (n : Nat) (r : VReg) (s : State) : (putV n r s).off = s.off := rfl
@[simp] theorem putV_arr (n : Nat) (r : VReg) (s : State) : (putV n r s).arr = s.arr := rfl
@[simp] theorem putV_mem (n : Nat) (r : VReg) (s : State) : (putV n r s).mem = s.mem := rfl
@[simp] theorem putV_stn (n : Nat) (r : VReg) (s : State) : (putV n r s).stn = s.stn := rfl
@[simp] theorem putV_ctr (n : Nat) (r : VReg) (s : State) : (putV n r s).ctr = s.ctr := rfl
@[simp] theorem putV_actors (n : Nat) (r : VReg) (s : State) : (putV n r s).actors = s.actors := rfl
@[simp] theorem putV_transfers (n : Nat) (r : VReg) (s : State) : (putV n r s).transfers = s.transfers := rfl
@[simp] theorem putV_launches (n : Nat) (r : VReg) (s : State) : (putV n r s).launches = s.launches := rfl
@[simp] theorem putV_colls (n : Nat) (r : VReg) (s : State) : (putV n r s).colls = s.colls := rfl
@[simp] theorem putV_host (n : Nat) (r : VReg) (s : State) : (putV n r s).host = s.host := rfl
@[simp] theorem putV_fab (n : Nat) (r : VReg) (s : State) : (putV n r s).fab = s.fab := rfl
@[simp] theorem putV_ras (n : Nat) (r : VReg) (s : State) : (putV n r s).ras = s.ras := rfl
@[simp] theorem putV_sched (n : Nat) (r : VReg) (s : State) : (putV n r s).sched = s.sched := rfl

/-! ## putM -/

@[simp] theorem putM_coreid (n : Nat) (r : MReg) (s : State) : (putM n r s).coreid = s.coreid := rfl
@[simp] theorem putM_user (n : Nat) (r : MReg) (s : State) : (putM n r s).user = s.user := rfl
@[simp] theorem putM_act (n : Nat) (r : MReg) (s : State) : (putM n r s).act = s.act := rfl
@[simp] theorem putM_sup (n : Nat) (r : MReg) (s : State) : (putM n r s).sup = s.sup := rfl
@[simp] theorem putM_mach (n : Nat) (r : MReg) (s : State) : (putM n r s).mach = s.mach := rfl
@[simp] theorem putM_off (n : Nat) (r : MReg) (s : State) : (putM n r s).off = s.off := rfl
@[simp] theorem putM_arr (n : Nat) (r : MReg) (s : State) : (putM n r s).arr = s.arr := rfl
@[simp] theorem putM_mem (n : Nat) (r : MReg) (s : State) : (putM n r s).mem = s.mem := rfl
@[simp] theorem putM_stn (n : Nat) (r : MReg) (s : State) : (putM n r s).stn = s.stn := rfl
@[simp] theorem putM_ctr (n : Nat) (r : MReg) (s : State) : (putM n r s).ctr = s.ctr := rfl
@[simp] theorem putM_actors (n : Nat) (r : MReg) (s : State) : (putM n r s).actors = s.actors := rfl
@[simp] theorem putM_transfers (n : Nat) (r : MReg) (s : State) : (putM n r s).transfers = s.transfers := rfl
@[simp] theorem putM_launches (n : Nat) (r : MReg) (s : State) : (putM n r s).launches = s.launches := rfl
@[simp] theorem putM_colls (n : Nat) (r : MReg) (s : State) : (putM n r s).colls = s.colls := rfl
@[simp] theorem putM_host (n : Nat) (r : MReg) (s : State) : (putM n r s).host = s.host := rfl
@[simp] theorem putM_fab (n : Nat) (r : MReg) (s : State) : (putM n r s).fab = s.fab := rfl
@[simp] theorem putM_ras (n : Nat) (r : MReg) (s : State) : (putM n r s).ras = s.ras := rfl
@[simp] theorem putM_sched (n : Nat) (r : MReg) (s : State) : (putM n r s).sched = s.sched := rfl

/-! ## writeX -/

@[simp] theorem writeX_coreid (n : Nat) (v : Word) (s : State) : (writeX n v s).coreid = s.coreid := putX_coreid _ _ _
@[simp] theorem writeX_user (n : Nat) (v : Word) (s : State) : (writeX n v s).user = s.user := putX_user _ _ _
@[simp] theorem writeX_act (n : Nat) (v : Word) (s : State) : (writeX n v s).act = s.act := putX_act _ _ _
@[simp] theorem writeX_sup (n : Nat) (v : Word) (s : State) : (writeX n v s).sup = s.sup := putX_sup _ _ _
@[simp] theorem writeX_mach (n : Nat) (v : Word) (s : State) : (writeX n v s).mach = s.mach := putX_mach _ _ _
@[simp] theorem writeX_off (n : Nat) (v : Word) (s : State) : (writeX n v s).off = s.off := putX_off _ _ _
@[simp] theorem writeX_arr (n : Nat) (v : Word) (s : State) : (writeX n v s).arr = s.arr := putX_arr _ _ _
@[simp] theorem writeX_mem (n : Nat) (v : Word) (s : State) : (writeX n v s).mem = s.mem := putX_mem _ _ _
@[simp] theorem writeX_stn (n : Nat) (v : Word) (s : State) : (writeX n v s).stn = s.stn := putX_stn _ _ _
@[simp] theorem writeX_ctr (n : Nat) (v : Word) (s : State) : (writeX n v s).ctr = s.ctr := putX_ctr _ _ _
@[simp] theorem writeX_actors (n : Nat) (v : Word) (s : State) : (writeX n v s).actors = s.actors := putX_actors _ _ _
@[simp] theorem writeX_transfers (n : Nat) (v : Word) (s : State) : (writeX n v s).transfers = s.transfers := putX_transfers _ _ _
@[simp] theorem writeX_launches (n : Nat) (v : Word) (s : State) : (writeX n v s).launches = s.launches := putX_launches _ _ _
@[simp] theorem writeX_colls (n : Nat) (v : Word) (s : State) : (writeX n v s).colls = s.colls := putX_colls _ _ _
@[simp] theorem writeX_host (n : Nat) (v : Word) (s : State) : (writeX n v s).host = s.host := putX_host _ _ _
@[simp] theorem writeX_fab (n : Nat) (v : Word) (s : State) : (writeX n v s).fab = s.fab := putX_fab _ _ _
@[simp] theorem writeX_ras (n : Nat) (v : Word) (s : State) : (writeX n v s).ras = s.ras := putX_ras _ _ _
@[simp] theorem writeX_sched (n : Nat) (v : Word) (s : State) : (writeX n v s).sched = s.sched := putX_sched _ _ _

/-! ## setX -/

@[simp] theorem setX_coreid (r : RegIdx) (v : Word) (s : State) : (setX r v s).coreid = s.coreid := writeX_coreid _ _ _
@[simp] theorem setX_user (r : RegIdx) (v : Word) (s : State) : (setX r v s).user = s.user := writeX_user _ _ _
@[simp] theorem setX_act (r : RegIdx) (v : Word) (s : State) : (setX r v s).act = s.act := writeX_act _ _ _
@[simp] theorem setX_sup (r : RegIdx) (v : Word) (s : State) : (setX r v s).sup = s.sup := writeX_sup _ _ _
@[simp] theorem setX_mach (r : RegIdx) (v : Word) (s : State) : (setX r v s).mach = s.mach := writeX_mach _ _ _
@[simp] theorem setX_off (r : RegIdx) (v : Word) (s : State) : (setX r v s).off = s.off := writeX_off _ _ _
@[simp] theorem setX_arr (r : RegIdx) (v : Word) (s : State) : (setX r v s).arr = s.arr := writeX_arr _ _ _
@[simp] theorem setX_mem (r : RegIdx) (v : Word) (s : State) : (setX r v s).mem = s.mem := writeX_mem _ _ _
@[simp] theorem setX_stn (r : RegIdx) (v : Word) (s : State) : (setX r v s).stn = s.stn := writeX_stn _ _ _
@[simp] theorem setX_ctr (r : RegIdx) (v : Word) (s : State) : (setX r v s).ctr = s.ctr := writeX_ctr _ _ _
@[simp] theorem setX_actors (r : RegIdx) (v : Word) (s : State) : (setX r v s).actors = s.actors := writeX_actors _ _ _
@[simp] theorem setX_transfers (r : RegIdx) (v : Word) (s : State) : (setX r v s).transfers = s.transfers := writeX_transfers _ _ _
@[simp] theorem setX_launches (r : RegIdx) (v : Word) (s : State) : (setX r v s).launches = s.launches := writeX_launches _ _ _
@[simp] theorem setX_colls (r : RegIdx) (v : Word) (s : State) : (setX r v s).colls = s.colls := writeX_colls _ _ _
@[simp] theorem setX_host (r : RegIdx) (v : Word) (s : State) : (setX r v s).host = s.host := writeX_host _ _ _
@[simp] theorem setX_fab (r : RegIdx) (v : Word) (s : State) : (setX r v s).fab = s.fab := writeX_fab _ _ _
@[simp] theorem setX_ras (r : RegIdx) (v : Word) (s : State) : (setX r v s).ras = s.ras := writeX_ras _ _ _
@[simp] theorem setX_sched (r : RegIdx) (v : Word) (s : State) : (setX r v s).sched = s.sched := writeX_sched _ _ _

/-! ## writeV -/

@[simp] theorem writeV_coreid (n : Nat) (v : BitVec 512) (s : State) : (writeV n v s).coreid = s.coreid := rfl
@[simp] theorem writeV_user (n : Nat) (v : BitVec 512) (s : State) : (writeV n v s).user = s.user := rfl
@[simp] theorem writeV_act (n : Nat) (v : BitVec 512) (s : State) : (writeV n v s).act = s.act := rfl
@[simp] theorem writeV_sup (n : Nat) (v : BitVec 512) (s : State) : (writeV n v s).sup = s.sup := rfl
@[simp] theorem writeV_mach (n : Nat) (v : BitVec 512) (s : State) : (writeV n v s).mach = s.mach := rfl
@[simp] theorem writeV_off (n : Nat) (v : BitVec 512) (s : State) : (writeV n v s).off = s.off := rfl
@[simp] theorem writeV_arr (n : Nat) (v : BitVec 512) (s : State) : (writeV n v s).arr = s.arr := rfl
@[simp] theorem writeV_mem (n : Nat) (v : BitVec 512) (s : State) : (writeV n v s).mem = s.mem := rfl
@[simp] theorem writeV_stn (n : Nat) (v : BitVec 512) (s : State) : (writeV n v s).stn = s.stn := rfl
@[simp] theorem writeV_ctr (n : Nat) (v : BitVec 512) (s : State) : (writeV n v s).ctr = s.ctr := rfl
@[simp] theorem writeV_actors (n : Nat) (v : BitVec 512) (s : State) : (writeV n v s).actors = s.actors := rfl
@[simp] theorem writeV_transfers (n : Nat) (v : BitVec 512) (s : State) : (writeV n v s).transfers = s.transfers := rfl
@[simp] theorem writeV_launches (n : Nat) (v : BitVec 512) (s : State) : (writeV n v s).launches = s.launches := rfl
@[simp] theorem writeV_colls (n : Nat) (v : BitVec 512) (s : State) : (writeV n v s).colls = s.colls := rfl
@[simp] theorem writeV_host (n : Nat) (v : BitVec 512) (s : State) : (writeV n v s).host = s.host := rfl
@[simp] theorem writeV_fab (n : Nat) (v : BitVec 512) (s : State) : (writeV n v s).fab = s.fab := rfl
@[simp] theorem writeV_ras (n : Nat) (v : BitVec 512) (s : State) : (writeV n v s).ras = s.ras := rfl
@[simp] theorem writeV_sched (n : Nat) (v : BitVec 512) (s : State) : (writeV n v s).sched = s.sched := rfl

/-! ## writeM -/

@[simp] theorem writeM_coreid (n : Nat) (v : BitVec 65536) (s : State) : (writeM n v s).coreid = s.coreid := rfl
@[simp] theorem writeM_user (n : Nat) (v : BitVec 65536) (s : State) : (writeM n v s).user = s.user := rfl
@[simp] theorem writeM_act (n : Nat) (v : BitVec 65536) (s : State) : (writeM n v s).act = s.act := rfl
@[simp] theorem writeM_sup (n : Nat) (v : BitVec 65536) (s : State) : (writeM n v s).sup = s.sup := rfl
@[simp] theorem writeM_mach (n : Nat) (v : BitVec 65536) (s : State) : (writeM n v s).mach = s.mach := rfl
@[simp] theorem writeM_off (n : Nat) (v : BitVec 65536) (s : State) : (writeM n v s).off = s.off := rfl
@[simp] theorem writeM_arr (n : Nat) (v : BitVec 65536) (s : State) : (writeM n v s).arr = s.arr := rfl
@[simp] theorem writeM_mem (n : Nat) (v : BitVec 65536) (s : State) : (writeM n v s).mem = s.mem := rfl
@[simp] theorem writeM_stn (n : Nat) (v : BitVec 65536) (s : State) : (writeM n v s).stn = s.stn := rfl
@[simp] theorem writeM_ctr (n : Nat) (v : BitVec 65536) (s : State) : (writeM n v s).ctr = s.ctr := rfl
@[simp] theorem writeM_actors (n : Nat) (v : BitVec 65536) (s : State) : (writeM n v s).actors = s.actors := rfl
@[simp] theorem writeM_transfers (n : Nat) (v : BitVec 65536) (s : State) : (writeM n v s).transfers = s.transfers := rfl
@[simp] theorem writeM_launches (n : Nat) (v : BitVec 65536) (s : State) : (writeM n v s).launches = s.launches := rfl
@[simp] theorem writeM_colls (n : Nat) (v : BitVec 65536) (s : State) : (writeM n v s).colls = s.colls := rfl
@[simp] theorem writeM_host (n : Nat) (v : BitVec 65536) (s : State) : (writeM n v s).host = s.host := rfl
@[simp] theorem writeM_fab (n : Nat) (v : BitVec 65536) (s : State) : (writeM n v s).fab = s.fab := rfl
@[simp] theorem writeM_ras (n : Nat) (v : BitVec 65536) (s : State) : (writeM n v s).ras = s.ras := rfl
@[simp] theorem writeM_sched (n : Nat) (v : BitVec 65536) (s : State) : (writeM n v s).sched = s.sched := rfl

/-! ## setRegState -/

@[simp] theorem setRegState_coreid (r : RegName) (st : RegState) (s : State) : (setRegState r st s).coreid = s.coreid := by cases r <;> simp [setRegState]
@[simp] theorem setRegState_user (r : RegName) (st : RegState) (s : State) : (setRegState r st s).user = s.user := by cases r <;> simp [setRegState]
@[simp] theorem setRegState_act (r : RegName) (st : RegState) (s : State) : (setRegState r st s).act = s.act := by cases r <;> simp [setRegState]
@[simp] theorem setRegState_sup (r : RegName) (st : RegState) (s : State) : (setRegState r st s).sup = s.sup := by cases r <;> simp [setRegState]
@[simp] theorem setRegState_mach (r : RegName) (st : RegState) (s : State) : (setRegState r st s).mach = s.mach := by cases r <;> simp [setRegState]
@[simp] theorem setRegState_off (r : RegName) (st : RegState) (s : State) : (setRegState r st s).off = s.off := by cases r <;> simp [setRegState]
@[simp] theorem setRegState_arr (r : RegName) (st : RegState) (s : State) : (setRegState r st s).arr = s.arr := by cases r <;> simp [setRegState]
@[simp] theorem setRegState_mem (r : RegName) (st : RegState) (s : State) : (setRegState r st s).mem = s.mem := by cases r <;> simp [setRegState]
@[simp] theorem setRegState_stn (r : RegName) (st : RegState) (s : State) : (setRegState r st s).stn = s.stn := by cases r <;> simp [setRegState]
@[simp] theorem setRegState_ctr (r : RegName) (st : RegState) (s : State) : (setRegState r st s).ctr = s.ctr := by cases r <;> simp [setRegState]
@[simp] theorem setRegState_actors (r : RegName) (st : RegState) (s : State) : (setRegState r st s).actors = s.actors := by cases r <;> simp [setRegState]
@[simp] theorem setRegState_transfers (r : RegName) (st : RegState) (s : State) : (setRegState r st s).transfers = s.transfers := by cases r <;> simp [setRegState]
@[simp] theorem setRegState_launches (r : RegName) (st : RegState) (s : State) : (setRegState r st s).launches = s.launches := by cases r <;> simp [setRegState]
@[simp] theorem setRegState_colls (r : RegName) (st : RegState) (s : State) : (setRegState r st s).colls = s.colls := by cases r <;> simp [setRegState]
@[simp] theorem setRegState_host (r : RegName) (st : RegState) (s : State) : (setRegState r st s).host = s.host := by cases r <;> simp [setRegState]
@[simp] theorem setRegState_fab (r : RegName) (st : RegState) (s : State) : (setRegState r st s).fab = s.fab := by cases r <;> simp [setRegState]
@[simp] theorem setRegState_ras (r : RegName) (st : RegState) (s : State) : (setRegState r st s).ras = s.ras := by cases r <;> simp [setRegState]
@[simp] theorem setRegState_sched (r : RegName) (st : RegState) (s : State) : (setRegState r st s).sched = s.sched := by cases r <;> simp [setRegState]

/-! ## goTo -/

@[simp] theorem goTo_coreid (t : Word) (s : State) : (goTo t s).coreid = s.coreid := rfl
@[simp] theorem goTo_user (t : Word) (s : State) : (goTo t s).user = s.user := rfl
@[simp] theorem goTo_act (t : Word) (s : State) : (goTo t s).act = s.act := rfl
@[simp] theorem goTo_sup (t : Word) (s : State) : (goTo t s).sup = s.sup := rfl
@[simp] theorem goTo_off (t : Word) (s : State) : (goTo t s).off = s.off := rfl
@[simp] theorem goTo_arr (t : Word) (s : State) : (goTo t s).arr = s.arr := rfl
@[simp] theorem goTo_mem (t : Word) (s : State) : (goTo t s).mem = s.mem := rfl
@[simp] theorem goTo_stn (t : Word) (s : State) : (goTo t s).stn = s.stn := rfl
@[simp] theorem goTo_ctr (t : Word) (s : State) : (goTo t s).ctr = s.ctr := rfl
@[simp] theorem goTo_actors (t : Word) (s : State) : (goTo t s).actors = s.actors := rfl
@[simp] theorem goTo_transfers (t : Word) (s : State) : (goTo t s).transfers = s.transfers := rfl
@[simp] theorem goTo_launches (t : Word) (s : State) : (goTo t s).launches = s.launches := rfl
@[simp] theorem goTo_colls (t : Word) (s : State) : (goTo t s).colls = s.colls := rfl
@[simp] theorem goTo_host (t : Word) (s : State) : (goTo t s).host = s.host := rfl
@[simp] theorem goTo_fab (t : Word) (s : State) : (goTo t s).fab = s.fab := rfl
@[simp] theorem goTo_ras (t : Word) (s : State) : (goTo t s).ras = s.ras := rfl
@[simp] theorem goTo_sched (t : Word) (s : State) : (goTo t s).sched = s.sched := rfl

/-! ## setPending -/

@[simp] theorem setPending_hart (n : Nat) (s : State) : (setPending n s).hart = s.hart := rfl
@[simp] theorem setPending_coreid (n : Nat) (s : State) : (setPending n s).coreid = s.coreid := rfl
@[simp] theorem setPending_user (n : Nat) (s : State) : (setPending n s).user = s.user := rfl
@[simp] theorem setPending_act (n : Nat) (s : State) : (setPending n s).act = s.act := rfl
@[simp] theorem setPending_sup (n : Nat) (s : State) : (setPending n s).sup = s.sup := rfl
@[simp] theorem setPending_off (n : Nat) (s : State) : (setPending n s).off = s.off := rfl
@[simp] theorem setPending_arr (n : Nat) (s : State) : (setPending n s).arr = s.arr := rfl
@[simp] theorem setPending_mem (n : Nat) (s : State) : (setPending n s).mem = s.mem := rfl
@[simp] theorem setPending_stn (n : Nat) (s : State) : (setPending n s).stn = s.stn := rfl
@[simp] theorem setPending_ctr (n : Nat) (s : State) : (setPending n s).ctr = s.ctr := rfl
@[simp] theorem setPending_actors (n : Nat) (s : State) : (setPending n s).actors = s.actors := rfl
@[simp] theorem setPending_transfers (n : Nat) (s : State) : (setPending n s).transfers = s.transfers := rfl
@[simp] theorem setPending_launches (n : Nat) (s : State) : (setPending n s).launches = s.launches := rfl
@[simp] theorem setPending_colls (n : Nat) (s : State) : (setPending n s).colls = s.colls := rfl
@[simp] theorem setPending_host (n : Nat) (s : State) : (setPending n s).host = s.host := rfl
@[simp] theorem setPending_fab (n : Nat) (s : State) : (setPending n s).fab = s.fab := rfl
@[simp] theorem setPending_ras (n : Nat) (s : State) : (setPending n s).ras = s.ras := rfl
@[simp] theorem setPending_sched (n : Nat) (s : State) : (setPending n s).sched = s.sched := rfl

/-! ## writeKey -/

@[simp] theorem writeKey_coreid (s : State) (key : Nat) (data : List Byte) : (writeKey s key data).coreid = s.coreid := rfl
@[simp] theorem writeKey_user (s : State) (key : Nat) (data : List Byte) : (writeKey s key data).user = s.user := rfl
@[simp] theorem writeKey_act (s : State) (key : Nat) (data : List Byte) : (writeKey s key data).act = s.act := rfl
@[simp] theorem writeKey_sup (s : State) (key : Nat) (data : List Byte) : (writeKey s key data).sup = s.sup := rfl
@[simp] theorem writeKey_mach (s : State) (key : Nat) (data : List Byte) : (writeKey s key data).mach = s.mach := rfl
@[simp] theorem writeKey_off (s : State) (key : Nat) (data : List Byte) : (writeKey s key data).off = s.off := rfl
@[simp] theorem writeKey_arr (s : State) (key : Nat) (data : List Byte) : (writeKey s key data).arr = s.arr := rfl
@[simp] theorem writeKey_stn (s : State) (key : Nat) (data : List Byte) : (writeKey s key data).stn = s.stn := rfl
@[simp] theorem writeKey_ctr (s : State) (key : Nat) (data : List Byte) : (writeKey s key data).ctr = s.ctr := rfl
@[simp] theorem writeKey_actors (s : State) (key : Nat) (data : List Byte) : (writeKey s key data).actors = s.actors := rfl
@[simp] theorem writeKey_transfers (s : State) (key : Nat) (data : List Byte) : (writeKey s key data).transfers = s.transfers := rfl
@[simp] theorem writeKey_launches (s : State) (key : Nat) (data : List Byte) : (writeKey s key data).launches = s.launches := rfl
@[simp] theorem writeKey_colls (s : State) (key : Nat) (data : List Byte) : (writeKey s key data).colls = s.colls := rfl
@[simp] theorem writeKey_host (s : State) (key : Nat) (data : List Byte) : (writeKey s key data).host = s.host := rfl
@[simp] theorem writeKey_fab (s : State) (key : Nat) (data : List Byte) : (writeKey s key data).fab = s.fab := rfl
@[simp] theorem writeKey_sched (s : State) (key : Nat) (data : List Byte) : (writeKey s key data).sched = s.sched := rfl

/-! ## updateJob -/

@[simp] theorem updateJob_hart (id : Nat) (f : Job → Job) (s : State) : (updateJob id f s).hart = s.hart := rfl
@[simp] theorem updateJob_coreid (id : Nat) (f : Job → Job) (s : State) : (updateJob id f s).coreid = s.coreid := rfl
@[simp] theorem updateJob_user (id : Nat) (f : Job → Job) (s : State) : (updateJob id f s).user = s.user := rfl
@[simp] theorem updateJob_act (id : Nat) (f : Job → Job) (s : State) : (updateJob id f s).act = s.act := rfl
@[simp] theorem updateJob_sup (id : Nat) (f : Job → Job) (s : State) : (updateJob id f s).sup = s.sup := rfl
@[simp] theorem updateJob_mach (id : Nat) (f : Job → Job) (s : State) : (updateJob id f s).mach = s.mach := rfl
@[simp] theorem updateJob_arr (id : Nat) (f : Job → Job) (s : State) : (updateJob id f s).arr = s.arr := rfl
@[simp] theorem updateJob_mem (id : Nat) (f : Job → Job) (s : State) : (updateJob id f s).mem = s.mem := rfl
@[simp] theorem updateJob_stn (id : Nat) (f : Job → Job) (s : State) : (updateJob id f s).stn = s.stn := rfl
@[simp] theorem updateJob_ctr (id : Nat) (f : Job → Job) (s : State) : (updateJob id f s).ctr = s.ctr := rfl
@[simp] theorem updateJob_actors (id : Nat) (f : Job → Job) (s : State) : (updateJob id f s).actors = s.actors := rfl
@[simp] theorem updateJob_transfers (id : Nat) (f : Job → Job) (s : State) : (updateJob id f s).transfers = s.transfers := rfl
@[simp] theorem updateJob_launches (id : Nat) (f : Job → Job) (s : State) : (updateJob id f s).launches = s.launches := rfl
@[simp] theorem updateJob_colls (id : Nat) (f : Job → Job) (s : State) : (updateJob id f s).colls = s.colls := rfl
@[simp] theorem updateJob_host (id : Nat) (f : Job → Job) (s : State) : (updateJob id f s).host = s.host := rfl
@[simp] theorem updateJob_fab (id : Nat) (f : Job → Job) (s : State) : (updateJob id f s).fab = s.fab := rfl
@[simp] theorem updateJob_ras (id : Nat) (f : Job → Job) (s : State) : (updateJob id f s).ras = s.ras := rfl
@[simp] theorem updateJob_sched (id : Nat) (f : Job → Job) (s : State) : (updateJob id f s).sched = s.sched := rfl

/-! ## dropJob -/

@[simp] theorem dropJob_hart (id : Nat) (s : State) : (dropJob id s).hart = s.hart := rfl
@[simp] theorem dropJob_coreid (id : Nat) (s : State) : (dropJob id s).coreid = s.coreid := rfl
@[simp] theorem dropJob_user (id : Nat) (s : State) : (dropJob id s).user = s.user := rfl
@[simp] theorem dropJob_act (id : Nat) (s : State) : (dropJob id s).act = s.act := rfl
@[simp] theorem dropJob_sup (id : Nat) (s : State) : (dropJob id s).sup = s.sup := rfl
@[simp] theorem dropJob_mach (id : Nat) (s : State) : (dropJob id s).mach = s.mach := rfl
@[simp] theorem dropJob_arr (id : Nat) (s : State) : (dropJob id s).arr = s.arr := rfl
@[simp] theorem dropJob_mem (id : Nat) (s : State) : (dropJob id s).mem = s.mem := rfl
@[simp] theorem dropJob_stn (id : Nat) (s : State) : (dropJob id s).stn = s.stn := rfl
@[simp] theorem dropJob_ctr (id : Nat) (s : State) : (dropJob id s).ctr = s.ctr := rfl
@[simp] theorem dropJob_actors (id : Nat) (s : State) : (dropJob id s).actors = s.actors := rfl
@[simp] theorem dropJob_transfers (id : Nat) (s : State) : (dropJob id s).transfers = s.transfers := rfl
@[simp] theorem dropJob_launches (id : Nat) (s : State) : (dropJob id s).launches = s.launches := rfl
@[simp] theorem dropJob_colls (id : Nat) (s : State) : (dropJob id s).colls = s.colls := rfl
@[simp] theorem dropJob_host (id : Nat) (s : State) : (dropJob id s).host = s.host := rfl
@[simp] theorem dropJob_fab (id : Nat) (s : State) : (dropJob id s).fab = s.fab := rfl
@[simp] theorem dropJob_ras (id : Nat) (s : State) : (dropJob id s).ras = s.ras := rfl
@[simp] theorem dropJob_sched (id : Nat) (s : State) : (dropJob id s).sched = s.sched := rfl

/-! ## invalidateStrand -/

@[simp] theorem invalidateStrand_hart (s : State) : (invalidateStrand s).hart = s.hart := rfl
@[simp] theorem invalidateStrand_coreid (s : State) : (invalidateStrand s).coreid = s.coreid := rfl
@[simp] theorem invalidateStrand_user (s : State) : (invalidateStrand s).user = s.user := rfl
@[simp] theorem invalidateStrand_act (s : State) : (invalidateStrand s).act = s.act := rfl
@[simp] theorem invalidateStrand_sup (s : State) : (invalidateStrand s).sup = s.sup := rfl
@[simp] theorem invalidateStrand_mach (s : State) : (invalidateStrand s).mach = s.mach := rfl
@[simp] theorem invalidateStrand_arr (s : State) : (invalidateStrand s).arr = s.arr := rfl
@[simp] theorem invalidateStrand_mem (s : State) : (invalidateStrand s).mem = s.mem := rfl
@[simp] theorem invalidateStrand_ctr (s : State) : (invalidateStrand s).ctr = s.ctr := rfl
@[simp] theorem invalidateStrand_actors (s : State) : (invalidateStrand s).actors = s.actors := rfl
@[simp] theorem invalidateStrand_transfers (s : State) : (invalidateStrand s).transfers = s.transfers := rfl
@[simp] theorem invalidateStrand_launches (s : State) : (invalidateStrand s).launches = s.launches := rfl
@[simp] theorem invalidateStrand_colls (s : State) : (invalidateStrand s).colls = s.colls := rfl
@[simp] theorem invalidateStrand_host (s : State) : (invalidateStrand s).host = s.host := rfl
@[simp] theorem invalidateStrand_fab (s : State) : (invalidateStrand s).fab = s.fab := rfl
@[simp] theorem invalidateStrand_ras (s : State) : (invalidateStrand s).ras = s.ras := rfl
@[simp] theorem invalidateStrand_sched (s : State) : (invalidateStrand s).sched = s.sched := rfl

/-! ## setActor -/

@[simp] theorem setActor_hart (ix : Nat) (a : Actor) (s : State) : (setActor ix a s).hart = s.hart := rfl
@[simp] theorem setActor_coreid (ix : Nat) (a : Actor) (s : State) : (setActor ix a s).coreid = s.coreid := rfl
@[simp] theorem setActor_user (ix : Nat) (a : Actor) (s : State) : (setActor ix a s).user = s.user := rfl
@[simp] theorem setActor_act (ix : Nat) (a : Actor) (s : State) : (setActor ix a s).act = s.act := rfl
@[simp] theorem setActor_sup (ix : Nat) (a : Actor) (s : State) : (setActor ix a s).sup = s.sup := rfl
@[simp] theorem setActor_mach (ix : Nat) (a : Actor) (s : State) : (setActor ix a s).mach = s.mach := rfl
@[simp] theorem setActor_off (ix : Nat) (a : Actor) (s : State) : (setActor ix a s).off = s.off := rfl
@[simp] theorem setActor_arr (ix : Nat) (a : Actor) (s : State) : (setActor ix a s).arr = s.arr := rfl
@[simp] theorem setActor_mem (ix : Nat) (a : Actor) (s : State) : (setActor ix a s).mem = s.mem := rfl
@[simp] theorem setActor_stn (ix : Nat) (a : Actor) (s : State) : (setActor ix a s).stn = s.stn := rfl
@[simp] theorem setActor_ctr (ix : Nat) (a : Actor) (s : State) : (setActor ix a s).ctr = s.ctr := rfl
@[simp] theorem setActor_transfers (ix : Nat) (a : Actor) (s : State) : (setActor ix a s).transfers = s.transfers := rfl
@[simp] theorem setActor_launches (ix : Nat) (a : Actor) (s : State) : (setActor ix a s).launches = s.launches := rfl
@[simp] theorem setActor_colls (ix : Nat) (a : Actor) (s : State) : (setActor ix a s).colls = s.colls := rfl
@[simp] theorem setActor_host (ix : Nat) (a : Actor) (s : State) : (setActor ix a s).host = s.host := rfl
@[simp] theorem setActor_fab (ix : Nat) (a : Actor) (s : State) : (setActor ix a s).fab = s.fab := rfl
@[simp] theorem setActor_ras (ix : Nat) (a : Actor) (s : State) : (setActor ix a s).ras = s.ras := rfl
@[simp] theorem setActor_sched (ix : Nat) (a : Actor) (s : State) : (setActor ix a s).sched = s.sched := rfl

/-! ## updateActor -/

@[simp] theorem updateActor_hart (ix : Nat) (f : Actor → Actor) (s : State) : (updateActor ix f s).hart = s.hart := rfl
@[simp] theorem updateActor_coreid (ix : Nat) (f : Actor → Actor) (s : State) : (updateActor ix f s).coreid = s.coreid := rfl
@[simp] theorem updateActor_user (ix : Nat) (f : Actor → Actor) (s : State) : (updateActor ix f s).user = s.user := rfl
@[simp] theorem updateActor_act (ix : Nat) (f : Actor → Actor) (s : State) : (updateActor ix f s).act = s.act := rfl
@[simp] theorem updateActor_sup (ix : Nat) (f : Actor → Actor) (s : State) : (updateActor ix f s).sup = s.sup := rfl
@[simp] theorem updateActor_mach (ix : Nat) (f : Actor → Actor) (s : State) : (updateActor ix f s).mach = s.mach := rfl
@[simp] theorem updateActor_off (ix : Nat) (f : Actor → Actor) (s : State) : (updateActor ix f s).off = s.off := rfl
@[simp] theorem updateActor_arr (ix : Nat) (f : Actor → Actor) (s : State) : (updateActor ix f s).arr = s.arr := rfl
@[simp] theorem updateActor_mem (ix : Nat) (f : Actor → Actor) (s : State) : (updateActor ix f s).mem = s.mem := rfl
@[simp] theorem updateActor_stn (ix : Nat) (f : Actor → Actor) (s : State) : (updateActor ix f s).stn = s.stn := rfl
@[simp] theorem updateActor_ctr (ix : Nat) (f : Actor → Actor) (s : State) : (updateActor ix f s).ctr = s.ctr := rfl
@[simp] theorem updateActor_transfers (ix : Nat) (f : Actor → Actor) (s : State) : (updateActor ix f s).transfers = s.transfers := rfl
@[simp] theorem updateActor_launches (ix : Nat) (f : Actor → Actor) (s : State) : (updateActor ix f s).launches = s.launches := rfl
@[simp] theorem updateActor_colls (ix : Nat) (f : Actor → Actor) (s : State) : (updateActor ix f s).colls = s.colls := rfl
@[simp] theorem updateActor_host (ix : Nat) (f : Actor → Actor) (s : State) : (updateActor ix f s).host = s.host := rfl
@[simp] theorem updateActor_fab (ix : Nat) (f : Actor → Actor) (s : State) : (updateActor ix f s).fab = s.fab := rfl
@[simp] theorem updateActor_ras (ix : Nat) (f : Actor → Actor) (s : State) : (updateActor ix f s).ras = s.ras := rfl
@[simp] theorem updateActor_sched (ix : Nat) (f : Actor → Actor) (s : State) : (updateActor ix f s).sched = s.sched := rfl

/-! ## setLease -/

@[simp] theorem setLease_hart (m : Nat) (l : Lease) (s : State) : (setLease m l s).hart = s.hart := rfl
@[simp] theorem setLease_coreid (m : Nat) (l : Lease) (s : State) : (setLease m l s).coreid = s.coreid := rfl
@[simp] theorem setLease_user (m : Nat) (l : Lease) (s : State) : (setLease m l s).user = s.user := rfl
@[simp] theorem setLease_act (m : Nat) (l : Lease) (s : State) : (setLease m l s).act = s.act := rfl
@[simp] theorem setLease_sup (m : Nat) (l : Lease) (s : State) : (setLease m l s).sup = s.sup := rfl
@[simp] theorem setLease_mach (m : Nat) (l : Lease) (s : State) : (setLease m l s).mach = s.mach := rfl
@[simp] theorem setLease_off (m : Nat) (l : Lease) (s : State) : (setLease m l s).off = s.off := rfl
@[simp] theorem setLease_mem (m : Nat) (l : Lease) (s : State) : (setLease m l s).mem = s.mem := rfl
@[simp] theorem setLease_stn (m : Nat) (l : Lease) (s : State) : (setLease m l s).stn = s.stn := rfl
@[simp] theorem setLease_ctr (m : Nat) (l : Lease) (s : State) : (setLease m l s).ctr = s.ctr := rfl
@[simp] theorem setLease_actors (m : Nat) (l : Lease) (s : State) : (setLease m l s).actors = s.actors := rfl
@[simp] theorem setLease_transfers (m : Nat) (l : Lease) (s : State) : (setLease m l s).transfers = s.transfers := rfl
@[simp] theorem setLease_launches (m : Nat) (l : Lease) (s : State) : (setLease m l s).launches = s.launches := rfl
@[simp] theorem setLease_colls (m : Nat) (l : Lease) (s : State) : (setLease m l s).colls = s.colls := rfl
@[simp] theorem setLease_host (m : Nat) (l : Lease) (s : State) : (setLease m l s).host = s.host := rfl
@[simp] theorem setLease_fab (m : Nat) (l : Lease) (s : State) : (setLease m l s).fab = s.fab := rfl
@[simp] theorem setLease_ras (m : Nat) (l : Lease) (s : State) : (setLease m l s).ras = s.ras := rfl
@[simp] theorem setLease_sched (m : Nat) (l : Lease) (s : State) : (setLease m l s).sched = s.sched := rfl

/-! ## The hart under hold -/

@[simp] theorem hold_hart_x (w : Wait) (s : State) : (hold w s).hart.x = s.hart.x := rfl
@[simp] theorem hold_hart_v (w : Wait) (s : State) : (hold w s).hart.v = s.hart.v := rfl
@[simp] theorem hold_hart_m (w : Wait) (s : State) : (hold w s).hart.m = s.hart.m := rfl
@[simp] theorem hold_hart_pc (w : Wait) (s : State) : (hold w s).hart.pc = s.hart.pc := rfl
@[simp] theorem hold_hart_priv (w : Wait) (s : State) : (hold w s).hart.priv = s.hart.priv := rfl
@[simp] theorem hold_hart_disp (w : Wait) (s : State) : (hold w s).hart.disp = s.hart.disp := rfl
@[simp] theorem hold_hart_answer (w : Wait) (s : State) : (hold w s).hart.answer = s.hart.answer := rfl
@[simp] theorem hold_hart_storesDone (w : Wait) (s : State) : (hold w s).hart.storesDone = s.hart.storesDone := rfl
@[simp] theorem hold_hart_again (w : Wait) (s : State) : (hold w s).hart.again = s.hart.again := rfl
@[simp] theorem hold_hart_x0 (w : Wait) (s : State) : (hold w s).hart.x0 = s.hart.x0 := rfl
@[simp] theorem hold_hart_pend (w : Wait) (s : State) : (hold w s).hart.pend = s.hart.pend := rfl
@[simp] theorem hold_hart_loop0 (w : Wait) (s : State) : (hold w s).hart.loop0 = s.hart.loop0 := rfl
@[simp] theorem hold_hart_loop1 (w : Wait) (s : State) : (hold w s).hart.loop1 = s.hart.loop1 := rfl
@[simp] theorem hold_hart_resv (w : Wait) (s : State) : (hold w s).hart.resv = s.hart.resv := rfl
@[simp] theorem hold_hart_saved (w : Wait) (s : State) : (hold w s).hart.saved = s.hart.saved := rfl
@[simp] theorem hold_hart_desc (w : Wait) (s : State) : (hold w s).hart.desc = s.hart.desc := rfl

/-! ## The hart under clearPrefix -/

@[simp] theorem clearPrefix_hart_x (s : State) : (clearPrefix s).hart.x = s.hart.x := rfl
@[simp] theorem clearPrefix_hart_v (s : State) : (clearPrefix s).hart.v = s.hart.v := rfl
@[simp] theorem clearPrefix_hart_m (s : State) : (clearPrefix s).hart.m = s.hart.m := rfl
@[simp] theorem clearPrefix_hart_pc (s : State) : (clearPrefix s).hart.pc = s.hart.pc := rfl
@[simp] theorem clearPrefix_hart_priv (s : State) : (clearPrefix s).hart.priv = s.hart.priv := rfl
@[simp] theorem clearPrefix_hart_disp (s : State) : (clearPrefix s).hart.disp = s.hart.disp := rfl
@[simp] theorem clearPrefix_hart_wait (s : State) : (clearPrefix s).hart.wait = s.hart.wait := rfl
@[simp] theorem clearPrefix_hart_answer (s : State) : (clearPrefix s).hart.answer = s.hart.answer := rfl
@[simp] theorem clearPrefix_hart_storesDone (s : State) : (clearPrefix s).hart.storesDone = s.hart.storesDone := rfl
@[simp] theorem clearPrefix_hart_again (s : State) : (clearPrefix s).hart.again = s.hart.again := rfl
@[simp] theorem clearPrefix_hart_x0 (s : State) : (clearPrefix s).hart.x0 = s.hart.x0 := rfl
@[simp] theorem clearPrefix_hart_loop0 (s : State) : (clearPrefix s).hart.loop0 = s.hart.loop0 := rfl
@[simp] theorem clearPrefix_hart_loop1 (s : State) : (clearPrefix s).hart.loop1 = s.hart.loop1 := rfl
@[simp] theorem clearPrefix_hart_resv (s : State) : (clearPrefix s).hart.resv = s.hart.resv := rfl
@[simp] theorem clearPrefix_hart_saved (s : State) : (clearPrefix s).hart.saved = s.hart.saved := rfl
@[simp] theorem clearPrefix_hart_desc (s : State) : (clearPrefix s).hart.desc = s.hart.desc := rfl

/-! ## The hart under putX -/

@[simp] theorem putX_hart_v (n : Nat) (r : XReg) (s : State) : (putX n r s).hart.v = s.hart.v := by unfold putX; split <;> rfl
@[simp] theorem putX_hart_m (n : Nat) (r : XReg) (s : State) : (putX n r s).hart.m = s.hart.m := by unfold putX; split <;> rfl
@[simp] theorem putX_hart_pc (n : Nat) (r : XReg) (s : State) : (putX n r s).hart.pc = s.hart.pc := by unfold putX; split <;> rfl
@[simp] theorem putX_hart_priv (n : Nat) (r : XReg) (s : State) : (putX n r s).hart.priv = s.hart.priv := by unfold putX; split <;> rfl
@[simp] theorem putX_hart_disp (n : Nat) (r : XReg) (s : State) : (putX n r s).hart.disp = s.hart.disp := by unfold putX; split <;> rfl
@[simp] theorem putX_hart_wait (n : Nat) (r : XReg) (s : State) : (putX n r s).hart.wait = s.hart.wait := by unfold putX; split <;> rfl
@[simp] theorem putX_hart_answer (n : Nat) (r : XReg) (s : State) : (putX n r s).hart.answer = s.hart.answer := by unfold putX; split <;> rfl
@[simp] theorem putX_hart_storesDone (n : Nat) (r : XReg) (s : State) : (putX n r s).hart.storesDone = s.hart.storesDone := by unfold putX; split <;> rfl
@[simp] theorem putX_hart_again (n : Nat) (r : XReg) (s : State) : (putX n r s).hart.again = s.hart.again := by unfold putX; split <;> rfl
@[simp] theorem putX_hart_x0 (n : Nat) (r : XReg) (s : State) : (putX n r s).hart.x0 = s.hart.x0 := by unfold putX; split <;> rfl
@[simp] theorem putX_hart_pend (n : Nat) (r : XReg) (s : State) : (putX n r s).hart.pend = s.hart.pend := by unfold putX; split <;> rfl
@[simp] theorem putX_hart_loop0 (n : Nat) (r : XReg) (s : State) : (putX n r s).hart.loop0 = s.hart.loop0 := by unfold putX; split <;> rfl
@[simp] theorem putX_hart_loop1 (n : Nat) (r : XReg) (s : State) : (putX n r s).hart.loop1 = s.hart.loop1 := by unfold putX; split <;> rfl
@[simp] theorem putX_hart_resv (n : Nat) (r : XReg) (s : State) : (putX n r s).hart.resv = s.hart.resv := by unfold putX; split <;> rfl
@[simp] theorem putX_hart_saved (n : Nat) (r : XReg) (s : State) : (putX n r s).hart.saved = s.hart.saved := by unfold putX; split <;> rfl
@[simp] theorem putX_hart_desc (n : Nat) (r : XReg) (s : State) : (putX n r s).hart.desc = s.hart.desc := by unfold putX; split <;> rfl

/-! ## The hart under setX -/

@[simp] theorem setX_hart_v (r : RegIdx) (v : Word) (s : State) : (setX r v s).hart.v = s.hart.v := putX_hart_v _ _ _
@[simp] theorem setX_hart_m (r : RegIdx) (v : Word) (s : State) : (setX r v s).hart.m = s.hart.m := putX_hart_m _ _ _
@[simp] theorem setX_hart_pc (r : RegIdx) (v : Word) (s : State) : (setX r v s).hart.pc = s.hart.pc := putX_hart_pc _ _ _
@[simp] theorem setX_hart_priv (r : RegIdx) (v : Word) (s : State) : (setX r v s).hart.priv = s.hart.priv := putX_hart_priv _ _ _
@[simp] theorem setX_hart_disp (r : RegIdx) (v : Word) (s : State) : (setX r v s).hart.disp = s.hart.disp := putX_hart_disp _ _ _
@[simp] theorem setX_hart_wait (r : RegIdx) (v : Word) (s : State) : (setX r v s).hart.wait = s.hart.wait := putX_hart_wait _ _ _
@[simp] theorem setX_hart_answer (r : RegIdx) (v : Word) (s : State) : (setX r v s).hart.answer = s.hart.answer := putX_hart_answer _ _ _
@[simp] theorem setX_hart_storesDone (r : RegIdx) (v : Word) (s : State) : (setX r v s).hart.storesDone = s.hart.storesDone := putX_hart_storesDone _ _ _
@[simp] theorem setX_hart_again (r : RegIdx) (v : Word) (s : State) : (setX r v s).hart.again = s.hart.again := putX_hart_again _ _ _
@[simp] theorem setX_hart_x0 (r : RegIdx) (v : Word) (s : State) : (setX r v s).hart.x0 = s.hart.x0 := putX_hart_x0 _ _ _
@[simp] theorem setX_hart_pend (r : RegIdx) (v : Word) (s : State) : (setX r v s).hart.pend = s.hart.pend := putX_hart_pend _ _ _
@[simp] theorem setX_hart_loop0 (r : RegIdx) (v : Word) (s : State) : (setX r v s).hart.loop0 = s.hart.loop0 := putX_hart_loop0 _ _ _
@[simp] theorem setX_hart_loop1 (r : RegIdx) (v : Word) (s : State) : (setX r v s).hart.loop1 = s.hart.loop1 := putX_hart_loop1 _ _ _
@[simp] theorem setX_hart_resv (r : RegIdx) (v : Word) (s : State) : (setX r v s).hart.resv = s.hart.resv := putX_hart_resv _ _ _
@[simp] theorem setX_hart_saved (r : RegIdx) (v : Word) (s : State) : (setX r v s).hart.saved = s.hart.saved := putX_hart_saved _ _ _
@[simp] theorem setX_hart_desc (r : RegIdx) (v : Word) (s : State) : (setX r v s).hart.desc = s.hart.desc := putX_hart_desc _ _ _

/-! ## The hart under writeKey -/

@[simp] theorem writeKey_hart_x (s : State) (key : Nat) (data : List Byte) : (writeKey s key data).hart.x = s.hart.x := rfl
@[simp] theorem writeKey_hart_v (s : State) (key : Nat) (data : List Byte) : (writeKey s key data).hart.v = s.hart.v := rfl
@[simp] theorem writeKey_hart_m (s : State) (key : Nat) (data : List Byte) : (writeKey s key data).hart.m = s.hart.m := rfl
@[simp] theorem writeKey_hart_pc (s : State) (key : Nat) (data : List Byte) : (writeKey s key data).hart.pc = s.hart.pc := rfl
@[simp] theorem writeKey_hart_priv (s : State) (key : Nat) (data : List Byte) : (writeKey s key data).hart.priv = s.hart.priv := rfl
@[simp] theorem writeKey_hart_disp (s : State) (key : Nat) (data : List Byte) : (writeKey s key data).hart.disp = s.hart.disp := rfl
@[simp] theorem writeKey_hart_wait (s : State) (key : Nat) (data : List Byte) : (writeKey s key data).hart.wait = s.hart.wait := rfl
@[simp] theorem writeKey_hart_answer (s : State) (key : Nat) (data : List Byte) : (writeKey s key data).hart.answer = s.hart.answer := rfl
@[simp] theorem writeKey_hart_storesDone (s : State) (key : Nat) (data : List Byte) : (writeKey s key data).hart.storesDone = s.hart.storesDone := rfl
@[simp] theorem writeKey_hart_again (s : State) (key : Nat) (data : List Byte) : (writeKey s key data).hart.again = s.hart.again := rfl
@[simp] theorem writeKey_hart_x0 (s : State) (key : Nat) (data : List Byte) : (writeKey s key data).hart.x0 = s.hart.x0 := rfl
@[simp] theorem writeKey_hart_pend (s : State) (key : Nat) (data : List Byte) : (writeKey s key data).hart.pend = s.hart.pend := rfl
@[simp] theorem writeKey_hart_loop0 (s : State) (key : Nat) (data : List Byte) : (writeKey s key data).hart.loop0 = s.hart.loop0 := rfl
@[simp] theorem writeKey_hart_loop1 (s : State) (key : Nat) (data : List Byte) : (writeKey s key data).hart.loop1 = s.hart.loop1 := rfl
@[simp] theorem writeKey_hart_saved (s : State) (key : Nat) (data : List Byte) : (writeKey s key data).hart.saved = s.hart.saved := rfl
@[simp] theorem writeKey_hart_desc (s : State) (key : Nat) (data : List Byte) : (writeKey s key data).hart.desc = s.hart.desc := rfl

/-! ## The hart under goTo -/

@[simp] theorem goTo_hart_x (t : Word) (s : State) : (goTo t s).hart.x = s.hart.x := rfl
@[simp] theorem goTo_hart_v (t : Word) (s : State) : (goTo t s).hart.v = s.hart.v := rfl
@[simp] theorem goTo_hart_m (t : Word) (s : State) : (goTo t s).hart.m = s.hart.m := rfl
@[simp] theorem goTo_hart_priv (t : Word) (s : State) : (goTo t s).hart.priv = s.hart.priv := rfl
@[simp] theorem goTo_hart_disp (t : Word) (s : State) : (goTo t s).hart.disp = s.hart.disp := rfl
@[simp] theorem goTo_hart_x0 (t : Word) (s : State) : (goTo t s).hart.x0 = s.hart.x0 := rfl
@[simp] theorem goTo_hart_loop0 (t : Word) (s : State) : (goTo t s).hart.loop0 = s.hart.loop0 := rfl
@[simp] theorem goTo_hart_loop1 (t : Word) (s : State) : (goTo t s).hart.loop1 = s.hart.loop1 := rfl
@[simp] theorem goTo_hart_resv (t : Word) (s : State) : (goTo t s).hart.resv = s.hart.resv := rfl
@[simp] theorem goTo_hart_saved (t : Word) (s : State) : (goTo t s).hart.saved = s.hart.saved := rfl
@[simp] theorem goTo_hart_desc (t : Word) (s : State) : (goTo t s).hart.desc = s.hart.desc := rfl

/-! ## What they write -/

@[simp] theorem hold_hart_wait (w : Wait) (s : State) : (hold w s).hart.wait = w := rfl
@[simp] theorem goTo_hart_pc (t : Word) (s : State) : (goTo t s).hart.pc = t := rfl
@[simp] theorem goTo_hart_wait (t : Word) (s : State) : (goTo t s).hart.wait = .none := rfl
@[simp] theorem goTo_mach (t : Word) (s : State) :
    (goTo t s).mach = { s.mach with minstret := s.mach.minstret + 1 } := rfl
@[simp] theorem post_agenda (ev : Instr) (s : State) :
    (post ev s).sched.agenda = s.sched.agenda ++ [{ ev := ev, via := none, place := s.sched.place }] := rfl
@[simp] theorem postOwn_agenda (ev : Instr) (s : State) :
    (postOwn ev s).sched.agenda = s.sched.agenda ++ [{ ev := ev, via := none, place := none }] := rfl
@[simp] theorem enter_agenda (e : Entry) (s : State) : (enter e s).sched.agenda = s.sched.agenda ++ [e] := rfl
@[simp] theorem writeKey_mem (s : State) (key : Nat) (data : List Byte) :
    (writeKey s key data).mem = Memory.write s.mem key data := rfl
@[simp] theorem prefixPending_clearPrefix (s : State) : prefixPending (clearPrefix s) = false := rfl
@[simp] theorem prefixPending_goTo (t : Word) (s : State) : prefixPending (goTo t s) = false := rfl

end Sys2Proof.Machine
end

