-- ==== Sys2Proof/Laws/Memory.lean ====
section
/-!
SUPPORT. Memory: a read after a write, what a write leaves alone, and that every operation on memory keeps the
canonical form.
-/
namespace Sys2Proof.Machine.Memory

/-! ## The canonical form -/

theorem wfFrom_mono {low low' : Nat} (h : low' ≤ low) : ∀ {m : List Host.Cell}, wfFrom low m = true → wfFrom low' m = true
  | [], _ => rfl
  | (k, b) :: rest, hw => by
    simp only [wfFrom, Bool.and_eq_true, decide_eq_true_eq] at hw ⊢
    exact ⟨⟨by omega, hw.1.2⟩, hw.2⟩

/-- Below the first listed key everything reads as unlisted. -/
theorem get_below {low : Nat} : ∀ {m : List Host.Cell}, wfFrom low m = true → ∀ {n}, n < low → get m n = emptyByte
  | [], _, _, _ => rfl
  | (k, b) :: rest, hw, n, hn => by
    simp only [wfFrom, Bool.and_eq_true, decide_eq_true_eq] at hw
    have h1 : ¬ k = n := by omega
    have h2 : n < k := by omega
    simp [get, h1, h2]

theorem wfFrom_put {low n : Nat} {b : Byte} (hn : low ≤ n) :
    ∀ {m : List Host.Cell}, wfFrom low m = true → wfFrom low (put m n b) = true
  | [], _ => by
    by_cases hb : b = emptyByte <;> simp [put, wfFrom, hb, hn]
  | (k, c) :: rest, hw => by
    simp only [wfFrom, Bool.and_eq_true, decide_eq_true_eq, bne_iff_ne, ne_eq] at hw
    obtain ⟨⟨hk, hc⟩, hr⟩ := hw
    by_cases hkn : k = n
    · subst hkn
      by_cases hb : b = emptyByte
      · simpa [put, hb] using wfFrom_mono (by omega) hr
      · simp [put, wfFrom, hb, hk, hr]
    · by_cases hlt : n < k
      · by_cases hb : b = emptyByte
        · simp [put, wfFrom, hkn, hlt, hb, hk, hc, hr]
        · simp [put, wfFrom, hkn, hlt, hb, hn, hc, hr]
      · have ih := wfFrom_put (b := b) (show k + 1 ≤ n by omega) hr
        simp [put, wfFrom, hkn, hlt, hk, hc, ih]

theorem wf_put {m : List Host.Cell} (h : wf m = true) (n : Nat) (b : Byte) : wf (put m n b) = true :=
  wfFrom_put (Nat.zero_le n) h

theorem wf_write : ∀ (data : List Byte) {m : List Host.Cell} (n : Nat), wf m = true → wf (write m n data) = true
  | [], _, _, h => h
  | b :: rest, _, n, h => wf_write rest (n + 1) (wf_put h n b)

theorem wfFrom_filter (p : Host.Cell → Bool) {low : Nat} :
    ∀ {m : List Host.Cell}, wfFrom low m = true → wfFrom low (m.filter p) = true
  | [], _ => rfl
  | (k, b) :: rest, hw => by
    simp only [wfFrom, Bool.and_eq_true, decide_eq_true_eq] at hw
    have ih := wfFrom_filter p hw.2
    by_cases hp : p (k, b) = true
    · simp [hp, wfFrom, hw.1, ih]
    · simpa [List.filter_cons, hp] using wfFrom_mono (by omega) ih

theorem wf_filter (p : Host.Cell → Bool) {m : List Host.Cell} (h : wf m = true) : wf (m.filter p) = true :=
  wfFrom_filter p h

theorem wf_reset : wf State.reset.mem = true := rfl

/-! ## A read after a write -/

theorem get_put_from {low : Nat} : ∀ {m : List Host.Cell}, wfFrom low m = true → ∀ (n : Nat) (b : Byte) (k : Nat),
    get (put m n b) k = if k = n then b else get m k
  | [], _, n, b, k => by
    by_cases hb : b = emptyByte
    · by_cases hk : k = n <;> simp [put, get, hb, hk]
    · by_cases hk : k = n
      · simp [put, get, hb, hk]
      · have : ¬ n = k := fun h => hk h.symm
        simp [put, get, hb, hk, this]
  | (j, c) :: rest, hw, n, b, k => by
    simp only [wfFrom, Bool.and_eq_true, decide_eq_true_eq] at hw
    have below : ∀ q, q < j + 1 → get rest q = emptyByte := fun q hq => get_below hw.2 hq
    by_cases hjn : j = n
    · subst hjn
      by_cases hb : b = emptyByte
      · by_cases hk : k = j
        · simp [put, hb, hk, below j (by omega)]
        · by_cases hlt : k < j
          · simp [put, get, hb, hk, Ne.symm hk, hlt, below k (by omega)]
          · simp [put, get, hb, hk, Ne.symm hk, hlt]
      · by_cases hk : k = j
        · simp [put, get, hb, hk]
        · simp [put, get, hb, hk, Ne.symm hk]
    · by_cases hlt : n < j
      · by_cases hb : b = emptyByte
        · by_cases hk : k = n
          · subst hk
            simp [put, get, hjn, hlt, hb]
          · simp [put, hjn, hlt, hb, hk]
        · by_cases hk : k = n
          · simp [put, get, hjn, hlt, hb, hk]
          · by_cases hkn : k < n
            · have h1 : ¬ j = k := by omega
              have h2 : k < j := by omega
              simp [put, get, hjn, hlt, hb, hk, Ne.symm hk, hkn, h1, h2]
            · simp [put, get, hjn, hlt, hb, hk, Ne.symm hk, hkn]
      · have ih := get_put_from hw.2 n b k
        by_cases hjk : j = k
        · subst hjk
          simp [put, get, hjn, hlt]
        · by_cases hkj : k < j
          · have h1 : ¬ k = n := by omega
            simp [put, get, hjn, hlt, hjk, hkj, h1]
          · simp [put, get, hjn, hlt, hjk, hkj, ih]

/-- What a byte reads as after one byte has been written. -/
theorem get_put {m : List Host.Cell} (h : wf m = true) (n : Nat) (b : Byte) (k : Nat) :
    get (put m n b) k = if k = n then b else get m k := get_put_from h n b k

/-- What a byte reads as after a range has been written. -/
theorem get_write : ∀ (data : List Byte) {m : List Host.Cell} (_ : wf m = true) (n k : Nat),
    get (write m n data) k = if n ≤ k ∧ k < n + data.length then data.getD (k - n) 0 else get m k
  | [], _, _, n, k => by
    have : ¬ (n ≤ k ∧ k < n + ([] : List Byte).length) := by simp only [List.length_nil]; omega
    rw [if_neg this, write]
  | b :: rest, m, h, n, k => by
    rw [write, get_write rest (wf_put h n b) (n + 1) k, get_put h]
    by_cases hk : k = n
    · subst hk
      have h2 : k ≤ k ∧ k < k + (b :: rest).length := by simp
      simp
    · by_cases hr : n + 1 ≤ k ∧ k < n + 1 + rest.length
      · have h2 : n ≤ k ∧ k < n + (b :: rest).length := by simp only [List.length_cons]; omega
        have h3 : k - n = (k - (n + 1)) + 1 := by omega
        simp only [hr, h2, and_self, if_true]
        rw [h3, List.getD_cons_succ]
      · have h2 : ¬ (n ≤ k ∧ k < n + (b :: rest).length) := by simp only [List.length_cons]; omega
        rw [if_neg hr, if_neg h2, if_neg hk]

theorem length_read (m : List Host.Cell) : ∀ n k, (read m k n).length = n
  | 0, _ => rfl
  | n + 1, k => by simp [read, length_read m n (k + 1)]

/-- A read is the bytes at its keys. -/
theorem getD_read (m : List Host.Cell) : ∀ (n k i : Nat), i < n → (read m k n).getD i 0 = get m (k + i)
  | 0, _, _, h => by omega
  | n + 1, k, 0, _ => by simp [read]
  | n + 1, k, i + 1, h => by
    rw [read, List.getD_cons_succ, getD_read m n (k + 1) i (by omega)]
    congr 1
    omega

end Sys2Proof.Machine.Memory

namespace Sys2Proof.Machine

/-- A write through a key keeps the canonical form. -/
theorem wf_writeKey {s : State} (h : Memory.wf s.mem = true) (key : Nat) (data : List Byte) :
    Memory.wf (writeKey s key data).mem = true := Memory.wf_write data key h

theorem wf_writeRuns {key : Nat} : ∀ (runs : List (Nat × List Byte)) {s : State}, Memory.wf s.mem = true →
    Memory.wf (writeRuns key runs s).mem = true
  | [], _, h => h
  | r :: rest, _, h => wf_writeRuns rest (wf_writeKey h (key + r.1) r.2)

end Sys2Proof.Machine
end

