-- ==== Sys2Proof/Laws/Ops.lean ====
section
/-!
SUPPORT. The shared operations, said once: registers, checks, retirement, traps.
-/
namespace Sys2Proof.Machine

open Sys2Proof

/-! ## Registers -/

theorem getX_zero (s : State) : getX s 0 = Reg.zero 64 := rfl

theorem regState_x_zero (s : State) : regState s (.x 0) = .full := rfl

/-- Two states with the same x registers read the same. -/
theorem getX_congr {s t : State} (h : t.hart.x = s.hart.x) (n : Nat) : getX t n = getX s n := by
  unfold getX; rw [h]

theorem xval_congr {s t : State} (h : t.hart.x = s.hart.x) (r : RegIdx) : xval t r = xval s r := by
  unfold xval; rw [getX_congr h]

theorem getX_putX (n : Nat) (r : XReg) (s : State) (k : Nat) :
    getX (putX n r s) k = if k = n ∧ n ≠ 0 ∧ n < 32 then r else getX s k := by
  unfold putX getX
  by_cases hn : n = 0
  · have : ¬ (k = n ∧ n ≠ 0 ∧ n < 32) := by omega
    simp [hn]
  · by_cases hk : k = 0
    · have : ¬ (k = n ∧ n ≠ 0 ∧ n < 32) := by omega
      simp [hn, hk]
      omega
    · by_cases hkn : k = n
      · subst hkn
        by_cases hlt : k < 32
        · simp [hk, hlt, Vector.getD, Vector.setIfInBounds]
        · simp [hk, hlt, Vector.getD]
      · have : ¬ (k = n ∧ n ≠ 0 ∧ n < 32) := by omega
        by_cases hlt : k < 32
        · simp [hn, hk, hkn, Vector.getD, hlt, Ne.symm hkn]
        · simp [hn, hk, hkn, Vector.getD, hlt]

theorem reg_lt (r : RegIdx) : r.toNat < 32 := r.isLt

theorem reg_toNat_eq_zero {r : RegIdx} : r.toNat = 0 ↔ r = 0 := by
  constructor
  · intro h; exact BitVec.eq_of_toNat_eq (by simpa using h)
  · intro h; subst h; rfl

/-- What writing an x register does to the x registers (R43, R44). -/
theorem writesX_setX (s : State) (rd : RegIdx) (v : Word) : WritesX s (setX rd v s) rd v := by
  have hlt := reg_lt rd
  by_cases h : rd = 0
  · subst h
    exact ⟨rfl, rfl, fun n _ => rfl⟩
  · have h0 : rd.toNat ≠ 0 := fun e => h (reg_toNat_eq_zero.1 e)
    refine ⟨?_, ?_, ?_⟩
    · rw [if_neg h]
      simp [xval, setX, writeX, getX_putX, h0, hlt]
    · simp [regState, setX, writeX, getX_putX, h0, hlt]
    · intro n hn
      simp [setX, writeX, getX_putX, hn]

theorem writesX_of_x_eq {s t u : State} {rd : RegIdx} {v : Word} (h : WritesX s t rd v) (hx : u.hart.x = t.hart.x) :
    WritesX s u rd v := by
  obtain ⟨h1, h2, h3⟩ := h
  refine ⟨?_, ?_, ?_⟩
  · rw [xval_congr hx, h1]
  · simp only [regState, getX_congr hx]; exact h2
  · intro n hn; rw [getX_congr hx]; exact h3 n hn

/-! ## Retirement -/

/-- The end test changes nothing but the counts of the loops (R154). -/
theorem endTest_state (next : Word) (s : State) :
    (endTest next s).2 = { s with hart := { s.hart with
      loop0 := (endTest next s).2.hart.loop0, loop1 := (endTest next s).2.hart.loop1 } } := by
  unfold endTest
  dsimp only
  split
  · split
    · rfl
    · split <;> rfl
  · split <;> rfl

/-- The end test looks only at the pc and the loops. -/
theorem endTest_congr (next : Word) {s t : State} (hp : t.hart.pc = s.hart.pc) (h0 : t.hart.loop0 = s.hart.loop0)
    (h1 : t.hart.loop1 = s.hart.loop1) :
    (endTest next t).1 = (endTest next s).1 ∧ (endTest next t).2.hart.loop0 = (endTest next s).2.hart.loop0 ∧
      (endTest next t).2.hart.loop1 = (endTest next s).2.hart.loop1 := by
  unfold endTest
  dsimp only
  rw [hp, h0, h1]
  split
  · split
    · exact ⟨rfl, rfl, rfl⟩
    · split
      · exact ⟨rfl, rfl, rfl⟩
      · exact ⟨rfl, rfl, rfl⟩
  · split
    · exact ⟨rfl, rfl, rfl⟩
    · exact ⟨rfl, h0, h1⟩

/-- Retirement in sequence, as one update. -/
theorem retire_eq (s : State) : retire s = { s with hart := retiredHart s, mach := retiredMach s } := by
  have e : retire s = goTo (endTest (s.hart.pc + 4) s).1 (endTest (s.hart.pc + 4) s).2 := rfl
  rw [e, endTest_state]
  rfl

/-- Retirement by a jump, as one update. -/
theorem goTo_eq (target : Word) (s : State) :
    goTo target s = { s with hart := jumpedHart target s, mach := retiredMach s } := rfl

/-- What an instruction leaves that writes one x register and retires in sequence. -/
theorem retiresWith_retire_setX (s : State) (rd : RegIdx) (v : Word) : RetiresWith s (retire (setX rd v s)) rd v := by
  have e := endTest_congr (s.hart.pc + 4) (setX_hart_pc rd v s) (setX_hart_loop0 rd v s) (setX_hart_loop1 rd v s)
  rw [retire_eq]
  refine ⟨writesX_of_x_eq (writesX_setX s rd v) rfl, ?_, ?_⟩
  · intro k; simp
  · simp only [retiredHart, retiredMach, setX_hart_pc, e.1, e.2.1, e.2.2]
    simp only [setX_coreid, setX_user, setX_act, setX_sup, setX_mach, setX_off, setX_arr, setX_mem, setX_stn, setX_ctr,
      setX_actors, setX_transfers, setX_launches, setX_colls, setX_host, setX_fab, setX_ras, setX_sched, setX_hart_v,
      setX_hart_m, setX_hart_priv, setX_hart_disp, setX_hart_again, setX_hart_x0, setX_hart_pend, setX_hart_resv, setX_hart_saved, setX_hart_desc]

/-! ## Checks -/

/-- Checks that do not stop leave the rest of the list. -/
theorem firstStop_cons_none {c : Check} {rest : List Check} {s : State} (h : c s = none) :
    firstStop (c :: rest) s = firstStop rest s := by simp [firstStop, h]

theorem firstStop_cons_some {c : Check} {rest : List Check} {s t : State} (h : c s = some t) :
    firstStop (c :: rest) s = some t := by simp [firstStop, h]

/-- With no check that stops, an instruction has its effect. -/
theorem instr_eq_next {checks : List Check} {effect : State → State} {s : State} (h : firstStop checks s = none) :
    instr checks effect s = .next (effect s) := by simp [instr, h]

/-- A check that stops decides what the instruction does. -/
theorem instr_eq_stop {checks : List Check} {effect : State → State} {s t : State} (h : firstStop checks s = some t) :
    instr checks effect s = .next t := by simp [instr, h]

/-- Every instruction built from checks and an effect answers a next state: one of the checks' or the effect's. -/
theorem instr_cases (checks : List Check) (effect : State → State) (s : State) :
    (∃ c ∈ checks, ∃ t, c s = some t ∧ instr checks effect s = .next t) ∨ instr checks effect s = .next (effect s) := by
  induction checks with
  | nil => exact .inr rfl
  | cons c rest ih =>
    cases hc : c s with
    | some t => exact .inl ⟨c, by simp, t, hc, instr_eq_stop (firstStop_cons_some hc)⟩
    | none =>
      have e : instr (c :: rest) effect s = instr rest effect s := by simp [instr, firstStop_cons_none hc]
      rw [e]
      obtain ⟨d, hd, t, h1, h2⟩ | h := ih
      · exact .inl ⟨d, by simp [hd], t, h1, h2⟩
      · exact .inr h

theorem ready_iff {s : State} {srcs dests : List RegName} : ready s srcs dests = true ↔
    prefixPending s = false ∧ s.ras.regErrors = [] ∧ (∀ r ∈ srcs, regState s r = .full) ∧
      ∀ r ∈ dests, (regState s r).isEmpty = false := by
  simp [ready, and_assoc]

theorem noPrefix_none {s : State} (i : Instr) (h : prefixPending s = false) : noPrefix i s = none := by
  simp [noPrefix, stopIf, h]

theorem stopIf_none {s : State} {p : State → Bool} {f : State → State} (h : p s = false) : stopIf p f s = none := by
  simp [stopIf, h]

theorem stopIf_some {s : State} {p : State → Bool} {f : State → State} (h : p s = true) : stopIf p f s = some (f s) := by
  simp [stopIf, h]

/-- Sources that are all FULL, with no unseen register error, stop nothing (R50, R121). -/
theorem checkSources_none {s : State} {l : List Source} (he : s.ras.regErrors = [])
    (hf : ∀ src ∈ l, ∀ r ∈ src.1, regState s r = .full) : checkSources l s = none := by
  have empty : ∀ x ∈ l, emptyReg s x = none := by
    intro x hx
    simp only [emptyReg, List.find?_eq_none]
    intro r hr; simp [hf x hx r hr, RegState.isEmpty]
  have h1 : l.findSome? (faultedReg s) = none := by
    simp only [List.findSome?_eq_none_iff, faultedReg, List.find?_eq_none]
    intro x hx r hr; simp [hf x hx r hr, RegState.isFaulted]
  have h2 : l.findSome? (fun src => if src.2 then emptyReg s src else none) = none := by
    simp only [List.findSome?_eq_none_iff]
    intro x hx; simp [empty x hx]
  have h3 : l.findSome? (emptyReg s) = none := by simpa only [List.findSome?_eq_none_iff] using empty
  have hr : regErrorIn s (l.flatMap fun src => src.1) = none := by simp [regErrorIn, he]
  simp [checkSources, h1, h2, h3, hr]

/-- The same for x registers named by fields. -/
theorem checkSources_srcX {s : State} {l : List RegIdx} (he : s.ras.regErrors = [])
    (hf : ∀ r ∈ xs l, regState s r = .full) (e : RegIdx → Bool) :
    checkSources (l.map fun r => srcX r (e r)) s = none := by
  apply checkSources_none he
  intro src hsrc r hr
  obtain ⟨q, hq, rfl⟩ := List.mem_map.1 hsrc
  by_cases h0 : q = 0
  · subst h0; simp [srcX] at hr
  · simp [srcX] at hr
    rw [hr.2]
    exact hf _ (List.mem_map.2 ⟨q, hq, rfl⟩)

theorem checkDest_none {s : State} {regs : List RegName} (h : ∀ r ∈ regs, (regState s r).isEmpty = false) :
    checkDest regs s = none := by
  have : (regs.any fun r => (regState s r).isEmpty) = false := by
    simp only [List.any_eq_false]
    intro r hr; simp [h r hr]
  simp [checkDest, this]

theorem checkDest_dstX {s : State} {rd : RegIdx} (h : ∀ r ∈ xs [rd], (regState s r).isEmpty = false) :
    checkDest (dstX rd) s = none := by
  apply checkDest_none
  intro r hr
  by_cases h0 : rd = 0
  · subst h0; simp [dstX] at hr
  · simp [dstX] at hr
    rw [hr.2]
    exact h _ (by simp [xs])

/-- An instruction that computes one x register from FULL sources. -/
theorem regInstr_eq {s : State} {srcs : List RegIdx} {rd : RegIdx} (i : Instr) (f : State → Word)
    (h : ready s (xs srcs) (xs [rd]) = true) : regInstr i srcs rd f s = .next (retire (setX rd (f s) s)) := by
  obtain ⟨hp, he, hs, hd⟩ := ready_iff.1 h
  apply instr_eq_next
  rw [firstStop_cons_none (noPrefix_none i hp), firstStop_cons_none (checkSources_srcX he hs fun _ => false),
    firstStop_cons_none (checkDest_dstX hd)]
  rfl

end Sys2Proof.Machine
end

