-- ==== Sys2Proof/Laws/Agenda.lean ====
section
/-!
SUPPORT. Handing a step to another agent, answering a request and recording an error leave the hart and memory as they were.
-/
namespace Sys2Proof.Machine

open Sys2Proof

/-! ## What they leave -/

/-- The hart, the CSRs of its context and every byte are as before. -/
def Frame (s t : State) : Prop := t.hart = s.hart ∧ t.user = s.user ∧ t.sup = s.sup ∧ t.act = s.act ∧ t.mem = s.mem

theorem Frame.refl (s : State) : Frame s s := ⟨rfl, rfl, rfl, rfl, rfl⟩

theorem Frame.trans {s t u : State} (h : Frame s t) (g : Frame t u) : Frame s u :=
  ⟨g.1.trans h.1, g.2.1.trans h.2.1, g.2.2.1.trans h.2.2.1, g.2.2.2.1.trans h.2.2.2.1, g.2.2.2.2.trans h.2.2.2.2⟩

theorem Frame.leavesHart {s t : State} (h : Frame s t) : LeavesHart s t :=
  ⟨h.1, h.2.1, h.2.2.1, fun k => by rw [h.2.2.2.2]⟩

theorem frame_foldl {α : Type} {f : State → α → State} (hf : ∀ s a, Frame s (f s a)) :
    ∀ (l : List α) (s : State), Frame s (l.foldl f s)
  | [], s => Frame.refl s
  | a :: l, s => (hf s a).trans (frame_foldl hf l (f s a))

/-! ## The agenda -/

theorem frame_enter (e : Entry) (s : State) : Frame s (enter e s) := ⟨rfl, rfl, rfl, rfl, rfl⟩
theorem frame_post (ev : Instr) (s : State) : Frame s (post ev s) := frame_enter _ _
theorem frame_postOwn (ev : Instr) (s : State) : Frame s (postOwn ev s) := frame_enter _ _
theorem frame_postAll (evs : List Instr) (s : State) : Frame s (postAll evs s) :=
  frame_foldl (fun s ev => frame_post ev s) evs s

/-! ## Error logs -/

theorem frame_logCluster (k l d n : Nat) (s : State) : Frame s (logCluster k l d n s) := by
  unfold logCluster; dsimp only
  split
  · exact Frame.refl s
  · split
    · split <;> exact ⟨rfl, rfl, rfl, rfl, rfl⟩
    · exact ⟨rfl, rfl, rfl, rfl, rfl⟩

theorem frame_logPackage (k l d n : Nat) (s : State) : Frame s (logPackage k l d n s) := by
  unfold logPackage; dsimp only
  split
  · exact Frame.refl s
  · split
    · split <;> split <;> exact ⟨rfl, rfl, rfl, rfl, rfl⟩
    · exact ⟨rfl, rfl, rfl, rfl, rfl⟩

/-! ## Packets -/

theorem frame_setPeer (n : Nat) (p : Peer) (s : State) : Frame s (setPeer n p s) := ⟨rfl, rfl, rfl, rfl, rfl⟩
theorem frame_setPort (k : Nat) (p : Port) (s : State) : Frame s (setPort k p s) := ⟨rfl, rfl, rfl, rfl, rfl⟩
theorem frame_setOut (n : Nat) (ch : Channel) (st : Stream) (s : State) : Frame s (setOut n ch st s) := frame_setPeer _ _ _
theorem frame_setInn (n : Nat) (ch : Channel) (st : Stream) (s : State) : Frame s (setInn n ch st s) := frame_setPeer _ _ _

theorem frame_startTimer (n : Nat) (s : State) : Frame s (startTimer n s) := by
  unfold startTimer; dsimp only
  split
  · exact Frame.refl s
  · exact frame_setPeer _ _ _

theorem frame_pumpPort (k : Nat) (s : State) : Frame s (pumpPort k s) := by
  unfold pumpPort; dsimp only
  split
  · exact Frame.refl s
  · exact ((frame_setPort _ _ _).trans (frame_foldl (fun t (g : Flit) => frame_startTimer (headerDst g.header) t) _ _)).trans
      (frame_postOwn _ _)

theorem frame_handFlits (a : Arrival) (ev : Instr) (k : Nat) (s : State) : Frame s (handFlits a ev k s) := by
  unfold handFlits; dsimp only
  refine Frame.trans ?_ (frame_pumpPort _ _)
  exact ⟨rfl, rfl, rfl, rfl, rfl⟩

theorem frame_leavePackets (pkg : Nat) (ch : Channel) : ∀ (n : Nat) (s : State), Frame s (leavePackets pkg ch n s)
  | 0, s => Frame.refl s
  | n + 1, s => by
    unfold leavePackets; dsimp only
    split
    · exact Frame.refl s
    · split
      · exact Frame.refl s
      · split
        · exact Frame.refl s
        · exact ((frame_setOut _ _ _ _).trans (frame_handFlits _ _ _ _)).trans (frame_leavePackets pkg ch n _)

theorem frame_postOut (pkg : Nat) (ch : Channel) (kind : Nat) (pid : Pid) (ev : Instr) (x : Option (Channel × Nat))
    (y : Option PacketAnswer) (s : State) : Frame s (postOut pkg ch kind pid ev x y s) := by
  unfold postOut; dsimp only
  exact ((frame_setOut _ _ _ _).trans (frame_enter _ _)).trans (frame_leavePackets _ _ _ _)

theorem frame_postIn (pkg : Nat) (ch : Channel) (kind : Nat) (pid : Pid) (ev : Instr) (x : Option (Channel × Nat))
    (y : Option PacketAnswer) (s : State) : Frame s (postIn pkg ch kind pid ev x y s) := by
  unfold postIn; dsimp only
  exact (frame_setInn _ _ _ _).trans (frame_enter _ _)

theorem frame_postBetween (src dst : Nat) (ch : Channel) (kind : Nat) (pid : Pid) (ev : Instr) (x : Option (Channel × Nat))
    (y : Option PacketAnswer) (s : State) : Frame s (postBetween src dst ch kind pid ev x y s) := by
  unfold postBetween
  split
  · split
    · exact frame_postOut _ _ _ _ _ _ _ _
    · exact Frame.refl s
  · split
    · exact frame_postIn _ _ _ _ _ _ _ _
    · exact Frame.refl s

/-! ## Answers -/

theorem frame_answerPacket (o : Origin) (x : PacketAnswer) (s : State) : Frame s (answerPacket o x s) := by
  unfold answerPacket; dsimp only
  split
  · exact (frame_setOut _ _ _ _).trans (frame_postBetween _ _ _ _ _ _ _ _ _)
  · exact (frame_setInn _ _ _ _).trans (frame_postBetween _ _ _ _ _ _ _ _ _)

theorem frame_failColl (cl : Nat) (pid : Pid) (colid : BitVec 32) (d : Detail) (s : State) :
    Frame s (failColl cl pid colid d s) := by
  unfold failColl; dsimp only
  split
  · exact Frame.refl s
  · split
    · split
      · split
        · exact Frame.trans ⟨rfl, rfl, rfl, rfl, rfl⟩ (frame_logCluster _ _ _ _ _)
        · exact ⟨rfl, rfl, rfl, rfl, rfl⟩
      · exact Frame.trans ⟨rfl, rfl, rfl, rfl, rfl⟩ (frame_post _ _)
    · exact Frame.refl s

theorem frame_answerTransfer (id : Nat) (r : Response) (s : State) : Frame s (answerTransfer id r s) := by
  unfold answerTransfer; dsimp only
  split
  · exact Frame.refl s
  · cases r with
    | value v => dsimp only; split <;> exact Frame.trans ⟨rfl, rfl, rfl, rfl, rfl⟩ (frame_postOwn _ _)
    | bytes b => exact Frame.trans ⟨rfl, rfl, rfl, rfl, rfl⟩ (frame_postOwn _ _)
    | damaged b l p => exact frame_postOwn _ _
    | failed d p => exact frame_postOwn _ _

/-- An answer changes neither the hart nor memory. -/
theorem frame_reply (rto : ReplyTo) (r : Response) (s : State) : Frame s (reply rto r s) := by
  unfold reply
  split
  · exact Frame.refl s
  · exact frame_postOwn _ _
  · exact frame_postOwn _ _
  · exact frame_answerTransfer _ _ _
  · split
    · exact frame_failColl _ _ _ _ _
    all_goals exact frame_postOwn _ _
  · exact frame_postOwn _ _
  · exact frame_postOwn _ _
  · exact ⟨rfl, rfl, rfl, rfl, rfl⟩
  · exact frame_postOwn _ _
  · exact frame_answerPacket _ _ _

theorem frame_armEnds (rto : ReplyTo) (s : State) : Frame s (armEnds rto s) := by
  unfold armEnds
  cases rto <;> dsimp only <;> first | exact ⟨rfl, rfl, rfl, rfl, rfl⟩ | skip
  split <;> exact ⟨rfl, rfl, rfl, rfl, rfl⟩

theorem frame_wakeUp (pkg : Nat) (pid : Pid) (rto : ReplyTo) (r : Response) (s : State) :
    Frame s (wakeUp pkg pid rto r s) := by
  unfold wakeUp; dsimp only
  split
  · exact frame_reply _ _ _
  · exact frame_postBetween _ _ _ _ _ _ _ _ _

theorem frame_failOutbound (ev : Instr) (d : Detail) (pkg : Nat) (s : State) : Frame s (failOutbound ev d pkg s) := by
  unfold failOutbound
  split
  · exact (frame_armEnds _ _).trans (frame_reply _ _ _)
  · exact frame_reply _ _ _

/-- Handing a step to the agent of a package changes neither the hart nor memory. -/
theorem frame_postTo (pkg : Nat) (ch : Channel) (ev : Instr) (s : State) : Frame s (postTo pkg ch ev s) := by
  unfold postTo; dsimp only
  split
  · exact frame_post _ _
  · split
    · split
      · exact frame_postOut _ _ _ _ _ _ _ _
      · exact frame_failOutbound _ _ _ _
    · split
      · exact frame_postIn _ _ _ _ _ _ _ _
      · exact frame_enter _ _

theorem frame_sendAll (es : List Effect) (s : State) : Frame s (sendAll es s) :=
  frame_foldl (fun _ _ => frame_postTo _ _ _ _) es s

/-! ## Translation -/

theorem keepEntry_state (e : TlbEntry) (s : State) : keepEntry e s = { s with stn := (keepEntry e s).stn } := by
  unfold keepEntry; split <;> rfl

/-- A translation changes nothing but memory, where it sets A and D, with what a write of memory does to a reservation and
to poisoned words, and the station. -/
theorem translate_state (s : State) (st : Nat) (pid : Pid) (va : Word) (kind : AccessKind) :
    let t := (translate s st pid va kind).1
    t = { s with
      mem := t.mem, stn := t.stn, hart := { s.hart with resv := t.hart.resv }, ras := { s.ras with poison := t.ras.poison } } := by
  unfold translate; dsimp only
  split
  · rfl
  · split
    · rfl
    · split
      · rfl
      · dsimp only
        rw [keepEntry_state]
        split <;> rfl

end Sys2Proof.Machine
end

