-- ==== Sys2Proof/Tests/Slice0.lean ====
section
/-!
SUPPORT. Tests of this model: ill-formed terms, words written out from the manual's encodings, single steps, and a
witness for every statement that has hypotheses.
-/
namespace Sys2Proof.Tests
open Sys2Proof.Machine

set_option Elab.async false

/-! ## Well-formed terms -/

/-- A V/T instruction with the given fields. -/
def vt (w : BitVec 2) (e2 e1 m : Bool) (s2 s1 d : RegIdx) : VT := ⟨w, e2, e1, m, s2, s1, d⟩

/-- A register-form instruction. -/
def rt (rs2 rs1 rd : RegIdx) : RT := ⟨false, false, rs2, rs1, rd⟩

/-- R22: a word shift takes five bits, `roriw` as well; `fence` with fm 8 is FENCE.TSO; LR has no second source. -/
theorem test_ill_formed_base :
    (Instr.integerOp (.shift .slliw 10 11 32)).wf = false ∧ (Instr.integerOp (.shift .sraiw 10 11 63)).wf = false ∧
    (Instr.bitManipulation (.shift .roriw 10 11 32)).wf = false ∧ (Instr.fence 8 ⟨3, 3, 0, 0⟩).wf = false ∧
    (Instr.lrW (rt 1 11 10)).wf = false ∧ (Instr.lrD (rt 31 11 10)).wf = false := by decide

/-- R26: W greater than the entry takes, a register group that is not aligned, a tile register number above 15. -/
theorem test_ill_formed_groups :
    (Instr.vadd (vt 1 false false false 2 4 9)).wf = false ∧ (Instr.vadd (vt 2 false false false 2 4 8)).wf = false ∧
    (Instr.vld (vt 3 false false false 0 10 4)).wf = false ∧ (Instr.tzero (vt 1 false false false 0 0 3)).wf = false ∧
    (Instr.tzero (vt 2 false false false 0 0 0)).wf = false ∧ (Instr.tget (vt 1 false false false 3 2 0)).wf = false ∧
    (Instr.tld (vt 0 false false false 3 2 16)).wf = false := by decide

/-- R27, R28, R29, R35: unused fields, E bits of absent or written operands, M where it is not taken or is required. -/
theorem test_ill_formed_fields :
    (Instr.vidx (vt 0 false false false 0 1 0)).wf = false ∧ (Instr.vidx (vt 0 false true false 0 0 0)).wf = false ∧
    (Instr.vbcast (vt 0 true false false 0 5 1)).wf = false ∧ (Instr.vqblk (vt 0 true false false 5 1 2)).wf = false ∧
    (Instr.vqblk (vt 0 false false true 5 1 2)).wf = false ∧ (Instr.vsel (vt 0 false false false 1 2 3)).wf = false ∧
    (Instr.vgld (vt 0 false false true 0 5 1)).wf = false ∧ (Instr.tsync (vt 0 false false false 0 0 1)).wf = false := by decide

/-- R30, R34, R35: fields of custom-3 that an operation does not have, and aq or rl under funct3 3. -/
theorem test_ill_formed_custom3 :
    (Instr.calloc (rt 0 1 10)).wf = false ∧ (Instr.cpoll (rt 1 11 10)).wf = false ∧ (Instr.cfree (rt 0 11 10)).wf = false ∧
    (Instr.colset ⟨true, false, 0, 10, 0⟩).wf = false ∧ (Instr.supdel ⟨false, true, 0, 10, 0⟩).wf = false := by decide

/-- R36 to R38: a loop of no words, a rounding override 1 to 3, and a format field that is no code. -/
theorem test_ill_formed_prefix :
    (Instr.loop false 10 0).wf = false ∧ (Instr.fmt 1 31 31 31).wf = false ∧ (Instr.fmt 3 31 31 31).wf = false ∧
    (Instr.fmt 0 17 31 31).wf = false ∧ (Instr.fmt 0 31 30 31).wf = false ∧ (Instr.fmt 0 31 31 17).wf = false := by decide

/-! ## Words -/

/-- The decoder reads the word as the instruction, which is well-formed and has this word. -/
def reads (w : IWord) (i : Instr) : Bool :=
  decide ((decode w).toOption = some i) && i.wf && decide (encode i = some w)

/-- Loads at a1 − 4 to a0, stores of a2 at a1 − 4. -/
theorem test_decode_loads_stores : ([
  (0xFFC58503, .lb ⟨10, 11, 0xFFC⟩), (0xFFC59503, .lh ⟨10, 11, 0xFFC⟩), (0xFFC5A503, .lw ⟨10, 11, 0xFFC⟩),
   (0xFFC5B503, .ld ⟨10, 11, 0xFFC⟩), (0xFFC5C503, .lbu ⟨10, 11, 0xFFC⟩), (0xFFC5D503, .lhu ⟨10, 11, 0xFFC⟩),
   (0xFFC5E503, .lwu ⟨10, 11, 0xFFC⟩), (0xFEC58E23, .sb ⟨12, 11, 0xFFC⟩), (0xFEC59E23, .sh ⟨12, 11, 0xFFC⟩),
   (0xFEC5AE23, .sw ⟨12, 11, 0xFFC⟩), (0xFEC5BE23, .sd ⟨12, 11, 0xFFC⟩)] : List (IWord × Instr)).all (fun p => reads p.1 p.2) = true := by decide

/-- RV64I operations on a0, a1, a2. -/
theorem test_decode_integer : ([
  (0x00C58533, .integerOp (.reg .add 10 11 12)), (0x40C58533, .integerOp (.reg .sub 10 11 12)),
   (0x00C59533, .integerOp (.reg .sll 10 11 12)), (0x00C5A533, .integerOp (.reg .slt 10 11 12)),
   (0x00C5B533, .integerOp (.reg .sltu 10 11 12)), (0x00C5C533, .integerOp (.reg .xor 10 11 12)),
   (0x00C5D533, .integerOp (.reg .srl 10 11 12)), (0x40C5D533, .integerOp (.reg .sra 10 11 12)),
   (0x00C5E533, .integerOp (.reg .or 10 11 12)), (0x00C5F533, .integerOp (.reg .and 10 11 12)),
   (0x00C5853B, .integerOp (.reg .addw 10 11 12)), (0x40C5853B, .integerOp (.reg .subw 10 11 12)),
   (0x00C5953B, .integerOp (.reg .sllw 10 11 12)), (0x00C5D53B, .integerOp (.reg .srlw 10 11 12)),
   (0x40C5D53B, .integerOp (.reg .sraw 10 11 12)), (0xFF958513, .integerOp (.imm .addi 10 11 0xFF9)),
   (0xFF95A513, .integerOp (.imm .slti 10 11 0xFF9)), (0xFF95B513, .integerOp (.imm .sltiu 10 11 0xFF9)),
   (0xFF95C513, .integerOp (.imm .xori 10 11 0xFF9)), (0xFF95E513, .integerOp (.imm .ori 10 11 0xFF9)),
   (0xFF95F513, .integerOp (.imm .andi 10 11 0xFF9)), (0xFF95851B, .integerOp (.imm .addiw 10 11 0xFF9)),
   (0x02D59513, .integerOp (.shift .slli 10 11 45)), (0x02D5D513, .integerOp (.shift .srli 10 11 45)),
   (0x42D5D513, .integerOp (.shift .srai 10 11 45)), (0x0155951B, .integerOp (.shift .slliw 10 11 21)),
   (0x0155D51B, .integerOp (.shift .srliw 10 11 21)), (0x4155D51B, .integerOp (.shift .sraiw 10 11 21))] : List (IWord × Instr)).all (fun p => reads p.1 p.2) = true := by decide

/-- RV64M on a0, a1, a2. -/
theorem test_decode_mul_div : ([
  (0x02C58533, .multiplyDivide .mul 10 11 12), (0x02C59533, .multiplyDivide .mulh 10 11 12),
   (0x02C5A533, .multiplyDivide .mulhsu 10 11 12), (0x02C5B533, .multiplyDivide .mulhu 10 11 12),
   (0x02C5C533, .multiplyDivide .div 10 11 12), (0x02C5D533, .multiplyDivide .divu 10 11 12),
   (0x02C5E533, .multiplyDivide .rem 10 11 12), (0x02C5F533, .multiplyDivide .remu 10 11 12),
   (0x02C5853B, .multiplyDivide .mulw 10 11 12), (0x02C5C53B, .multiplyDivide .divw 10 11 12),
   (0x02C5D53B, .multiplyDivide .divuw 10 11 12), (0x02C5E53B, .multiplyDivide .remw 10 11 12),
   (0x02C5F53B, .multiplyDivide .remuw 10 11 12)] : List (IWord × Instr)).all (fun p => reads p.1 p.2) = true := by decide

/-- Zba and Zbb on a0, a1, a2. -/
theorem test_decode_zba_zbb : ([
  (0x08C5853B, .bitManipulation (.reg .adduw 10 11 12)), (0x20C5A533, .bitManipulation (.reg .sh1add 10 11 12)),
   (0x20C5A53B, .bitManipulation (.reg .sh1adduw 10 11 12)),
   (0x20C5C533, .bitManipulation (.reg .sh2add 10 11 12)),
   (0x20C5C53B, .bitManipulation (.reg .sh2adduw 10 11 12)),
   (0x20C5E533, .bitManipulation (.reg .sh3add 10 11 12)),
   (0x20C5E53B, .bitManipulation (.reg .sh3adduw 10 11 12)), (0x40C5F533, .bitManipulation (.reg .andn 10 11 12)),
   (0x40C5E533, .bitManipulation (.reg .orn 10 11 12)), (0x40C5C533, .bitManipulation (.reg .xnor 10 11 12)),
   (0x0AC5C533, .bitManipulation (.reg .min 10 11 12)), (0x0AC5D533, .bitManipulation (.reg .minu 10 11 12)),
   (0x0AC5E533, .bitManipulation (.reg .max 10 11 12)), (0x0AC5F533, .bitManipulation (.reg .maxu 10 11 12)),
   (0x60C59533, .bitManipulation (.reg .rol 10 11 12)), (0x60C5953B, .bitManipulation (.reg .rolw 10 11 12)),
   (0x60C5D533, .bitManipulation (.reg .ror 10 11 12)), (0x60C5D53B, .bitManipulation (.reg .rorw 10 11 12)),
   (0x60059513, .bitManipulation (.un .clz 10 11)), (0x60159513, .bitManipulation (.un .ctz 10 11)),
   (0x60259513, .bitManipulation (.un .cpop 10 11)), (0x6005951B, .bitManipulation (.un .clzw 10 11)),
   (0x6015951B, .bitManipulation (.un .ctzw 10 11)), (0x6025951B, .bitManipulation (.un .cpopw 10 11)),
   (0x60459513, .bitManipulation (.un .sextb 10 11)), (0x60559513, .bitManipulation (.un .sexth 10 11)),
   (0x2875D513, .bitManipulation (.un .orcb 10 11)), (0x6B85D513, .bitManipulation (.un .rev8 10 11)),
   (0x0805C53B, .bitManipulation (.un .zexth 10 11)), (0x0AD5951B, .bitManipulation (.shift .slliuw 10 11 45)),
   (0x62D5D513, .bitManipulation (.shift .rori 10 11 45)), (0x6155D51B, .bitManipulation (.shift .roriw 10 11 21))] : List (IWord × Instr)).all (fun p => reads p.1 p.2) = true := by decide

/-- Branches by −2,044 bytes, jumps by −699,052 bytes, upper immediates, fences, system instructions, CSRs. -/
theorem test_decode_control : ([
  (0x80C582E3, .branch ⟨.eq, 11, 12, 0xC02⟩), (0x80C592E3, .branch ⟨.ne, 11, 12, 0xC02⟩),
   (0x80C5C2E3, .branch ⟨.lt, 11, 12, 0xC02⟩), (0x80C5D2E3, .branch ⟨.ge, 11, 12, 0xC02⟩),
   (0x80C5E2E3, .branch ⟨.ltu, 11, 12, 0xC02⟩), (0x80C5F2E3, .branch ⟨.geu, 11, 12, 0xC02⟩),
   (0xD54550EF, .jump (.jal 1 0xAAAAA)), (0xFFC580E7, .jump (.jalr 1 11 0xFFC)), (0xABCDE537, .lui 10 0xABCDE),
   (0xABCDE517, .auipc 10 0xABCDE), (0x0FF0000F, .fence 0 ⟨15, 15, 0, 0⟩), (0x8330000F, .fenceTso ⟨3, 3, 0, 0⟩),
   (0x0000100F, .fenceI 0 0 0), (0x00000073, .ecall), (0x00100073, .ebreak), (0x30200073, .mret),
   (0x10200073, .sret), (0x10500073, .wfi), (0x12C58073, .sfenceVma 11 12), (0x80159573, .csrrw ⟨10, 11, 0x801⟩),
   (0x8015A573, .csrrs ⟨10, 11, 0x801⟩), (0x8015B573, .csrrc ⟨10, 11, 0x801⟩),
   (0x8015D573, .csrrwi ⟨10, 11, 0x801⟩), (0x8015E573, .csrrsi ⟨10, 11, 0x801⟩),
   (0x8015F573, .csrrci ⟨10, 11, 0x801⟩)] : List (IWord × Instr)).all (fun p => reads p.1 p.2) = true := by decide

/-- The A extension, .aq on words and .rl on doublewords. -/
theorem test_decode_atomics : ([
  (0x1405A52F, .lrW ⟨true, false, 0, 11, 10⟩), (0x1CC5A52F, .scW ⟨true, false, 12, 11, 10⟩),
   (0x0CC5A52F, .amoswapW ⟨true, false, 12, 11, 10⟩), (0x04C5A52F, .amoaddW ⟨true, false, 12, 11, 10⟩),
   (0x24C5A52F, .amoxorW ⟨true, false, 12, 11, 10⟩), (0x64C5A52F, .amoandW ⟨true, false, 12, 11, 10⟩),
   (0x44C5A52F, .amoorW ⟨true, false, 12, 11, 10⟩), (0x84C5A52F, .amominW ⟨true, false, 12, 11, 10⟩),
   (0xA4C5A52F, .amomaxW ⟨true, false, 12, 11, 10⟩), (0xC4C5A52F, .amominuW ⟨true, false, 12, 11, 10⟩),
   (0xE4C5A52F, .amomaxuW ⟨true, false, 12, 11, 10⟩), (0x1205B52F, .lrD ⟨false, true, 0, 11, 10⟩),
   (0x1AC5B52F, .scD ⟨false, true, 12, 11, 10⟩), (0x0AC5B52F, .amoswapD ⟨false, true, 12, 11, 10⟩),
   (0x02C5B52F, .amoaddD ⟨false, true, 12, 11, 10⟩), (0x22C5B52F, .amoxorD ⟨false, true, 12, 11, 10⟩),
   (0x62C5B52F, .amoandD ⟨false, true, 12, 11, 10⟩), (0x42C5B52F, .amoorD ⟨false, true, 12, 11, 10⟩),
   (0x82C5B52F, .amominD ⟨false, true, 12, 11, 10⟩), (0xA2C5B52F, .amomaxD ⟨false, true, 12, 11, 10⟩),
   (0xC2C5B52F, .amominuD ⟨false, true, 12, 11, 10⟩), (0xE2C5B52F, .amomaxuD ⟨false, true, 12, 11, 10⟩)] : List (IWord × Instr)).all (fun p => reads p.1 p.2) = true := by decide

/-- Custom-0 (R31), the fields as the rows of the table show them. -/
theorem test_decode_custom0 : ([
  (0x1AC5040B, .vadd ⟨1, true, false, true, 12, 10, 8⟩), (0x5AC5040B, .vsub ⟨1, true, false, true, 12, 10, 8⟩),
   (0x9AC5040B, .vmul ⟨1, true, false, true, 12, 10, 8⟩), (0xDAC5040B, .vfma ⟨1, true, false, true, 12, 10, 8⟩),
   (0x1AC5140B, .vfms ⟨1, true, false, true, 12, 10, 8⟩), (0x5AC5140B, .vmin ⟨1, true, false, true, 12, 10, 8⟩),
   (0x9AC5140B, .vmax ⟨1, true, false, true, 12, 10, 8⟩), (0xDAC5140B, .vsel ⟨1, true, false, true, 12, 10, 8⟩),
   (0x1AC5240B, .vand ⟨1, true, false, true, 12, 10, 8⟩), (0x5AC5240B, .vor ⟨1, true, false, true, 12, 10, 8⟩),
   (0x9AC5240B, .vxor ⟨1, true, false, true, 12, 10, 8⟩), (0xDAC5240B, .vsll ⟨1, true, false, true, 12, 10, 8⟩),
   (0x1AC5340B, .vsrl ⟨1, true, false, true, 12, 10, 8⟩), (0x5AC5340B, .vsra ⟨1, true, false, true, 12, 10, 8⟩),
   (0x9AC5340B, .vcmpeq ⟨1, true, false, true, 12, 10, 8⟩),
   (0xDAC5340B, .vcmplt ⟨1, true, false, true, 12, 10, 8⟩),
   (0x1AC5440B, .vcmple ⟨1, true, false, true, 12, 10, 8⟩), (0x5AC5440B, .vaddx ⟨1, true, false, true, 12, 10, 8⟩),
   (0x9AC5440B, .vmulx ⟨1, true, false, true, 12, 10, 8⟩), (0xDAC5440B, .vfmx ⟨1, true, false, true, 12, 10, 8⟩),
   (0x1205540B, .vbcast ⟨1, false, false, true, 0, 10, 8⟩), (0x5205540B, .vrcp ⟨1, false, false, true, 0, 10, 8⟩),
   (0x9205540B, .vrsq ⟨1, false, false, true, 0, 10, 8⟩), (0xD205540B, .vexp2 ⟨1, false, false, true, 0, 10, 8⟩),
   (0x1205640B, .vlog2 ⟨1, false, false, true, 0, 10, 8⟩),
   (0x5205640B, .vredsum ⟨1, false, false, true, 0, 10, 8⟩),
   (0x9205640B, .vredmax ⟨1, false, false, true, 0, 10, 8⟩),
   (0xD205640B, .vredmin ⟨1, false, false, true, 0, 10, 8⟩), (0x1200740B, .vidx ⟨1, false, false, true, 0, 0, 8⟩),
   (0x5205740B, .vmov ⟨1, false, false, true, 0, 10, 8⟩), (0x9AC5740B, .vdot4 ⟨1, true, false, true, 12, 10, 8⟩)] : List (IWord × Instr)).all (fun p => reads p.1 p.2) = true := by decide

/-- Custom-1 (R32). -/
theorem test_decode_custom1 : ([
  (0x1205042B, .vld ⟨1, false, false, true, 0, 10, 8⟩), (0x5205042B, .vst ⟨1, false, false, true, 0, 10, 8⟩),
   (0x9AC5042B, .vlds ⟨1, true, false, true, 12, 10, 8⟩), (0xDAC5042B, .vsts ⟨1, true, false, true, 12, 10, 8⟩),
   (0x1AC5142B, .vldx ⟨1, true, false, true, 12, 10, 8⟩), (0x5AC5142B, .vstx ⟨1, true, false, true, 12, 10, 8⟩),
   (0x9005142B, .vgld ⟨1, false, false, false, 0, 10, 8⟩), (0xDAC5142B, .vslup ⟨1, true, false, true, 12, 10, 8⟩),
   (0x1AC5242B, .vsldn ⟨1, true, false, true, 12, 10, 8⟩), (0x5AC5242B, .vperm ⟨1, true, false, true, 12, 10, 8⟩),
   (0x9205242B, .vcvt ⟨1, false, false, true, 0, 10, 8⟩), (0xD0C5242B, .vqblk ⟨1, false, false, false, 12, 10, 8⟩),
   (0x18C5342B, .vdqblk ⟨1, true, false, false, 12, 10, 8⟩)] : List (IWord × Instr)).all (fun p => reads p.1 p.2) = true := by decide

/-- Custom-2 (R33). -/
theorem test_decode_custom2 : ([
  (0x18C5045B, .tld ⟨1, true, false, false, 12, 10, 8⟩), (0x58C5045B, .tst ⟨1, true, false, false, 12, 10, 8⟩),
   (0x9000045B, .tzero ⟨1, false, false, false, 0, 0, 8⟩), (0xC005045B, .lease ⟨0, false, false, false, 0, 10, 8⟩),
   (0x0005105B, .unlease ⟨0, false, false, false, 0, 10, 0⟩), (0x5AC5145B, .mma ⟨1, true, false, true, 12, 10, 8⟩),
   (0x9AC5145B, .mmz ⟨1, true, false, true, 12, 10, 8⟩), (0xDAC5145B, .mmaq ⟨1, true, false, true, 12, 10, 8⟩),
   (0x0000205B, .tsync ⟨0, false, false, false, 0, 0, 0⟩), (0x48C5245B, .tget ⟨0, true, false, false, 12, 10, 8⟩),
   (0x98C5245B, .tins ⟨1, true, false, false, 12, 10, 8⟩), (0xD005245B, .tcvt ⟨1, false, false, false, 0, 10, 8⟩),
   (0x1005345B, .ttrn ⟨1, false, false, false, 0, 10, 8⟩)] : List (IWord × Instr)).all (fun p => reads p.1 p.2) = true := by decide

/-- Custom-3 (R34). -/
theorem test_decode_custom3 : ([
  (0x04C5047B, .cadd ⟨true, false, 12, 10, 8⟩), (0x0CC5047B, .cwait ⟨true, false, 12, 10, 8⟩),
   (0x1405047B, .cpoll ⟨true, false, 0, 10, 8⟩), (0x1CC5047B, .cwaitt ⟨true, false, 12, 10, 8⟩),
   (0x24C5047B, .cset ⟨true, false, 12, 10, 8⟩), (0x2C00047B, .calloc ⟨true, false, 0, 0, 8⟩),
   (0x3405007B, .cfree ⟨true, false, 0, 10, 0⟩), (0x3CC5007B, .carm ⟨true, false, 12, 10, 0⟩),
   (0x04C5107B, .send ⟨true, false, 12, 10, 0⟩), (0x0CC5107B, .sendg ⟨true, false, 12, 10, 0⟩),
   (0x14C5147B, .spawn ⟨true, false, 12, 10, 8⟩), (0x1C00107B, .endh ⟨true, false, 0, 0, 0⟩),
   (0x2405107B, .exit ⟨true, false, 0, 10, 0⟩), (0x2CC5107B, .kill ⟨true, false, 12, 10, 0⟩),
   (0x3405107B, .link ⟨true, false, 0, 10, 0⟩), (0x3C05107B, .unlink ⟨true, false, 0, 10, 0⟩),
   (0x4405107B, .mon ⟨true, false, 0, 10, 0⟩), (0x4C05107B, .demon ⟨true, false, 0, 10, 0⟩),
   (0x54C5147B, .tmov ⟨true, false, 12, 10, 8⟩), (0x5C05107B, .trapx ⟨true, false, 0, 10, 0⟩),
   (0x04C5247B, .famoaddS ⟨true, false, 12, 10, 8⟩), (0x0CC5247B, .famominS ⟨true, false, 12, 10, 8⟩),
   (0x14C5247B, .famomaxS ⟨true, false, 12, 10, 8⟩), (0x1CC5247B, .casD ⟨true, false, 12, 10, 8⟩),
   (0x0005307B, .colset ⟨false, false, 0, 10, 0⟩), (0x0805307B, .colclr ⟨false, false, 0, 10, 0⟩),
   (0x1005307B, .supadd ⟨false, false, 0, 10, 0⟩), (0x1805307B, .supdel ⟨false, false, 0, 10, 0⟩),
   (0x20C5307B, .stinval ⟨false, false, 12, 10, 0⟩), (0x2805307B, .ctxsave ⟨false, false, 0, 10, 0⟩),
   (0x3005307B, .ctxload ⟨false, false, 0, 10, 0⟩)] : List (IWord × Instr)).all (fun p => reads p.1 p.2) = true := by decide

/-- LOOP on level 1 from a0 over 100 words (R33, R36), FMT with rounding 5 (R37), MOD with ABS, CLAMP and k = 3 (R38). -/
theorem test_decode_loop_prefix : ([
  (0x064560DB, .loop true 10 100), (0x148FF65B, .fmt 5 8 31 12), (0x2A30705B, .mod true false true false 3)] : List (IWord × Instr)).all (fun p => reads p.1 p.2) = true := by decide

/-! ## Small states -/

/-- The state that the instruction leaves. -/
def after (i : Instr) (s : State) : State :=
  match exec i s with
  | .next t => t
  | .fault _ | .refused _ => s

/-- A state after reset with the given x registers. -/
def regsOf (l : List (Nat × Word)) (s : State) : State := l.foldl (fun t r => writeX r.1 r.2 t) s

def vregsOf (l : List (Nat × BitVec 512)) (s : State) : State := l.foldl (fun t r => writeV r.1 r.2 t) s

/-- After reset, with an image that the boot ROM accepts. -/
def s0 : State :=
  let s := State.reset
  { s with ras := { s.ras with romHeld := false }, host := { s.host with mgmt := [] } }

/-- In U-mode, with the handler of an actor whose state range is the scratchpad's first 4 KB. -/
def userState : State :=
  { s0 with hart := { s0.hart with priv := .user, pc := 0x80000 }
            act := { ActCsrs.zero with name := 0x0000000000000001, slimit := 0x1000 } }

def supState : State := { s0 with hart := { s0.hart with priv := .supervisor } }

/-- The default format. -/
def withFmt (f : BitVec 5) (s : State) : State := { s with user := { s.user with fmt := f } }

/-- Bytes in the scratchpad of core 0. -/
def withBytes (key : Nat) (b : List Byte) (s : State) : State := writeKey s key b

def x (s : State) (n : Nat) : Word := (getX s n).val

/-! ## Base instructions (RISC-V unprivileged specification) -/

theorem test_add_wraps :
    x (after (.integerOp (.reg .add 10 11 12)) (regsOf [(11, 0xFFFFFFFFFFFFFFFF), (12, 2)] s0)) 10 = 1 := by decide

theorem test_source_is_destination :
    x (after (.integerOp (.reg .sub 10 10 11)) (regsOf [(10, 5), (11, 7)] s0)) 10 = 0xFFFFFFFFFFFFFFFE := by decide

theorem test_addiw_sign_extends :
    x (after (.integerOp (.imm .addiw 10 11 1)) (regsOf [(11, 0x7FFFFFFF)] s0)) 10 = 0xFFFFFFFF80000000 := by decide

theorem test_sraw : x (after (.integerOp (.reg .sraw 10 11 12)) (regsOf [(11, 0x80000000), (12, 36)] s0)) 10
    = 0xFFFFFFFFF8000000 := by decide

theorem test_x0_discards : x (after (.integerOp (.imm .addi 0 0 5)) s0) 0 = 0 := by decide

theorem test_lui_auipc : x (after (.lui 10 0x80000) s0) 10 = 0xFFFFFFFF80000000 ∧
    x (after (.auipc 10 0xFFFFF) s0) 10 = s0.hart.pc - 0x1000 := by decide

theorem test_mulhsu : x (after (.multiplyDivide .mulhsu 10 11 12)
    (regsOf [(11, 0xFFFFFFFFFFFFFFFF), (12, 0xFFFFFFFFFFFFFFFF)] s0)) 10 = 0xFFFFFFFFFFFFFFFF := by decide

theorem test_division_corners :
    x (after (.multiplyDivide .div 10 11 12) (regsOf [(11, 7)] s0)) 10 = 0xFFFFFFFFFFFFFFFF ∧
    x (after (.multiplyDivide .rem 10 11 12) (regsOf [(11, 7)] s0)) 10 = 7 ∧
    x (after (.multiplyDivide .div 10 11 12) (regsOf [(11, 0x8000000000000000), (12, 0xFFFFFFFFFFFFFFFF)] s0)) 10
      = 0x8000000000000000 ∧
    x (after (.multiplyDivide .remw 10 11 12) (regsOf [(11, 0x80000000), (12, 0xFFFFFFFF)] s0)) 10 = 0 := by decide

theorem test_zbb : x (after (.bitManipulation (.un .clz 10 11)) (regsOf [(11, 1)] s0)) 10 = 63 ∧
    x (after (.bitManipulation (.un .ctzw 10 11)) (regsOf [(11, 0x100000000)] s0)) 10 = 32 ∧
    x (after (.bitManipulation (.un .orcb 10 11)) (regsOf [(11, 0x0100000080000000)] s0)) 10 = 0xFF000000FF000000 ∧
    x (after (.bitManipulation (.un .rev8 10 11)) (regsOf [(11, 0x0102030405060708)] s0)) 10 = 0x0807060504030201 := by decide

theorem test_zba : x (after (.bitManipulation (.reg .sh3adduw 10 11 12)) (regsOf [(11, 0xF00000001), (12, 4)] s0)) 10 = 12 ∧
    x (after (.bitManipulation (.shift .slliuw 10 11 4)) (regsOf [(11, 0xFFFFFFFF80000000)] s0)) 10 = 0x800000000 := by decide

theorem test_branch : (after (.branch ⟨.lt, 11, 12, 0xFFE⟩) (regsOf [(11, 0xFFFFFFFFFFFFFFFF)] s0)).hart.pc = s0.hart.pc - 4 ∧
    (after (.branch ⟨.ltu, 11, 12, 0xFFE⟩) (regsOf [(11, 0xFFFFFFFFFFFFFFFF)] s0)).hart.pc = s0.hart.pc + 4 := by decide

theorem test_jalr : let t := after (.jump (.jalr 11 11 3)) (regsOf [(11, 0x1002)] s0)
    t.hart.pc = 0x1004 ∧ x t 11 = s0.hart.pc + 4 := by decide

theorem test_jal_misaligned : let t := after (.jump (.jal 1 1)) s0
    t.mach.mcause = 0 ∧ t.mach.mtval = s0.hart.pc + 2 ∧ x t 1 = 0 := by decide

theorem test_ecall_ebreak : (after .ecall s0).mach.mcause = 11 ∧ (after .ecall supState).mach.mcause = 9 ∧
    (after .ecall userState).mach.mcause = 8 ∧ (after .ebreak s0).mach.mtval = s0.hart.pc := by decide

theorem test_delegated_ecall :
    let t := after .ecall { userState with mach := { userState.mach with medeleg := 0x100 }
                                           sup := { userState.sup with stvec := 0x9000 } }
    t.hart.priv = .supervisor ∧ t.hart.pc = 0x9000 ∧ t.sup.scause = 8 ∧ t.sup.sepc = 0x80000 := by decide

theorem test_mret : let t := after .mret { s0 with mach := { s0.mach with mepc := 0x4000, status :=
      { s0.mach.status with mpp := .supervisor, mpie := true, mprv := true } } }
    t.hart.pc = 0x4000 ∧ t.hart.priv = .supervisor ∧ t.mach.status.mie = true ∧ t.mach.status.mpp = .user ∧
    t.mach.status.mprv = false := by decide

theorem test_sret_user_illegal : let t := after .sret userState
    t.mach.mcause = 2 ∧ t.mach.mtval = 0x10200073 := by decide

theorem test_sfence_illegal : let t := after (.sfenceVma 0 0) s0
    t.mach.mcause = 2 ∧ t.mach.mtval = 0x12000073 := by decide

theorem test_wfi : (after .wfi s0).hart.wait = .wfi ∧
    (after .wfi { s0 with mach := { s0.mach with mip := 2, mie := 2 } }).hart.pc = s0.hart.pc + 4 := by decide

/-! ## Loads, stores, atomics -/

def mem8 : State := withBytes 0x100 [0x80, 1, 2, 3, 4, 5, 6, 0xF7] (regsOf [(11, 0x100), (12, 0x1122334455667788)] s0)

theorem test_loads : x (after (.lb ⟨10, 11, 0⟩) mem8) 10 = 0xFFFFFFFFFFFFFF80 ∧ x (after (.lbu ⟨10, 11, 0⟩) mem8) 10 = 0x80 ∧
    x (after (.lhu ⟨10, 11, 2⟩) mem8) 10 = 0x0302 ∧ x (after (.lw ⟨10, 11, 4⟩) mem8) 10 = 0xFFFFFFFFF7060504 ∧
    x (after (.ld ⟨10, 11, 0⟩) mem8) 10 = 0xF706050403020180 := by decide

theorem test_store : let t := after (.sh ⟨12, 11, 2⟩) mem8
    Memory.read t.mem 0x100 8 = [0x80, 1, 0x88, 0x77, 4, 5, 6, 0xF7] := by decide

theorem test_misaligned : (after (.lw ⟨10, 11, 2⟩) mem8).mach.mcause = 4 ∧ (after (.sd ⟨12, 11, 4⟩) mem8).mach.mcause = 6 ∧
    (after (.sd ⟨12, 11, 4⟩) mem8).mach.mtval = 0x104 := by decide

theorem test_out_of_range : (after (.lb ⟨10, 11, 0⟩) (regsOf [(11, 0x1000)] userState)).mach.mcause = 5 ∧
    (after (.sb ⟨10, 11, 0⟩) (regsOf [(11, 0x1000)] userState)).mach.mcause = 7 ∧
    (after (.lb ⟨10, 11, 0⟩) (regsOf [(11, 0xFFF)] userState)).hart.pc = 0x80004 := by decide

theorem test_translated_load : let t := after (.ld ⟨10, 11, 0⟩) (regsOf [(11, 0x100000)] s0)
    (getX t 10).st = .empty s0.hart.pc ∧ t.hart.pc = s0.hart.pc + 4 ∧ t.off.jobs.length = 1 := by decide

theorem test_translated_store : let t := after (.sw ⟨12, 11, 0⟩) (regsOf [(11, 0x100000), (12, 7)] s0)
    t.off.drain.length = 1 ∧ t.mem = [] := by decide

theorem test_amo : let t := after (.amoaddW (rt 12 11 10)) (regsOf [(12, 0xFFFFFFFF)] mem8)
    x t 10 = 0x03020180 ∧ Memory.read t.mem 0x100 4 = [0x7F, 1, 2, 3] := by decide

theorem test_amomin_signed : let t := after (.amominW (rt 12 11 10)) (regsOf [(11, 0x104), (12, 1)] mem8)
    x t 10 = 0xFFFFFFFFF7060504 ∧ Memory.read t.mem 0x104 4 = [4, 5, 6, 0xF7] := by decide

theorem test_cas : let s := regsOf [(10, 0xF706050403020180), (12, 9)] mem8
    Memory.read (after (.casD (rt 12 11 10)) s).mem 0x100 8 = [9, 0, 0, 0, 0, 0, 0, 0] ∧
    Memory.read (after (.casD (rt 12 11 10)) (regsOf [(10, 1)] s)).mem 0x100 2 = [0x80, 1] := by decide

theorem test_lr_sc : let s := after (.lrD (rt 0 11 10)) mem8
    x (after (.scD (rt 12 11 13)) s) 13 = 0 ∧ x (after (.scD (rt 12 11 13)) mem8) 13 = 1 ∧
    Memory.read (after (.scD (rt 12 11 13)) s).mem 0x100 2 = [0x88, 0x77] ∧
    x (after (.scD (rt 12 11 13)) (after (.sb ⟨12, 11, 7⟩) s)) 13 = 1 := by decide

/-- R415: famoadd.s of 1.0 and 2.0 leaves 3.0. -/
theorem test_famoadd : let t := after (.famoaddS (rt 12 11 10)) (withBytes 0x100 [0, 0, 0x80, 0x3F] (regsOf [(12, 0x40000000)] mem8))
    Memory.read t.mem 0x100 4 = [0, 0, 0x40, 0x40] ∧ x t 10 = 0x3F800000 := by decide

/-! ## CSRs, loops, prefixes -/

/-- R103: vflags (0x801) is five bits wide; a CSR that does not exist is illegal. -/
theorem test_csr : let t := after (.csrrw ⟨10, 11, 0x801⟩) (regsOf [(11, 0xFFFF)] s0)
    t.user.vflags = 0x1F ∧ x t 10 = 0 ∧ (after (.csrrs ⟨10, 0, 0x7FF⟩) s0).mach.mcause = 2 := by decide

theorem test_csr_privilege : (after (.csrrs ⟨10, 0, 0x105⟩) userState).mach.mcause = 2 ∧
    (after (.csrrwi ⟨10, 3, 0xC00⟩) s0).mach.mcause = 2 := by decide

/-- R153: a loop with count 0 goes past its body. -/
theorem test_loop : (after (.loop false 11 3) s0).hart.pc = s0.hart.pc + 16 ∧
    (after (.loop false 11 3) (regsOf [(11, 2)] s0)).hart.loop0 =
      { start := s0.hart.pc + 4, last := s0.hart.pc + 12, count := 2 } := by decide

/-- R154: the last body word goes back to the start while the count stays above 0. -/
theorem test_loop_end : let s := { s0 with hart := { s0.hart with loop0 := { start := 0x70000, last := s0.hart.pc, count := 2 } } }
    let t := after (.integerOp (.imm .addi 10 0 1)) s
    t.hart.pc = 0x70000 ∧ t.hart.loop0.count = 1 ∧
    (after (.integerOp (.imm .addi 10 0 1)) { t with hart := { t.hart with pc := s0.hart.pc } }).hart.pc = s0.hart.pc + 4 := by decide

/-- R39, R40: a prefix stays pending, and an instruction that takes none is illegal behind it, at the prefix's address. -/
theorem test_prefix : let s := after (.fmt 0 31 31 12) s0
    s.hart.pend.fv = true ∧ (after .ecall s).mach.mcause = 2 ∧ (after .ecall s).mach.mepc = s0.hart.pc := by decide

/-! ## Vectors -/

def elem (w : Nat) (s : State) (r k : Nat) : Nat := elemAt w (getV s r).val.toNat k

/-- i8 (code 8) wraps; f32 (code 0): 1.0 + 2.0 = 3.0, and 0.1 + 0.2 rounds to nearest. -/
theorem test_vadd : elem 8 (after (.vadd (vt 0 false false false 2 1 3)) (withFmt 8 (vregsOf [(1, 0xC8FF), (2, 0x6402)] s0))) 3 0 = 1 ∧
    elem 8 (after (.vadd (vt 0 false false false 2 1 3)) (withFmt 8 (vregsOf [(1, 0xC8FF), (2, 0x6402)] s0))) 3 1 = 0x2C ∧
    elem 32 (after (.vadd (vt 0 false false false 2 1 3)) (vregsOf [(1, 0x3DCCCCCD3F800000), (2, 0x3E4CCCCD40000000)] s0)) 3 0
      = 0x40400000 ∧
    elem 32 (after (.vadd (vt 0 false false false 2 1 3)) (vregsOf [(1, 0x3DCCCCCD3F800000), (2, 0x3E4CCCCD40000000)] s0)) 3 1
      = 0x3E99999A := by decide +kernel

/-- One rounding: 3 × 5 + 7 = 22 in f32; the mask keeps d. -/
theorem test_vfma_masked : let s := vregsOf [(0, 1), (1, 0x4040000040400000), (2, 0x40A0000040A00000), (3, 0x40E0000040E00000)] s0
    elem 32 (after (.vfma (vt 0 false false true 2 1 3)) s) 3 0 = 0x41B00000 ∧
    elem 32 (after (.vfma (vt 0 false false true 2 1 3)) s) 3 1 = 0x40E00000 := by decide +kernel

theorem test_vcmp_signed : let s := withFmt 8 (vregsOf [(1, 0x80), (2, 0x01)] s0)
    elem 8 (after (.vcmplt (vt 0 false false false 2 1 3)) s) 3 0 = 0xFF ∧
    elem 8 (after (.vcmplt (vt 0 false false false 2 1 3)) s) 3 1 = 0 ∧
    elem 8 (after (.vcmplt (vt 0 false false false 2 1 3)) (withFmt 9 s)) 3 0 = 0 := by decide +kernel

theorem test_vredsum : let t := after (.vredsum (vt 0 false false false 0 1 3)) (withFmt 12 (vregsOf [(1, 0x00000001FFFFFFFF00000005)] s0))
    elem 32 t 3 0 = 5 ∧ elem 32 t 3 1 = 0 := by decide +kernel

/-- R151: with i8 sources and fD = i32 each element gains four products. -/
theorem test_vdot4 : let s := after (.fmt 0 8 8 12) (vregsOf [(1, 0xFF020304), (2, 0x01010102), (3, 100)] s0)
    elem 32 (after (.vdot4 (vt 0 false false false 2 1 3)) s) 3 0 = 112 := by decide +kernel

theorem test_vld_vst : let s := withFmt 8 mem8
    elem 8 (after (.vld (vt 0 false false false 0 11 3)) s) 3 7 = 0xF7 ∧
    Memory.read (after (.vst (vt 0 false false false 0 11 3)) (vregsOf [(3, 0x0A0B)] s)).mem 0x100 3 = [0x0B, 0x0A, 0] := by decide +kernel

/-- f32 to i8: 2.5 rounds to the even 2; 200 has no i8 without SAT (OFT is 1 at reset): cause 27 with the element. -/
theorem test_vcvt : let s := after (.fmt 0 31 0 8) (vregsOf [(4, 0x4348000040200000)] s0)
    let u := after (.fmt 0 31 0 8) (vregsOf [(4, 0x40200000)] s0)
    elem 8 (after (.vcvt (vt 0 false false false 0 4 3)) u) 3 0 = 2 ∧
    (after (.vcvt (vt 0 false false false 0 4 3)) s).mach.mcause = 27 ∧
    (after (.vcvt (vt 0 false false false 0 4 3)) s).mach.mtval = 1 := by decide +kernel

/-! ## Tiles and the Array -/

/-- A shape: format, columns, rows. -/
def shape (f c r : Nat) : BitVec 22 := BitVec.ofNat 22 (f * 2 ^ 17 + c * 2 ^ 8 + r)

/-- M-mode with the shapes of tiles 0, 2, 4 and 6: i8 2 × 4, i8 2 × 4, i32 2 × 2, i8 4 × 2, and this core's lease held. -/
def tileState : State :=
  writeM 0 0x0807060504030201 (writeM 2 0x0101010102020202 (writeM 4 0x00000064 { s0 with
    user := { s0.user with tshape := ((((s0.user.tshape.setIfInBounds 0 (shape 8 4 2)).setIfInBounds 2 (shape 8 4 2)).setIfInBounds 4
      (shape 12 2 2)).setIfInBounds 6 (shape 8 2 4)) }
    arr := { s0.arr with leases := s0.arr.leases.setIfInBounds 0 { Lease.zero with st := .held, count := 1, mask := 1 } } }))

/-- R199, R206: zero, and the transposed elements. -/
theorem test_tzero : (getM (after (.tzero (vt 0 false false false 0 0 0)) tileState) 0).val = 0 := by decide +kernel

theorem test_ttrn : (getM (after (.ttrn (vt 0 false false false 0 0 6)) tileState) 6).val = 0x0804070306020501 := by decide +kernel

/-- R204: element (1, 2) onwards, the row's rest, then zeros; one element put back into row 0. -/
theorem test_tget_tins : let s := regsOf [(11, 1)] tileState
    elem 8 (after (.tget (vt 0 false false false 11 0 3)) s) 3 3 = 8 ∧ elem 8 (after (.tget (vt 0 false false false 11 0 3)) s) 3 4 = 0 ∧
    (getM (after (.tins (vt 0 false false false 0 3 0)) (vregsOf [(3, 0xFFFFFFFFFFFFFFFF)] s)) 0).val = 0x08070605FFFFFFFF := by
  decide +kernel

/-- R198: row r goes to base + r × stride. -/
theorem test_tst : let t := after (.tst (vt 0 false false false 12 11 0)) (regsOf [(11, 0x100), (12, 0x20)] tileState)
    Memory.read t.mem 0x100 5 = [1, 2, 3, 4, 0] ∧ Memory.read t.mem 0x120 4 = [5, 6, 7, 8] := by decide +kernel

theorem test_tld : let t := after (.tld (vt 0 false false false 12 11 0)) (withBytes 0x100 [9, 9] (regsOf [(11, 0x100), (12, 0x20)] tileState))
    (getM t 0).st = .empty s0.hart.pc ∧
    (getM (after (.producerCompletion 1 0 (.bytes [])) t) 0) = { val := 0x0909, st := .full } := by decide +kernel

/-- The command of D += A × Bᵀ waits, starts and fills D: 2 × (1 + 2 + 3 + 4) + 100, its sum with the second row of B. -/
def queued : State := after (.mma (vt 0 false false false 2 0 4)) tileState

theorem test_mma : queued.arr.queue.length = 1 ∧ (getM queued 4).st = .empty s0.hart.pc ∧
    (getM (after .arrayCommandComplete (after .arrayCommandStart queued)) 4).val = 0x0000001A000000340000000A00000078 := by
  decide +kernel

theorem test_mma_without_lease : (after (.mma (vt 0 false false false 2 0 4)) { tileState with arr := ArrayUnit.reset }).mach.mcause = 29 := by
  decide +kernel

/-- R202, R183: the token carries the count and the lane groups of the grant. -/
theorem test_lease : let t := after .leaseGrant (after (.lease (vt 0 false false false 0 11 10)) (regsOf [(11, 2)] s0))
    (leaseOf t 0).st = .held ∧ (leaseOf t 0).count = 2 ∧ getX t 10 = { val := 0x23, st := .full } := by decide +kernel

theorem test_lease_twice : (after (.lease (vt 0 false false false 0 11 10)) (regsOf [(11, 2)] tileState)).mach.mcause = 29 := by
  decide +kernel

theorem test_tsync : (after (.tsync (vt 0 false false false 0 0 0)) queued).hart.wait = .issue 0 false ∧
    (after (.tsync (vt 0 false false false 0 0 0)) tileState).hart.pc = s0.hart.pc + 4 := by decide +kernel

/-- The result queue gives its oldest entry (R192). -/
theorem test_qres : let s := { s0 with arr := { s0.arr with results := [5, 6] } }
    x (after (.qresRead 10) s) 10 = 5 ∧ (after (.qresRead 10) s).arr.results = [6] ∧
    (after (.qresRead 10) s0).hart.wait = .csr 0 := by decide

/-! ## A machine with an actor, a counter, and a host -/

/-- The first handle of cluster 0: index 4 with check 7. -/
def h4 : Word := mkHandle 0 0 4 7

def live (v : Word) : Counter := { st := .live, value := v, check := 7, owner := 0, pid := 0, worn := false }

/-- Counter 4 of cluster 0 is LIVE with value 5. -/
def ctrState : State := setCounter 4 (live 5) s0

def anyone : Issuer := { pid := 0, cluster := 0, actor := 0x40000007, anyJob := false }

/-- R267: an add returns the old value and wakes who waits for at most the new one (R257). -/
theorem test_cadd_wakes : let s := after (.homeCwait h4 6 anyone (.job 1 0)) ctrState
    let t := after (.homeCadd h4 1 anyone (.job 2 0)) s
    s.ctr.waiters.length = 1 ∧ t.ctr.waiters = [] ∧ (counterAt t 4).value = 6 ∧
    t.sched.agenda.map (·.ev) = [.producerCompletion 1 0 (.value 6), .producerCompletion 2 0 (.value 5)] := by decide +kernel

/-- R250: another check is STALE_COUNTER; R253: cset mends a POISONED counter. -/
theorem test_stale : (after (.homeCpoll (mkHandle 0 0 4 8) anyone (.job 1 0)) ctrState).sched.agenda.map (·.ev)
    = [.producerCompletion 1 0 (.failed dStaleCounter 0)] := by decide +kernel

theorem test_calloc : let t := after (.homeCalloc anyone (.job 1 0)) s0
    t.sched.agenda.map (·.ev) = [.producerCompletion 1 0 (.value 0x0000000040000007)] ∧ (counterAt t 1).st = .live ∧
    (after (.homeCfree 0x0000000040000007 anyone .none) t).ctr.banks = [(0, { fresh := 2, freed := [1] })] := by decide +kernel

/-- The hart side: cadd is a producer of class 3; cfree holds the hart until its answer. -/
theorem test_cadd : let t := after (.cadd (rt 12 11 10)) (regsOf [(11, h4), (12, 1)] ctrState)
    (getX t 10).st = .empty s0.hart.pc ∧ t.sched.agenda.map (·.ev) = [.homeCadd h4 1 (issuerOf ctrState) (.job 1 0)] := by decide +kernel

theorem test_cfree : let t := after (.cfree (rt 0 11 0)) (regsOf [(11, h4)] ctrState)
    t.hart.wait = .response ∧ (after (.cfree (rt 0 11 0)) (after (.counterResponseArrival (.value 0)) t)).hart.pc = s0.hart.pc + 4 ∧
    (after (.cfree (rt 0 11 0)) (after (.counterResponseArrival (.failed dStaleCounter 0)) t)).mach.mcause = 28 := by decide +kernel

theorem test_timeline : let s := after (.homeCwait 0 10 anyone (.job 1 0)) s0
    (after (.timelineTick 9) s).ctr.waiters.length = 1 ∧ (after (.timelineTick 10) s).ctr.waiters = [] := by decide +kernel

/-- R274: the host's add to a FREE counter is dropped with a record of KIND 12. -/
theorem test_host_counter : let s := { ctrState with host := { ctrState.host with ready := true } }
    (counterAt (after (.hostCounterAdd (0x2000000 + 8 * 4) 8 3) s) 4).value = 8 ∧
    ((after (.hostCounterAdd (0x2000000 + 8 * 9) 8 3) s).ras.packageLog.map fun r => r.word0) = [0x0CE0000100000009] ∧
    (after (.hostCounterAdd (0x2000000 + 8 * 4) 8 3) ctrState) = ctrState := by decide +kernel

/-- The actor of slot 1 on core 0, incarnation 1: a 64-byte mailbox at 0x1000, its counters 1 to 3 of cluster 0. -/
def actor1 (st : ActorSt) : Actor :=
  { Actor.zero with
    st := st, inc := 1, typ := 2, sbase := 0x1000, reserveIx := 1, commitIx := 2, consumeIx := 3
    snap := { Actor.zero.snap with handler := 0x90000, mbox := 64, size := 0x400, work := 0x200, prio := 1, budget := 12 } }

def name1 : Word := mkName 0 0 1 1
def name2 : Word := mkName 0 0 2 1

def actor2 : Actor := { actor1 .idle with sbase := 0x2000, reserveIx := 5, commitIx := 6, consumeIx := 7 }

/-- Actors 1 and 2 in the given states, with empty mailboxes. -/
def actorState (st1 st2 : ActorSt) : State :=
  let s1 := [1, 2, 3, 5, 6, 7].foldl (fun t k => setCounter k (live 0) t) s0
  setActor 1 (actor1 st1) (setActor 2 { actor2 with st := st2 } s1)

/-- The handler of actor 1 runs in U-mode, with a record of 32 bytes in hand. -/
def handlerState : State :=
  let s := setCounter 1 (live 32) (setCounter 2 (live 32) (actorState .running .idle))
  let s1 := writeKey s 0x1000 [16, 0, 0, 0]
  { s1 with
    hart := { s1.hart with priv := .user, pc := 0x90000 }
    act := { ActCsrs.zero with name := name1, sbase := 0x1000, slimit := 0x1400 }, sup := { s1.sup with hrem := 100 } }

def msg (kind : BitVec 8) (payload : List Byte) : Record :=
  { dst := name1, flood := false, kind := kind, flags := 0, tag := 9, sender := name2, pid := 0, payload := payload }

/-- R328: a record is written at the reserve position and committed, and the IDLE actor becomes RUNNABLE. -/
theorem test_admit : let t := after (.recordAdmit (msg 0 [1, 2, 3])) (actorState .idle .idle)
    Memory.read t.mem 0x1000 8 = [3, 0, 0, 0, 9, 0, 0, 0] ∧ Memory.read t.mem 0x1008 8 = wordToBytes 8 name2 ∧
    Memory.read t.mem 0x1010 4 = [1, 2, 3, 0] ∧ mailboxValue t 0 2 = 32 ∧ (actorAt t 1).st = .runnable := by decide +kernel

/-- R329: the third 32-byte message does not fit the 64 bytes, and ends the actor with reason 4. -/
theorem test_overflow : let s := setCounter 1 (live 64) (setCounter 2 (live 64) (actorState .idle .idle))
    let t := after (.recordAdmit (msg 0 [1, 2, 3])) s
    (actorAt t 1).st = .exiting ∧ (actorAt t 1).death.map (fun d => (d.reason, d.detail)) = some (4, name2) ∧
    (actorAt (after (.recordAdmit (msg 1 [1, 2, 3])) s) 1).st = .runnable := by decide +kernel

/-- R328: a name that is not live: everyone linked to the sender is told NO_ACTOR. -/
theorem test_no_actor : let s := addEntry .link name2 name1 (actorState .idle .idle)
    ((after (.recordAdmit { msg 0 [] with dst := mkName 0 0 3 1 }) s).sched.agenda.map (·.ev)) =
      [.directSignal ⟨name1, mkName 0 0 3 1, mkName 0 0 3 1, 6, mkName 0 0 3 1, false, false⟩] := by decide +kernel

theorem test_send : let s := regsOf [(11, name2), (12, 0x0009000003000000 + 0x1010)] handlerState
    (after (.send (rt 12 11 0)) s).sched.agenda.map (·.ev) = [.recordAdmit
      { dst := name2, flood := false, kind := 0, flags := 0, tag := 9, sender := name1, pid := 0, payload := [0, 0, 0] }] ∧
    (after (.send (rt 12 11 0)) (regsOf [(12, 0x0000000003000000 + 0x1011)] s)).mach.mcause = 4 ∧
    (after (.send (rt 12 0 0)) s).mach.mcause = 30 := by decide +kernel

/-- R317: the record in hand is consumed; R318: exit does not consume it, and the walk frees the slot. -/
theorem test_endh : let t := after (.endh (rt 0 0 0)) handlerState
    mailboxValue t 0 3 = 32 ∧ (actorAt t 1).st = .idle ∧ t.hart.disp = true ∧ t.act.name = 0 := by decide +kernel

theorem test_exit : let s := addEntry .link name1 name2 handlerState
    let t := after (.exit (rt 0 11 0)) (regsOf [(11, 77)] s)
    let u := after (.exitWalk name1) t
    (actorAt t 1).st = .exiting ∧ mailboxValue t 0 3 = 0 ∧ (actorAt u 1).st = .free ∧ u.actors.links = [] ∧
    (u.sched.agenda.map (·.ev)).contains (.linkSignal ⟨name2, name1, name1, 0, 77, false, false⟩) = true := by decide +kernel

theorem test_kill : (actorAt (after (.killRequest ⟨name2, 1, 3, name2, false, 0, true, 0⟩) handlerState) 2).st = .exiting ∧
    after (.killRequest ⟨name2, 1, 3, name2, false, 5, true, 0⟩) handlerState = handlerState := by decide +kernel

theorem test_trapx : (actorAt (after (.trapx (rt 0 11 0)) (regsOf [(11, 1)] handlerState)) 1).trapExits = true ∧
    (after (.trapx (rt 0 11 0)) s0).mach.mcause = 2 := by decide +kernel

theorem test_link : let t := after (.link (rt 0 11 0)) (regsOf [(11, name2)] handlerState)
    hasEntry t .link name1 name2 = true ∧
    t.sched.agenda.map (·.ev) = [.linkInstall { mon := false, near := name1, far := name2, pid := 0 }] ∧
    hasEntry (after (.linkInstall { mon := false, near := name1, far := name2, pid := 0 }) t) .link name2 name1 = true := by
  decide +kernel

/-- R382: the abnormal end of a linked actor ends a receiver that does not trap exits. -/
theorem test_link_signal : let g : Signal := { dst := name2, frm := name1, origin := name1, reason := 2, detail := 0, mon := false, cascade := false }
    let s := addEntry .link name2 name1 (actorState .idle .idle)
    (actorAt (after (.linkSignal g) s) 2).st = .exiting ∧ (actorAt (after (.linkSignal { g with reason := 0 }) s) 2).st = .idle ∧
    after (.linkSignal g) (actorState .idle .idle) = actorState .idle .idle := by decide +kernel

/-! ## Witnesses: for every statement with hypotheses, a state and operands that meet them, clause by clause -/

theorem witness_DecodeOfEncodeIsInstruction : (Instr.vadd (vt 1 true false true 2 4 6)).wf = true ∧
    encode (.vadd (vt 1 true false true 2 4 6)) = some 0x1A22030B ∧ (Instr.lrD (rt 0 11 10)).wf = true := by decide

theorem witness_EncodeOfDecodeIsWord : decode 0x1A22030B = .ok (.vadd (vt 1 true false true 2 4 6)) := rfl

theorem witness_PrintedWordsDecode : (0 : IWord).toNat % 4 ≠ 3 ∧ (0x0000001F : IWord).toNat / 4 % 8 = 7 ∧
    (0x00000007 : IWord).toNat % 128 ∈ [0x07, 0x27, 0x43, 0x47, 0x4B, 0x4F, 0x53, 0x57] := by decide

theorem witness_MulDivAndBitResult : ready s0 (xs [11, 12]) (xs [10]) = true ∧
    (Instr.bitManipulation (.shift .roriw 10 11 31)).wf = true ∧
    ready s0 (xs (bitParts (.shift .roriw 10 11 31)).2) (xs [(bitParts (.shift .roriw 10 11 31)).1]) = true := by decide

theorem witness_IntegerOpResult : (Instr.integerOp (.shift .slliw 0 11 31)).wf = true ∧
    ready s0 (xs (intParts s0 (.shift .slliw 0 11 31)).2.1) (xs [(intParts s0 (.shift .slliw 0 11 31)).1]) = true ∧
    ready s0 [] (xs [0]) = true := by decide

theorem witness_BranchAndJumpResult :
    let a : BranchArgs := ⟨.eq, 0, 0, 0x800⟩
    let target : Word := BitVec.ofInt 64 (s0.hart.pc.toInt + branchOffset a)
    ready s0 (xs [a.rs1, a.rs2]) [] = true ∧ takenSpec .eq (xval s0 0) (xval s0 0) = true ∧ target.toNat % 4 = 0 ∧
    takenSpec .ne (xval s0 0) (xval s0 0) = false ∧
    (BitVec.ofInt 64 (s0.hart.pc.toInt + 2 * (0x80000 : BitVec 20).toInt) : Word).toNat % 4 = 0 ∧
    ready s0 (xs [0]) (xs [1]) = true ∧ (BitVec.ofNat 64 ((address s0 0 0x7FD).toNat / 2 * 2) : Word).toNat % 4 = 0 := by decide

/-- A state at the end address of both loops, with the given counts. -/
def loopState (c0 c1 : Word) : State :=
  { s0 with hart := { s0.hart with loop0 := ⟨0x70000, s0.hart.pc, c0⟩, loop1 := ⟨0x60000, s0.hart.pc, c1⟩ } }

theorem witness_LoopInstruction : ready s0 (xs [0]) [] = true ∧ atLoopEnd s0 = false ∧
    s0.hart.pc + BitVec.ofNat 64 (4 * (0xFFF : BitVec 12).toNat) ≠ s0.hart.pc ∧
    (let h := (loopState 2 1).hart; h.loop0.count ≠ 0 ∧ h.pc = h.loop0.last ∧ 1 < h.loop0.count.toNat) ∧
    (let h := (loopState 1 2).hart; h.loop0.count = 1 ∧ h.loop1.count ≠ 0 ∧ h.pc = h.loop1.last) ∧
    ¬ ((loopState 0 0).hart.loop1.count ≠ 0 ∧ s0.hart.pc = s0.hart.loop1.last) := by decide

theorem witness_ExceptionEntry : trapsHere s0 31 = true ∧ trapsHere userState 0 = true := by decide

theorem witness_InstructionTraps : prefixPending userState = false ∧ trapsHere userState 8 = true ∧
    trapsHere userState 3 = true ∧ trapsHere supState 9 = true ∧ trapsHere s0 11 = true ∧
    trapsHere userState 2 = true ∧ trapsHere userState 1 = true ∧ trapsHere userState 12 = true ∧
    encode (.sfenceVma 31 31) = some 0x13FF8073 := by decide

theorem witness_TrapReturns : prefixPending s0 = false ∧ s0.hart.priv = .machine ∧ s0.sup.mdfrom = false ∧
    s0.mach.status.mpp ≠ .machine ∧ ({ s0.sup with mdfrom := true } : SupCsrs).mdfrom = true ∧
    prefixPending supState = false ∧ supState.hart.priv = .supervisor ∧ supState.mach.status.tsr = false ∧
    supState.sup.dspgo = false ∧ ({ supState.sup with dspgo := true } : SupCsrs).dspgo = true := by decide

/-- The hart waits in wfi with an interrupt pending and enabled. -/
def wfiState : State := { s0 with hart := { s0.hart with wait := .wfi }, mach := { s0.mach with mip := 2, mie := 2 } }

theorem witness_FenceAndWaitResult : ready s0 [] [] = true ∧ quiet s0 = true ∧ prefixPending wfiState = false ∧
    s0.mach.mip &&& s0.mach.mie = 0 ∧ wfiState.hart.wait = .wfi ∧ wfiState.mach.mip &&& wfiState.mach.mie ≠ 0 ∧
    supState.hart.priv = .supervisor ∧ supState.mach.status.tw = false := by decide

theorem witness_AccessFaultsTrap :
    (let a : BranchArgs := ⟨.eq, 0, 0, 1⟩
     ready s0 (xs [a.rs1, a.rs2]) [] = true ∧ takenSpec a.cond (xval s0 0) (xval s0 0) = true ∧
     (BitVec.ofInt 64 (s0.hart.pc.toInt + branchOffset a) : Word).toNat % 4 ≠ 0) ∧
    (BitVec.ofInt 64 (s0.hart.pc.toInt + 2 * (1 : BitVec 20).toInt) : Word).toNat % 4 ≠ 0 ∧
    (BitVec.ofNat 64 ((address s0 0 3).toNat / 2 * 2) : Word).toNat % 4 ≠ 0 ∧
    loadForm (.lh ⟨10, 11, 1⟩) = some (⟨10, 11, 1⟩, 2, true) ∧ (address s0 11 1).toNat % 2 ≠ 0 ∧
    (let s := regsOf [(11, 0x0100000000000000)] s0
     ready s (xs [11, 12]) [] = true ∧ quiet s = true ∧ (address s 11 0).toNat = 0x0100000000000000) ∧
    (let s := regsOf [(11, 0xFFEFFFFFFFFFFFF8)] s0
     (address s 11 0).toNat % 8 = 0 ∧ (address s 11 0).toNat < 0xFFF0000000000000) ∧
    storeForm (.sd ⟨12, 11, 0⟩) = some (⟨12, 11, 0⟩, 8) ∧
    (let s := regsOf [(11, 0x7FFF8)] userState
     (address s 11 0).toNat < 0x80000 ∧ localOk s (address s 11 0).toNat 8 = false) := by decide

theorem witness_LocalLoadAndStoreResult :
    let s := regsOf [(11, 0x7FFF8)] s0
    ready s (xs [11]) (xs [0]) = true ∧ quiet s = true ∧ localReady s (address s 11 0) 8 = true ∧
    loadForm (.ld ⟨0, 11, 0⟩) = some (⟨0, 11, 0⟩, 8, true) ∧ storeForm (.sd ⟨0, 11, 0⟩) = some (⟨0, 11, 0⟩, 8) ∧
    Memory.wf s.mem = true ∧ ready s (xs [11, 0]) [] = true ∧ localOk s (address s 11 0).toNat 8 = true ∧
    (address s 11 0).toNat % 8 = 0 := by decide

theorem witness_TranslatedAccesses :
    let s := regsOf [(11, 0x00FFFFFFFFFFFFF8)] s0
    ready s (xs [11]) (xs [10]) = true ∧ quiet s = true ∧ 0x80000 ≤ (address s 11 0).toNat ∧
    (address s 11 0).toNat < 0x0100000000000000 ∧ (address s 11 0).toNat % 8 = 0 ∧ ready s (xs [11, 12]) [] = true ∧
    0x80000 ≤ (address (regsOf [(11, 0x80000)] s0) 11 0).toNat := by decide

theorem witness_LocalAtomicResult : (0xFFFFFFFF : Nat) < 256 ^ 4 ∧
    (let s := regsOf [(11, 0x7FFFC)] s0
     let r : RT := rt 0 11 0
     atomicForm (.amomaxW r) = some (r, .max, 4) ∧ Memory.wf s.mem = true ∧ ready s (xs [11, 0]) (xs [0]) = true ∧
     quiet s = true ∧ localReady s (xval s 11) 4 = true) ∧
    atomicForm (.casD (rt 12 11 10)) = some (rt 12 11 10, .casD, 8) ∧ ready s0 (xs ([11, 12] ++ [10])) (xs [10]) = true := by
  decide

/-- The reservation of the word at 0x100, taken at clock 0, at another clock. -/
def resvState (clock : Nat) : State :=
  { mem8 with hart := { mem8.hart with resv := some (0x100, 0) }, sched := { mem8.sched with clock := clock } }

theorem witness_ReserveAndConditionalStore :
    lrForm (.lrW (rt 0 11 10)) = some (rt 0 11 10, 4) ∧ ready mem8 (xs [11]) (xs [10]) = true ∧ quiet mem8 = true ∧
    localReady mem8 (xval mem8 11) 4 = true ∧ scForm (.scD (rt 12 11 10)) = some (rt 12 11 10, 8) ∧
    (let s := resvState 256
     Memory.wf s.mem = true ∧ ready s (xs [11, 12]) (xs [10]) = true ∧ localOk s (xval s 11).toNat 8 = true ∧
     (xval s 11).toNat % 8 = 0 ∧ s.hart.resv = some (hereKey s (xval s 11) / 8 * 8, 0) ∧ s.sched.clock ≤ 0 + 256) ∧
    (resvState 257).sched.clock > 0 + 256 := by decide

/-- An i8 state in which a vadd, a slide or a vsel is ready. -/
def vecState : State := withFmt 8 (vregsOf [(0, 1), (1, 0x80), (2, 0x80)] s0)

theorem witness_VectorArithmeticResult :
    (∃ h, vecShape (.vadd (vt 3 false false true 24 16 8)) = some h ∧ 4095 / 8 < 2 ^ h.a.w.toNat * 512 / 8 ) ∧
    vecReady (.vadd (vt 3 false false true 24 16 8)) vecState = true ∧ isIntFmt (effOf vecState).d = true ∧
    (effOf vecState).mods = Mods.none ∧ (intElement (.vadd (vt 3 false false true 24 16 8)) vecState 8 511).isSome = true :=
  ⟨⟨_, rfl, by decide⟩, by decide +kernel⟩

theorem witness_VectorMovesElements : vecReady (.vsel (vt 0 false false true 2 1 3)) vecState = true ∧
    63 < 2 ^ (0 : Nat) * 512 / fmtWidth (effOf vecState).d ∧ vecReady (.vslup (vt 0 false false false 0 1 3)) vecState = true ∧
    vecReady (.vsldn (vt 0 false false false 0 1 3)) vecState = true ∧
    vecReady (.vperm (vt 0 false false false 2 1 3)) vecState = true := by decide +kernel

theorem witness_VectorReductions :
    (let s := withFmt 8 s0
     presentElems s (vt 0 false false true 0 1 3) 8 = [] ∧ vecReady (.vredsum (vt 0 false false true 0 1 3)) s = true) ∧
    presentElems vecState (vt 0 false false true 0 1 3) 8 = [0x80] ∧
    vecReady (.vredmax (vt 0 false false true 0 1 3)) vecState = true ∧
    vecReady (.vredmin (vt 0 false false true 0 1 3)) vecState = true ∧
    (let s := after (.fmt 0 8 8 12) vecState
     vecReady (.vdot4 (vt 0 false false false 2 1 3)) s = true ∧ (effOf s).d = 12 ∧ (effOf s).mods = Mods.none) := by
  decide +kernel

theorem witness_EncodeOfDecodeElement : (0xFF800000 : Nat) < 2 ^ fmtWidth 0 ∧ (decodeElem 0 0xFF800000).isNaN = false ∧
    (decodeElem 5 15).isNaN = false := by decide

theorem witness_PrefixWordsPend : prefixPending s0 = false ∧ atLoopEnd s0 = false ∧ encode (.fmt 0 31 31 16) = some 0x01FFF85B ∧
    (let s := after (.fmt 0 31 31 16) s0
     s.hart.pend.mv = false ∧ atLoopEnd s = false ∧ encode (.mod true false false false 31) = some 0x23F0705B) := by decide

theorem witness_PrivilegeAndPrefixTraps : prefixPending userState = false ∧ userState.hart.priv ≠ .machine ∧
    ({ supState.mach.status with tsr := true, tw := true } : MStatus).tsr = true ∧
    prefixPending (after (.fmt 0 31 31 16) s0) = true ∧ encode .ecall = some 0x73 ∧
    (csrForm (.csrrwi ⟨10, 31, 0x800⟩)).isSome = true := by decide

/-- A contiguous and an indexed access of i8 elements at the scratchpad's last 64 bytes. -/
def vmemState : State := withFmt 8 (regsOf [(11, 0x7FFC0)] s0)

theorem witness_VectorLocalAccess :
    let a := vt 0 false false false 0 11 3
    let ax := vt 0 false false false 4 11 3
    vecLoadForm (.vld a) = some (a, .contiguous) ∧ vecStoreForm (.vstx ax) = some (ax, .indexed) ∧
    (Instr.vld a).wf = true ∧ (Instr.vstx ax).wf = true ∧ prefixOk false (moveFmts .contiguous) vmemState = true ∧
    prefixOk false (moveFmts .indexed) vmemState = true ∧
    readyWithPrefix vmemState (addrReads a .contiguous ++ maskReads a true) (vRegs a.d a) = true ∧
    readyWithPrefix vmemState (addrReads ax .indexed ++ vRegs ax.d ax ++ maskReads ax false) [] = true ∧
    quiet vmemState = true ∧ Memory.wf vmemState.mem = true ∧
    (∀ k, k < 64 → localReady vmemState (elementAddress vmemState a .contiguous k) 1 = true) ∧
    (∀ k, k < 64 → localWritable vmemState (elementAddress vmemState ax .indexed k) 1 = true) := by decide +kernel

/-- Tile state with operands for a tile load and store at 0x100, rows 0x20 apart. -/
def tmoveState : State := regsOf [(11, 0x100), (12, 0x20)] tileState

theorem witness_GroupAndTileLoadsStart :
    (let a := vt 0 false false false 0 11 3
     let s := regsOf [(11, 0xFFF2000000000000)] s0
     (Instr.vgld a).wf = true ∧ prefixOk false (fun e => e.p.a == 31 && e.p.b == 31 && noRounding e) s = true ∧
     vgldOk a (xval s a.s1) = true ∧ vgldFmtBad s (xval s a.s1) = false ∧
     readyWithPrefix s (xs [a.s1]) (vGroup a.d.toNat (vgldRegs a (xval s a.s1))) = true ∧ quiet s = true) ∧
    (let a := vt 0 false false false 12 11 0
     let s := tmoveState
     prefixOk false tileMoveFmts s = true ∧ tilesInCount s a.d.toNat (destSpan a) = true ∧
     tileFmt (moveShape s a).fmt = true ∧ (moveShape s a).valid (destSpan a) = true ∧
     readyWithPrefix s (xs [a.s1, a.s2]) [] = true ∧ (xval s a.s1).toNat % 16 = 0 ∧ (xval s a.s2).toNat % 16 = 0 ∧
     (∀ x ∈ tileElems s a, elemOk s x.2 (moveShape s a).step = true) ∧
     tilesFree s (physTile s a.d.toNat) (destSpan a) = true ∧ quiet s = true ∧ farCuts s a = []) := by decide +kernel

theorem witness_TilesWithoutLease :
    (let a := vt 0 false false false 12 11 0
     let s := tmoveState
     Memory.wf s.mem = true ∧ readyWithPrefix s (xs [a.s1, a.s2] ++ tileRegs s a.d.toNat (destSpan a)) [] = true ∧
     (∀ x ∈ tileElems s a, x.2.toNat < 0x80000 ∧ localOk s x.2.toNat (moveShape s a).step = true)) ∧
    (prefixPending tileState = false ∧ tilesInCount tileState 15 1 = true ∧ tilesFree tileState (physTile tileState 15) 1 = true) ∧
    (let a := vt 0 false false false 0 0 6
     let s := tileState
     let hs := tileShape s a.s1.toNat
     let hd := tileShape s a.d.toNat
     plainFmt hs.fmt = true ∧ hd.fmt = hs.fmt ∧ srcAligned a.s1.toNat hs = true ∧ tilesInCount s a.s1.toNat hs.span = true ∧
     tilesInCount s a.d.toNat (destSpan a) = true ∧ hs.validSource = true ∧ hd.valid (destSpan a) = true ∧ hd.rows = hs.cols ∧
     hd.cols = hs.rows ∧ runsMeet a.s1.toNat hs.span a.d.toNat (destSpan a) = false ∧
     readyWithPrefix s (tileRegs s a.s1.toNat hs.span) [] = true ∧ tilesFree s (physTile s a.d.toNat) (destSpan a) = true) := by
  decide +kernel

/-- The same clauses of `tget` and `tins`: same format, another format, and an element without a result. -/
theorem witness_TilesWithoutLease_parts :
    (let a := vt 0 false false false 11 0 3
     let s := regsOf [(11, 1)] tileState
     let h := tileShape s a.s1.toNat
     prefixOk false (fun e => e.p.b == 31) s = true ∧ partFmts h.fmt (tgetFmt s a) = true ∧ (effOf s).p.a = 31 ∧
     srcAligned a.s1.toNat h = true ∧ tilesInCount s a.s1.toNat h.span = true ∧ h.validSource = true ∧
     selBad (xval s a.s2) h (partElems h.fmt (tgetFmt s a)) = false ∧
     readyWithPrefix s (tileRegs s a.s1.toNat h.span ++ xs [a.s2]) [.v a.d.toNat] = true ∧
     (tgetResult a s).isOk = true ∧ tgetFmt s a = h.fmt ∧
     (let t := after (.fmt 0 31 31 12) s; (tgetResult a t).isOk = true ∧ tgetFmt t a ≠ (tileShape t 0).fmt)) ∧
    (let a := vt 0 false false false 0 3 0
     let s := vregsOf [(3, 0x12C)] tileState
     let h := tileShape s a.d.toNat
     partFmts h.fmt (tinsFmt s a) = true ∧ (effOf s).p.d = 31 ∧ tilesInCount s a.d.toNat (destSpan a) = true ∧
     h.valid (destSpan a) = true ∧ selBad (xval s a.s2) h (partElems h.fmt (tinsFmt s a)) = false ∧
     readyWithPrefix s (.v a.s1.toNat :: xs [a.s2] ++ tileRegs s a.d.toNat (destSpan a)) [] = true ∧
     tilesFree s (physTile s a.d.toNat) (destSpan a) = true ∧ (tinsResult a s).isOk = true ∧
     (let t := after (.fmt 0 31 12 31) s
      (match tinsResult a t with | .error k => k == 0 | .ok _ => false) = true)) := by decide +kernel

theorem witness_ConversionsRetireOrTrap :
    (let a := vt 0 false false false 0 4 3
     let s := after (.fmt 0 31 0 8) (vregsOf [(4, 0x40200000)] s0)
     (Instr.vcvt a).wf = true ∧ prefixOk true (cvtFmts a) s = true ∧
     readyWithPrefix s ((cvtSources s a).flatMap fun x => x.1) (vGroup a.d.toNat (cvtRegs a (effOf s) (fmtWidth (effOf s).d))) = true) ∧
    (let a := vt 0 false false false 10 4 3
     let s := after (.fmt 0 31 1 4) s0
     (Instr.vqblk a).wf = true ∧ prefixOk true (vqFmts a) s = true ∧
     readyWithPrefix s (vRegs a.s1 a) (.v a.d.toNat :: xs [a.s2]) = true) ∧
    (let a := vt 0 false false false 10 4 3
     let s := after (.fmt 0 31 4 1) s0
     (Instr.vdqblk a).wf = true ∧ prefixOk false (vdqFmts a) s = true ∧
     readyWithPrefix s (vRegs a.s1 a ++ xs [a.s2]) (vRegs a.d a) = true) ∧
    (let a := vt 0 false false false 0 0 2
     let s := tileState
     prefixOk true (fun e => e.p.b == 31) s = true ∧ tcvtIllegal a s = false ∧ tcvtBad a s = false ∧
     readyWithPrefix s (tileRegs s a.s1.toNat (withScales (cvtSrc s a).fmt (cvtSrc s a).span)) [] = true ∧
     tilesFree s (physTile s a.d.toNat) (withScales (cvtDst s a).fmt (destSpan a)) = true) := by decide +kernel

theorem witness_MatrixCommandEnters :
    let a := vt 0 false false false 2 0 4
    let s := tileState
    matForm? (.mmaq a) = some (a, .mmaq) ∧ prefixOk false noRounding s = true ∧ matIllegal a s = false ∧ matBad a s = false ∧
    matRoom .mmaq s = true ∧ readyWithPrefix s ((matSources s a true).flatMap fun src => (exceptArray s src).1) [] = true ∧
    (∀ r ∈ tileRegs s a.d.toNat (destSpan a), (regState s r).isEmpty = true → fromArray s r = true) ∧
    (∀ r ∈ tileRegs queued a.d.toNat (destSpan a), (regState queued r).isEmpty = true → fromArray queued r = true) := by
  decide +kernel

/-- The command of `queued` executes. -/
def running : State := after .arrayCommandStart queued

/-- Member 1 has requested a lane group while this core holds all four since clock 0. -/
def contended : State :=
  let l0 : Lease := { Lease.zero with st := .held, count := 4, mask := 15 }
  let l1 : Lease := { Lease.zero with st := .requested, count := 1 }
  setLease 0 l0 (setLease 1 l1 { s0 with sched := { s0.sched with clock := 8192 } })

theorem witness_LeasesAndArray :
    (let s := regsOf [(11, 4)] s0
     prefixPending s = false ∧ ready s (xs [11]) (xs [0]) = true ∧ quiet s = true ∧ (ownLease s).st = .none ∧
     (xval s 11).toNat ∈ [1, 2, 4]) ∧
    arrayIdle tileState = true ∧ arrayIdle queued = false ∧
    (let s := regsOf [(11, 0x11)] tileState
     ready s (xs [11]) [] = true ∧ (ownLease s).st ≠ .none ∧ (xval s 11).toNat / 256 = 0 ∧
     (xval s 11).toNat / 16 = (ownLease s).count ∧ s.arr.job = none) ∧
    (queued.arr.running = none ∧ queued.arr.queue.length = 1 ∧ (ownLease queued).st = .held ∧ queued.arr.stop = false) ∧
    (running.arr.running.isSome = true ∧ running.ras.regErrors = [] ∧ running.arr.hit = none ∧ running.arr.queue = [] ∧
     (running.arr.running.map fun c => (c.doom, decide (c.d + c.spanD ≤ 16), c.sources.all fun n => (getM running n).st != .faulted 0 0))
       = some (none, true, true)) ∧
    ((leaseOf contended 0).st = .held ∧ (leaseOf contended 0).grantedAt + 8192 ≤ contended.sched.clock ∧
     atBoundary contended 0 = true ∧ contenders contended ≠ []) ∧
    (let s := { s0 with arr := { s0.arr with reserve := [(15, 12)] } }
     s.arr.reserve.find? (fun r => setFree s r.1 r.2) = some (15, 12)) := by decide +kernel

/-- A state whose tiles 0, 1 and 2 hold a row of six stored elements 1 to 6, their positions 0, 5, 23, 30, 5 and 1, and a row
of B with element k equal to k + 1. -/
def sparseState : State :=
  let m : Nat → MReg := fun n => { val := BitVec.ofNat _ n, st := .full }
  let b := ((List.range 24).map fun k => (k + 1) <<< (8 * k)).foldl (· + ·) 0
  { s0 with hart := { s0.hart with
    m := ((s0.hart.m.set 0 (m 0x060504030201)).set 1 (m (5 <<< 5 + 23 <<< 10 + 30 <<< 15 + 5 <<< 20 + 1 <<< 25))).set 2 (m b) } }

/-- R195: positions 0, 5, 23, 5 and 1 count, position 30 names no element of B. -/
theorem test_sparse_element :
    (queued.arr.queue.map fun c =>
      (resultElem sparseState { c with a := 0, b := 2, sparse := true, depth := 24, kept := 6 } 100 0 0).1)
      = [100 + 1 * 1 + 2 * 6 + 3 * 24 + 5 * 6 + 6 * 2] := by decide +kernel

/-- The command of `queued`, whose operands are dense and i8, and a sparse one. -/
theorem witness_ArrayIntegerElement :
    ((queued.arr.queue.map fun c => (c.fmtA, c.fmtB, c.sparse)) = [(8, 8, false)]) ∧
    ((queued.arr.queue.map fun c => { c with sparse := true }).map fun c => (c.fmtA, c.fmtB, c.sparse)) = [(8, 8, true)] := by
  decide +kernel

/-- The word of `addi x5, x0, 7` stands where the hart fetches. -/
def fetchState : State := { s0.withFetchWord 32 0x00700293 with sched := { s0.sched with turns := [] } }

/-- The same place with a word that is no instruction. -/
def badWordState : State := { s0.withFetchWord 32 0xFFFFFFFF with sched := { s0.sched with turns := [0, 1] } }

theorem witness_StepRunsDecodedInstruction :
    (let s := fetchState
     let u0 := advance { s with sched := { s.sched with turns := [] } }
     let u : State := { u0 with hart := { u0.hart with again := false } }
     s.sched.turns = [] ∧ defaultEntry u0 = none ∧ drainReady u0 = false ∧ stuck s = false ∧ hartRuns u0 = true ∧ heldDeath u0 = none ∧
     budgetOut u0 = false ∧ reservationOld u0 = false ∧ interruptToTake u0 = none ∧ s.hart.wait = .none ∧ s.hart.disp = false ∧
     s.hart.x0 = [] ∧ (fetch u).1 = .word 0x00700293 ∧ (decode 0x00700293).toOption = some (.integerOp (.imm .addi 5 0 7)) ∧
     classOf s.hart.pc = .translated ∧
     (match translate u (stationOf (ownCore u)) u.sup.pid s.hart.pc .fetch with
      | (u1, .ok x) => (Tab.find? u1.stn.icache x.key).isNone && !u1.stn.badLines.contains x.key && !poisoned u1 x.key 4
      | (_, .error _) => false) = true) ∧
    (let s := badWordState
     let u := advance { s with sched := { s.sched with turns := [1] } }
     s.sched.turns = 0 :: [1] ∧ (fetch u).1 = .word 0xFFFFFFFF ∧ (decode 0xFFFFFFFF).toOption = none) ∧
    (fetch (advance s0)).1 = .fault 12 := by decide +kernel

theorem witness_EveryStepAnswers :
    (let s := after .powerLoss s0; s.ras.powered = false ∧ ∀ e ∈ s.sched.agenda, e.ev ≠ .packageReset) ∧
    s0.ras.powered = true ∧ (∃ e ∈ (after .powerLoss (post .packageReset s0)).sched.agenda, e.ev = .packageReset) := by decide

theorem witness_StepKeepsMemoryCanonical : MemoryCanonical mem8 ∧ ∃ t, step mem8 = .next t :=
  ⟨by unfold MemoryCanonical; decide, _, rfl⟩

theorem witness_CsrInstructionResult :
    (let s := regsOf [(11, 5)] s0
     csrForm (.csrrs ⟨10, 11, 0x804⟩) = some (.set, ⟨10, 11, 0x804⟩, false) ∧ ready s (xs [11]) (xs [10]) = true ∧
     csrAllowed s 0x804 (csrWrites .set ⟨10, 11, 0x804⟩) = true ∧ plainMask s 0x804 = some 0xFFFFFFFF) ∧
    csrForm (.csrrwi ⟨0, 31, 0x340⟩) = some (.write, ⟨0, 31, 0x340⟩, true) ∧ csrAllowed s0 0x340 true = true ∧
    prefixPending userState = false ∧ privCode userState.hart.priv < (0x105 : BitVec 12).toNat / 256 % 4 ∧
    (0xC00 : BitVec 12).toNat / 1024 = 3 ∧ csrOf 0x7FF = none ∧ (encode (.csrrw ⟨10, 11, 0x7FF⟩)).isSome = true := by decide

theorem witness_CsrEffects :
    (let s := { s0 with arr := { s0.arr with results := [5, 6] }
                        ras := { s0.ras with clusterLog := [{ word0 := 1, time := 2 }], packageLog := [] } }
     ready s [] (xs [10]) = true ∧ s.arr.results = 5 :: [6] ∧ s.hart.priv = .machine ∧ s.ras.mlogPkg = false ∧
     s.ras.clusterLog = { word0 := 1, time := 2 } :: []) ∧ s0.arr.results = [] ∧ s0.ras.clusterLog = [] ∧
    ({ s0.sup with dheld := true } : SupCsrs).dheld = true ∧ s0.ras.pkgSet = false ∧
    (after (.mpkgWrite 3) s0).ras.pkgSet = true ∧ csrAllowed s0 0x305 true = true ∧ plainMask s0 0x305 = some (~~~(2 : Word)) := by
  decide

/-- The hart waits for the answer to a cfree or a carm, which has come. -/
def answered (a : Answer) : State := { ctrState with hart := { ctrState.hart with wait := .response, answer := a } }

theorem witness_CounterInstructions :
    (let s := regsOf [(11, h4), (12, 1)] ctrState
     ((counterRequest s (.cadd (rt 12 11 10))).map fun r => (r.1, r.2.1, r.2.2.1)) = some (rt 12 11 10, [11, 12], h4) ∧
     ((counterRequest s (.cwaitt (rt 12 11 10))).map fun r => r.2.2.1) = some h4 ∧ s.user.ctimeout = 0 ∧
     ready s (xs [11, 12]) (xs [10]) = true ∧ quiet s = true ∧ s.hart.priv ≠ .user ∧ hIndex h4 ≠ 0 ∧
     ((counterStallRequest s (.carm (rt 12 11 0))).map fun r => r.2.1) = some [11, 12] ∧ ready s (xs [11, 12]) [] = true ∧
     s.hart.wait = .none ∧ Tab.getD s.ctr.arms (ownCore s) 0 < 16 ∧ s.sup.dheld = false) ∧
    (answered (.accepted 0)).hart.answer = .accepted 0 ∧ (answered (.failed 1)).hart.answer = .failed 1 ∧
    hIndex (xval s0 0) = 0 ∧ ready s0 (xs [0, 0]) [] = true ∧ userState.hart.priv = .user ∧
    (encode (.cset (rt 12 11 10))).isSome = true := by decide +kernel

/-- The bank's waiter table is full. -/
def fullBank : State :=
  let waiter (n : Nat) : Waiter :=
    { counter := 5, threshold := BitVec.ofNat 64 n, isArm := false, issuer := anyone, replyTo := .none }
  { ctrState with ctr := { ctrState.ctr with waiters := (List.range 1024).map waiter } }

theorem witness_CounterBankOperations : Usable ctrState h4 anyone ∧ Usable fullBank h4 anyone ∧ counterValue ctrState h4 = 5 ∧
    5 + (0xFFFFFFFFFFFFFFFA : Word).toNat < 2 ^ 64 ∧ 2 ^ 64 ≤ 5 + (0xFFFFFFFFFFFFFFFB : Word).toNat ∧
    tableUse ctrState (counterKey ctrState h4 / 16384) < 1024 ∧ 1024 ≤ tableUse fullBank (counterKey fullBank h4 / 16384) := by
  unfold Usable; decide +kernel

/-- Every index of cluster 0 has been allocated and none freed. -/
def emptyBank : State := setBank 0 { fresh := 16384, freed := [] } s0

/-- A cwaitt that is out, with its deadline at 5 ns. -/
def waitJob : Job :=
  { id := 1, dest := .x 10, pc := 0, cls := 3, finish := .value, waiting := [], issued := [], image := [], failure := none
    aq := false, ord := false, atomic := false
    wait := some { kind := 2, handle := h4, threshold := 9, deadline := 5 } }

/-- The conditions of the hang detector have held since time 0, and it is 10 µs. -/
def hangState : State := { s0 with ctr := { s0.ctr with hangSince := some 0, timeline := 10000 } }

def waiting4 (rto : ReplyTo) : Waiter := { counter := 4, threshold := 9, isArm := false, issuer := anyone, replyTo := rto }

theorem witness_CounterAllocationAndTime :
    ((chooseIndex s0 anyone.cluster).map fun r => r.1) = some 1 ∧ chooseIndex emptyBank anyone.cluster = none ∧ hIndex h4 ≠ 0 ∧
    (counterAt s0 (counterKey s0 h4)).st = .free ∧ (counterAt ctrState 4).check ≠ hCheck (mkHandle 0 0 4 8) ∧
    (counterAt ctrState 4).pid ≠ 3 ∧
    (let s := { ctrState with ctr := { ctrState.ctr with waiters := [waiting4 (.job 1 0)] } }
     s.ctr.waiters.find? (fun x => !x.isArm && x.replyTo == .job 1 0) = some (waiting4 (.job 1 0))) ∧
    Tab.find? (after (.hostArmThresholdWrite 63 none 9) (after (.hostCounterAdd (0x1000000 + 16 * 63) 8 h4)
      { s0 with host := { s0.host with ready := true } })).ctr.hostArms 63
      = some { handle := h4, threshold := 9, state := 1 } ∧
    [waitJob].find? (fun j => j.id == 1) = some waitJob ∧
    hangState.ctr.hangSince = some 0 ∧ hangState.ctr.hangDone = false ∧ 0 + 10000 ≤ hangState.ctr.timeline.toNat := by decide +kernel

theorem witness_HomeAndStationSteps : badBytes mem8 0x100 8 = [] ∧ isHostKey ownBase = false ∧
    poisoned { s0 with ras := { s0.ras with poison := [ownBase] } } ownBase 8 = true ∧ Memory.wf mem8.mem = true ∧
    isHostKey hostBase = true ∧ s0.host.up = true ∧ inDeadChannel s0 0x100 8 = false ∧ poisoned s0 0x100 8 = false ∧
    (match translate fetchState (stationOf (ownCore fetchState)) 0 0x80000 .load with | (_, .ok _) => true | (_, .error _) => false) = true ∧
    (match translate s0 (stationOf (ownCore s0)) 0 0x80000 .load with | (_, .ok _) => false | (_, .error _) => true) = true := by decide +kernel

/-- A translated load that is out. -/
def loadOut : State := after (.ld ⟨10, 11, 0⟩) (regsOf [(11, 0x80008)] fetchState)

/-- A cadd that is out, and a store to the scratchpad at the head of the drain queue. -/
def caddOut : State := after (.cadd (rt 12 11 10)) (regsOf [(11, h4), (12, 1)] ctrState)

def localEntry : StoreEntry :=
  { id := 1, addr := 0x100, scratch := true, pc := 0, elem := 0, pid := 0, bytes := [(0, 7), (1, 8)], out := none, landed := false, lost := false }

theorem witness_ProducersAndDrain :
    (caddOut.off.jobs.map fun j => j.waiting.isEmpty && j.issued.length == 1 && j.failure.isNone && j.dest == .x 10
      && j.finish == .value) = [true] ∧
    (let s := { s0 with off := { s0.off with drain := [.store localEntry] } }
     s.sup.dheld = false ∧ s.off.jobs = [] ∧ localEntry.scratch = true ∧ Memory.wf s.mem = true) ∧
    (let e := { localEntry with addr := 0x80000, scratch := false }
     (match translate s0 (stationOf (ownCore s0)) e.pid e.addr .store with | (_, .ok _) => none | (_, .error d) => some d.1) = some dPageInvalid) ∧
    ({ s0.off with drain := [.release 1 []] } : OffCore).drain = .release 1 [] :: [] := by decide +kernel

theorem witness_ProducersAndDrain_offsets : (localEntry.bytes.map (·.1)).Nodup := by simp [localEntry]

/-- The hart waits for its EMPTY sources, or at an address where a failed producer with destination x0 stands. -/
def sourceWait (st : RegState) : State :=
  putX 10 { val := 0, st := st } { s0 with hart := { s0.hart with wait := .source [.x 10] } }

theorem witness_WaitsEnd :
    ((sourceWait .full).hart.wait = .source [.x 10] ∧ ∀ r ∈ [RegName.x 10], (regState (sourceWait .full) r).isEmpty = false) ∧
    (∃ r ∈ [RegName.x 10], (regState (sourceWait (.faulted 1 2)) r).isFaulted = true) ∧
    (∃ r ∈ [RegName.x 10], (regState (sourceWait (.empty 1)) r).isEmpty = true) ∧
    (let w : X0Wait := { job := 1, pc := 0x80000, next := s0.hart.pc, atReturn := false, failed := some 3 }
     w.failed = some 3 ∧ w.atReturn = false ∧ w.next = s0.hart.pc ∧ trapsHere s0 25 = true) ∧
    (∀ r ∈ [RegName.m 4], (regState tileState r).isEmpty = false ∧ ∀ n ∈ lockedTiles tileState, r ≠ .m n) ∧
    (∃ r ∈ [RegName.m 0], (regState queued r).isEmpty = true ∨ ∃ n ∈ lockedTiles queued, r = .m n) ∧
    (resvState 256).hart.resv = some (0x100, 0) ∧ 0 + 256 ≤ (resvState 256).sched.clock ∧ (resvState 255).sched.clock < 0 + 256 := by
  decide +kernel

theorem witness_InterruptEntry :
    (let s := { userState with mach := { userState.mach with mip := 0x20200, mie := 0x20200 } }
     interruptToTake s = some 9 ∧ s.mach.mideleg.getLsbD 9 = true) ∧
    (let s := { userState with mach := { userState.mach with mip := 0x80800, mie := 0x80800 } }
     interruptToTake s = some 19 ∧ s.mach.mideleg.getLsbD 19 = false) := by decide

/-- An image of a context of process 0 at 0x1000. -/
def imageState : State := withBytes 0x1000 [1, 0, 0, 0, 1] (regsOf [(11, 0x1000)] supState)

theorem witness_TranslationAndContext :
    (let s := regsOf [(11, 0x100000), (12, 0x10001)] supState
     s.hart.priv ≠ .user ∧ ready s (xs [11, 12]) [] = true ∧ quiet s = true ∧ invalOk s (xval s 11) (xval s 12) = true ∧
     (∀ e ∈ s.sched.agenda, homeAccess e.ev = none) ∧ (xval s 12).toNat / 2 ^ 18 % 4 = 0) ∧
    (let s := regsOf [(11, 0x1000), (12, 0xC0001)] supState
     invalOk s (xval s 11) (xval s 12) = true ∧ (xval s 12).toNat / 2 ^ 18 % 4 = 3 ∧ (xval s 11).toNat ≠ 0) ∧
    (let s := regsOf [(11, 0x5C002)] supState
     let op := xval s 11
     op.toNat / 4096 * 4096 + 0x24000 ≤ 0x80000 ∧ op.toNat % 4096 < 8 ∧ op.getLsbD 0 = false ∧ op.getLsbD 2 = false ∧
     op.getLsbD 1 = true ∧ ready s (xs [11]) [] = true ∧ Memory.wf s.mem = true) ∧
    (let s := imageState
     let base := s.coreid.toNat * 0x80000 + 0x1000
     poisoned s base 0x1840 = false ∧ loaded s base 8 % 2 ^ 16 = 1 ∧ loaded s (base + 8) 8 = 0 ∧ loaded s (base + 0x300) 8 = 0) := by
  decide +kernel


/-! ## Actors, transfers, collectives, the host, errors, peers: witnesses -/

theorem witness_MessagesAreSent :
    (let s := regsOf [(11, name2), (12, 0x0009000003000000 + 0x1010)] handlerState
     let d := (xval s 12).toNat
     ready s (xs [11, 12]) [] = true ∧ quiet s = true ∧ d % 2 ^ 19 % 8 = 0 ∧ d / 2 ^ 19 % 2 ^ 5 = 0 ∧ d / 2 ^ 36 % 16 = 0 ∧
     d / 2 ^ 24 % 2 ^ 12 = 3 ∧ localOk s 0x1010 3 = true ∧ poisoned s (localKey s 0x1010) 3 = false ∧ xval s 11 ≠ 0) ∧
    groupNameOk 0x0002000000080000 = true ∧ namePkg 0x0002000000080000 = 0 ∧ floodCores s0 0x0002000000080000 ≠ [] ∧
    groupNameOk 0x0012000000080000 = true ∧ namePkg 0x0012000000080000 = 1 := by decide +kernel

/-- The directory of core 0 with an entry of process 0: types at 0x80100, 8 actors, slots 1 to 7, 16 types, states from
0x4000, work from 0x8000, tile slots 0 to 3. -/
def placed (s : State) : State :=
  withBytes 0 ([(0x10000 : Word), 0x80100, 0x0008000700010010, 0x0000800000004000, 0x0001000000008000, 0xF].flatMap
    (wordToBytes 8)) s

/-- Actor 1 is RUNNABLE with a message in its mailbox, and the dispatcher has control. -/
def dispState : State :=
  let s := placed (setCounter 1 (live 32) (setCounter 2 (live 32) (actorState .runnable .idle)))
  let t := writeKey s 0x1000 [16, 0, 0, 0]
  { t with hart := { t.hart with disp := true, priv := .user } }

theorem witness_ActorInstructions :
    (let s := regsOf [(11, 0x0000000002000002), (12, 9)] handlerState
     ready s (xs [11, 12]) (xs [10]) = true ∧ quiet s = true ∧ ctlOk (xval s 11) = true ∧
     ctlOk 0x9000000002000002 = true) ∧
    RunsHandler handlerState (actor1 .running) ∧ ready handlerState [] [] = true ∧ handlerState.arr.running = none ∧
    (counterAt handlerState (mailboxKey 0 3)).st = .live ∧ (actor1 .running).commitIx ≠ (actor1 .running).consumeIx ∧
    0 + recordBytes (recordLen handlerState (headRecord handlerState 0 (actor1 .running))) < 2 ^ 64 ∧
    (let s := regsOf [(11, name1), (12, 3)] handlerState
     ready s (xs [11, 12]) [] = true ∧ xval s 11 = s.act.name ∧ s.hart.wait ≠ .response) ∧
    (let s := regsOf [(11, name2), (12, 0x0000000000000003)] (placed handlerState)
     let t := { s with actors := { s.actors with slotOwner := [(3, name1)] } }
     t.hart.priv = .user ∧ t.act.name ≠ 0 ∧ ready t (xs [11, 12]) (xs [10]) = true ∧ t.transfers.length < 4 ∧
     tmovBad (xval t 11) (xval t 12) = false ∧ Tab.find? t.actors.slotOwner (slotKey (ownCore t) 3) = some t.act.name ∧
     unownedSlot t (ownCore t) t.sup.pid = some 0 ∧ tmovBad 0 0x100 = false) := by
  unfold RunsHandler; decide +kernel

theorem witness_DispatchAndBudget :
    (let s := dispState
     let a := actor1 .runnable
     s.hart.disp = true ∧ boundedOutstanding s = false ∧ headActor s = some (1, a) ∧ holding s (ownCore s) a = true ∧
     headIsSkip s (ownCore s) a = false ∧
     placement s (ownCore s) s.sup.pid = some { types := 0x80100, quota := 8, slotHi := 7, slotLo := 1, ntypes := 16, slimit := 0x8000
                                                sbase := 0x4000, wlimit := 0x10000, wbase := 0x8000, tslots := 0xF } ∧
     ((placement s (ownCore s) s.sup.pid).bind fun e => allotment s (ownCore s) e a) = some (0x8000, 0)) ∧
    headActor { s0 with hart := { s0.hart with disp := true } } = none ∧
    (let s := { handlerState with sup := { handlerState.sup with hrem := 0 } }
     RunsHandler s (actor1 .running) ∧ s.hart.wait ≠ .response ∧ s.hart.storesDone = 0) ∧ handlerState.sup.hrem ≠ 0 ∧
    runEnding dispState = false ∧
    runEnding { dispState with hart := { dispState.hart with wait := .runEnd name1 }, off := { dispState.off with drain := [.store localEntry] } } = true := by
  unfold RunsHandler; decide +kernel

/-- A supervisor descriptor at 0x1000 of one child of type 2 on core 0, with a window of 1 µs. -/
def supDesc : State :=
  withBytes 0x1000 ([(0x0000000000010100 : Word), 1000, 0, 0, 0, 0, 0, 0, 2, 0, 0, 0, 0, 0, 0, 0].flatMap (wordToBytes 8))
    (regsOf [(11, 0x1000)] handlerState)

/-- The supervisor record of actor 1. -/
def sup1 (st : SupSt) : Sup :=
  { name := name1, pid := 0, maxr := 1, notify := false, allForOne := false, window := 1000, parent := 0
    children := [{ typ := 2, place := 0, standby := 0, image := 0, imgLen := 0, init := 0, links := 0, name := name2, old := 0
                   oldReason := 0, oldDetail := 0, atStandby := false }]
    st := st, failures := [], rounds := [], todo := [], replaced := [], awaited := [], counted := 0 }

def withSup (u : Sup) (s : State) : State := { s with actors := { s.actors with sups := [u] } }

/-- A collective descriptor at 0x1000: COLID 5 of i32, one line, one contribution from the own core, from 0x1040 into
0x1080, armed by counter 4 at 9. -/
def colState : State :=
  let s := { handlerState with hart := { handlerState.hart with priv := .supervisor } }
  let d := [(0x0000000500000200 : Word), 0x6010100000084041, h4, 9, 0, 0, 0, 0]
  withBytes 0x1000 (d.flatMap (wordToBytes 8)) (regsOf [(11, 0x1000)] s)


/-- A collective entry of cluster 0 in the given state, with COLID 5 and destination cluster 1. -/
def coll (st : CollSt) (bitmap : BitVec 64) (acked : Bool) : Coll :=
  { cluster := 0, pid := 0, colid := 5, owner := name1, core := 0, group := 0, own := 0, self := false, skip := false, op := 0, fmt := 12
    expect := 1, lines := 1, cnt := 0, res := 0x1080, src := 0x1040, arm := h4, thresh := 9, donec := 0
    dests := [{ cluster := 1, acked := acked }], st := st, bitmap := bitmap, sent := [], absent := [], first := true, clearing := false, adding := false }

def withColl (c : Coll) : State := { s0 with colls := [c] }

theorem witness_LinkAndCollectiveInstructions :
    (let s := regsOf [(11, name2)] handlerState
     quiet s = true ∧ ready s (xs [11]) [] = true ∧ s.hart.priv = .user ∧ s.act.name ≠ 0 ∧ nameInc (xval s 11) ≠ 0 ∧
     xval s 11 ≠ s.act.name ∧ ¬ Linked s .link name1 name2 ∧ ¬ Linked s .watches name1 name2 ∧
     reachable s (namePkg (xval s 11)) = true ∧ tableFull s s.act.name = false) ∧
    (let s := supDesc
     let d := descWord s (xval s 11).toNat
     quiet s = true ∧ ready s (xs [11]) [] = true ∧ descOk s (xval s 11) 64 (64 + 64 * supChildren d) = true ∧ supMalformed d = false ∧
     findSup s s.act.name = none ∧ supTableFull s (supChildren d) = false ∧ d 2 = 0 ∧ supChildren d = 1) ∧
    (let s := withSup (sup1 .steady) handlerState
     findSup s s.act.name = some (sup1 .steady) ∧ xval s 11 = 0 ∧ ready s (xs [11]) [] = true) ∧
    (let s := colState
     let d := colDesc s (rt 0 11 0)
     quiet s = true ∧ ready s (xs [11]) [] = true ∧ s.hart.wait = .none ∧ descOk s (xval s 11) 64 64 = true ∧ colMalformed d = false ∧
     findColl s (ownCluster s) s.sup.pid (colId d) = none ∧ colRangeFail s (colEntry s d) = none ∧ s.colls.length < 256) ∧
    (let s := colState
     let w : Waiter := { counter := 4, threshold := 9, isArm := false, issuer := anyone, replyTo := .hart }
     let t := { s with
       hart := { s.hart with wait := .registration, answer := .accepted 5, desc := (List.range 8).map (colDesc s (rt 0 11 0)) }
       ctr := { s.ctr with waiters := [w] } }
     t.hart.wait = .registration ∧ t.hart.answer = .accepted 5 ∧ (5 : Word).toNat < (heldDesc t 3).toNat ∧
     ∃ w ∈ t.ctr.waiters, w.isArm = false ∧ w.replyTo = .hart) ∧
    (let s := regsOf [(11, 5)] { withColl (coll .waiting 0 false) with hart := { s0.hart with priv := .supervisor } }
     ready s (xs [11]) [] = true ∧ (xval s 11).toNat < 2 ^ 32 ∧
     findColl s (ownCluster s) s.sup.pid (BitVec.ofNat 32 (xval s 11).toNat) = some (coll .waiting 0 false) ∧
     collBusy (coll .waiting 0 false) = false) ∧
    findColl s0 (ownCluster s0) s0.sup.pid (BitVec.ofNat 32 (xval s0 11).toNat) = none := by
  unfold Linked; decide +kernel

/-- The mailbox of actor 1 holds as much as a message may reserve. -/
def fullMailbox : State := setCounter 1 (live 64) (setCounter 2 (live 64) (actorState .idle .idle))

theorem witness_RecordAdmission :
    (let s := actorState .idle .idle
     let a := actor1 .idle
     liveActor s name1 = some a ∧ a.pid = 0 ∧ mailboxBroken s 0 a = none ∧ nameAt s 0 (nameSlot name1) = name1 ∧
     a.reserveIx ≠ a.commitIx ∧ Memory.wf s.mem = true ∧ mailboxValue s 0 a.reserveIx + 32 ≤ mailboxValue s 0 a.consumeIx + a.snap.mbox) ∧
    (let s := fullMailbox
     let a := actor1 .idle
     liveActor s name1 = some a ∧ mailboxBroken s 0 a = none ∧
     mailboxValue s 0 a.consumeIx + a.snap.mbox < mailboxValue s 0 a.reserveIx + 32 ∧ a.st ≠ .running) ∧
    (∀ a, liveActor s0 name1 = some a → a.pid ≠ (msg 0 []).pid) ∧ (msg 0 []).sender ≠ 0 := by
  have h : liveActor s0 name1 = none := by decide
  exact ⟨by decide +kernel, by decide +kernel, by simp [h], by decide⟩

/-- A spawn of type 2 on core 0. -/
def spawnReq (ctl : Word) : SpawnReq := { ctl := ctl, payload := 9, spawner := name1, pid := 0, replyTo := .job 1 0 }

/-- The directory of core 0 leads to the types at 0x80100, of which type 2 is sound. -/
def typedState : State :=
  let s := placed fetchState
  match translate s (stationOf (ownCore s)) 0 0x80140 .load with
  | (t, .ok x) => writeKey t x.key ([(0x90000 : Word), 0x0000000000000400, 64, 0].flatMap (wordToBytes 8))
  | (_, .error _) => s

theorem witness_SpawnSteps :
    (spawnAt 0 (spawnReq 2) typedState).1 = .name (mkName 0 0 1 1) ∧
    (spawnAt 0 (spawnReq 2) { typedState with ras := { typedState.ras with sparing := [0] } }).1 = .refused ∧
    (spawnAt 0 (spawnReq 2) s0).1 = .failed dNone ∧ 1 < (cohortCores 0x9000000002000002).2 ∧
    (cohortCores 0x9000000002000002).2 ≤ 15 + 1 ∧
    (let s := writeKey typedState (15 * 0x80000) (readKey typedState 0 64)
     (spawnAt (coreIndex s 0 15) (spawnReq 0x9000000006000002) { s with ras := { s.ras with sparing := [15] } }).1 = .refused) := by
  decide +kernel

theorem witness_DeathsAndLinks :
    (let s := actorState .running .idle
     let k (only : Bool) (pid : Pid) : KillReq :=
       { target := name2, reason := 1, detail := 3, origin := name2, cascade := false, pid := pid, jobOnly := only }
     liveActor s name2 = some actor2 ∧ actor2.st ≠ .running ∧ (k false 5).jobOnly = false ∧ actor2.pid = (k true 0).pid ∧
     (k true 5).jobOnly = true ∧ actor2.pid ≠ (k true 5).pid ∧ actor2.trapExits = false) ∧
    (let s := addEntry .link name2 name1 (actorState .idle .idle)
     liveActor s name2 = some actor2 ∧ findSup s name2 = none ∧ Linked s .link name2 name1) ∧
    liveActor s0 name2 = none ∧
    (let s := actorState .idle .idle; liveActor s name2 = some actor2 ∧ actor2.pid = 0 ∧ tableFull s name2 = false) ∧
    (let d : Death := { reason := 2, detail := 7, origin := name2, cascade := false }
     let s := setActor 2 { actor2 with st := .exiting, death := some d } (addEntry .link name2 name1 (actorState .idle .idle))
     (actorAt s (actorIx s name2)).st = .exiting ∧ (actorAt s (actorIx s name2)).inc = nameInc name2 ∧
     (actorAt s (actorIx s name2)).death = some d ∧ ∀ c ∈ s.colls, c.owner = name2 → collBusy c = false) := by
  unfold Linked; decide +kernel

/-- The supervisor has seen child 0 fail. -/
def failedSup (maxr : Nat) : Sup :=
  { sup1 .steady with maxr := maxr, failures := [{ child := 0, name := name2, reason := 2, detail := 0 }] }

theorem witness_RestartSteps :
    (let s := withSup (failedSup 1) handlerState
     findSup s name1 = some (failedSup 1) ∧
     ((failedSup 1).children[0]?.map (·.name)) = some name2 ∧
     ((failedSup 1).rounds.filter fun c => decide ((timelineAt s (placeCore s name1 / 16)).toNat < c.toNat + 1000)).length + 1 ≤ 1) ∧
    (let s := withSup (failedSup 0) (actorState .idle .idle)
     findSup s name1 = some (failedSup 0) ∧ 0 < 0 + 1 ∧ isLive s name1 = true ∧ (actor1 .idle).st ≠ .running ∧
     liveActor s name1 = some (actor1 .idle)) ∧
    (let u := { sup1 .round with todo := [0] }
     let s := withSup u (setActor 1 (actor1 .idle) typedState)
     findSup s u.name = some u ∧ isLive s u.name = true ∧ u.awaited = [] ∧ u.request = .idle ∧ namePkg u.name = herePkg s ∧
     ∃ c ∈ u.children[0]?, childPlace s u c = 0 ∧ (u.toStandby || !reachable s (namePkg c.place)) = false ∧
       reachable s (namePkg (childPlace s u c)) = true ∧ namePkg (childPlace s u c) = herePkg s ∧
       (installAt u 0 c s).1 = .done (mkName 0 0 2 1) ∧ tableFull (installAt u 0 c s).2 u.name = false) := by decide +kernel

/-- A shadow set: source, destination, bytes a row, rows, strides 0, and cectl. -/
def shadow (src dst len rows ctl : Word) : Vector Word 12 := #v[src, dst, len, rows, 0, 0, ctl, 0, 0, 0, 0, 0]

/-- The shadow set of a copy of 8 bytes from 0x1000 to 0x1040, in the given mode. -/
def shadowState (ctl : Word) : State :=
  { handlerState with user := { handlerState.user with shadow := shadow 0x1000 0x1040 8 1 ctl } }

/-- A transfer of two rows of 8 bytes, in the given mode and state. -/
def transferOf (ctl : Word) (st : TransferSt) : Transfer :=
  { id := 1, snap := shadow 0x1000 0x1040 8 2 ctl, actor := name1, pid := 0, st := st, step := 0, elem := 0, pause := false
    reply := none, stop := false, buf := [], done := 0, busy := false, key := none, adding := false }

def withTransfer (x : Transfer) (s : State) : State := { s with transfers := [x] }

theorem witness_LaunchesAndControl :
    (let s := shadowState 0
     launchForm (.launchCopy 10) = some (0, 10) ∧ ready s [] (xs [10]) = true ∧ quiet s = true ∧ s.user.shadow[6].toNat % 16 = 0 ∧
     launchTrap s 0 s.user.shadow = none ∧ s.transfers.length < 4) ∧
    launchTrap (shadowState 3) 0 (shadowState 3).user.shadow = none ∧
    launchTrap (shadowState 0xC01) 0 (shadowState 0xC01).user.shadow = none ∧
    (let s (action : Word) (st : TransferSt) : State := withTransfer (transferOf 3 st) { s0 with
      hart := { s0.hart with priv := .supervisor }
      user := { s0.user with shadow := #v[0, 0, 0, 0, 0, 0, 6, 0, 0, 0, 0, 0x100 * action + 1] } }
     controlForm (.controlPause 10) = some (1, 10) ∧ ready (s 1 .active) [] (xs [10]) = true ∧ (s 1 .active).sup.dheld = false ∧
     (s 1 .active).user.shadow[6].toNat % 16 = 6 ∧ (s 1 .active).user.shadow[11].toNat / 256 % 4 = 1 ∧
     launchTrap (s 1 .active) 0 (s 1 .active).user.shadow = none ∧
     ((s 1 .active).transfers.find? fun x => x.reply.isNone && x.id % 256 == 1) = some (transferOf 3 .active) ∧
     (transferOf 3 .active).snap[6].toNat % 16 = 3 ∧ (s 2 .paused).user.shadow[11].toNat / 256 % 4 = 2 ∧
     findTransfer (s 2 .paused) 1 = some (transferOf 3 .paused) ∧ 0 < snapRows (transferOf 3 .paused).snap) := by decide +kernel

theorem witness_TransfersAndSlots :
    (let x := transferOf 0 .active
     let s := withTransfer x handlerState
     findTransfer s x.id = some x ∧ snapMode x.snap = 0 ∧ x.step < snapRows x.snap ∧ snapMcast x.snap = false ∧
     poisoned s 0x1000 8 = false ∧ Memory.wf s.mem = true ∧ x.reply = none ∧ x.actor ≠ 0 ∧ isLive s x.actor = true) ∧
    (let x := { transferOf 0 .active with step := 2 }
     findTransfer (withTransfer x s0) x.id = some x ∧ snapRows x.snap ≤ x.step ∧ x.snap[7] = 0) ∧
    (transferOf 3 .gated).st = .gated ∧
    (let x := transferOf 3 .active
     let s := withTransfer x handlerState
     snapMode x.snap = 3 ∧ x.st = .active ∧ x.pause = false ∧ x.snap[7] = 0 ∧ x.step < snapRows x.snap ∧ x.stop = false ∧
     (match moveRow x (x.step % snapRing x.snap) s with | .on _ _ => true | _ => false) = true) ∧
    (let x := transferOf 0xC01 .active
     let s := withTransfer x handlerState
     snapMode x.snap = 1 ∧ snapFmt x.snap = 12 ∧ snapRop x.snap = 0 ∧ snapSkip x.snap = false ∧ x.elem < 8 / 4 ∧
     poisoned s 0x1040 8 = false) ∧
    (let m (r : Word) : MoveReq :=
       { slot := 3, actor := name1, receiver := r, tag := 0, flags := 0, pid := 0, replyTo := .job 1 0, start := none }
     (moveSlot (m name2) (actorState .idle .idle)).1 = .moved 3 ∧ (moveSlot (m (mkName 0 0 3 1)) (actorState .idle .idle)).1 = .noActor ∧
     (moveSlot (m name1) fullMailbox).1 = .mailboxFull ∧ namePkg (mkName 7 0 3 1) ≠ herePkg fullMailbox ∧
     (moveSlot (m (mkName 0 1 1 1)) (setActor 1025 actor2 (actorState .idle .idle))).1 = .outOfRoom ∧
     (let s := setActor 1025 actor2 (actorState .idle .idle)
      let t := writeKey s 0x80000 (readKey (placed s) 0 48)
      (moveSlot (m (mkName 0 1 1 1)) { t with ras := { t.ras with poison := [3 * 0x2000] } }).1 = .failed dMemoryUncorrectable)) := by
  decide +kernel

theorem witness_TransfersAndSlots_others :
    (let x := transferOf 0xC01 .active
     let s := withTransfer x handlerState
     x.busy = false ∧ x.stop = false ∧ x.buf = [] ∧ x.key = none ∧ s.sched.place = none ∧ x.step < snapRows x.snap ∧
     poisoned s 0x1000 8 = false ∧ Memory.wf s.mem = true ∧ x.adding = false ∧ x.done = 0) ∧
    (let x := { transferOf 2 .active with snap := (shadow 0x1000 0x1040 8 2 2).set 11 0x2000 }
     let s := withTransfer x { handlerState with ras := { handlerState.ras with poison := [0x2000] } }
     findTransfer s x.id = some x ∧ snapMode x.snap = 2 ∧ x.reply = none ∧ x.step < snapRows x.snap ∧
     poisoned s (s.coreid.toNat * 0x80000 + (x.snap[11] + BitVec.ofNat 64 (4 * x.step)).toNat) 4 = true ∧
     x.snap[11].toNat + 4 * x.step < 0x80000 ∧ x.actor ≠ 0 ∧ isLive s x.actor = true) := by decide +kernel

/-- A contribution of cluster 0 to COLID 5 of cluster 0: one line of i32. -/
def contrib : Contribution :=
  { dst := 0, src := 0, colid := 5, group := 0, own := 0, pid := 0, op := 0, fmt := 12, lines := 1, data := List.replicate 64 1 }

/-- A scalar load of i32 from group space is out, of cluster 0 or of its member 0 alone, and no member has answered. -/
def groupOut (ea : Word) : State := after (.lw ⟨10, 11, 0⟩) (regsOf [(11, ea)] s0)

theorem witness_CollectiveSteps :
    (let c := coll .waiting 0 false
     let s := withColl c
     findColl s c.cluster c.pid c.colid = some c ∧ c.st = .waiting ∧ poisoned s (scratchKey c.core c.src) (c.lines * 64) = false ∧
     ∀ d ∈ c.dests, reachable s (pkgOfCluster s d.cluster) = true) ∧
    findColl s0 contrib.dst contrib.pid contrib.colid = none ∧
    (let e := coll .active 1 false
     findColl (withColl e) contrib.dst contrib.pid contrib.colid = some e ∧ e.bitmap.getLsbD contrib.own.toNat = true) ∧
    (let e := coll .active 0 false
     let s := withColl e
     findColl s contrib.dst contrib.pid contrib.colid = some e ∧ e.bitmap.getLsbD contrib.own.toNat = false ∧ e.group = contrib.group ∧
     e.op = contrib.op.toNat ∧ e.fmt = contrib.fmt.toNat ∧ e.lines = contrib.lines ∧ countBits e.bitmap < e.expect ∧ e.absent = [] ∧
     contrib.data.length = e.lines * 64 ∧ Memory.wf s.mem = true) ∧
    (let x := { contrib with dst := 1 }
     let e := coll .active 0 false
     findColl (withColl e) x.src x.pid x.colid = some e ∧ e.expect = countBits e.bitmap + 1 ∧
     e.dests = [{ cluster := x.dst, acked := false }] ∧ ∃ d ∈ e.dests, d.cluster = x.dst ∧ d.acked = false) ∧
    ((groupOut 0xFFF2000600000000).off.jobs.map fun j =>
      (j.waiting.isEmpty, j.issued.map fun p => (p.leaves.isEmpty, (groupMembers p.va).length))) = [(true, [(true, 16)])] ∧
    ((groupOut 0xFFF2012600000000).off.jobs.map fun j =>
      (j.waiting.isEmpty, j.issued.map fun p => (p.leaves.isEmpty, groupMembers p.va))) = [(true, [(true, [0])])] := by decide +kernel

/-- A host queue on host address 0 in the given state, its head at 0, for actor 2. -/
def hostQ (st tail : Nat) : HostQueue := { base := 0, state := st, err := 0, cap := 4096, actor := name2, tail := tail, head := 0 }

/-- The host's link is up and ready, queue 3 stands as given, and actor 2 is live. -/
def hostState (h : HostQueue) : State :=
  let s := actorState .idle .idle
  { s with host := { s.host with queues := [(3, h)], ready := true } }

theorem witness_HostTraffic :
    (let s := { ctrState with host := { ctrState.host with ready := true } }
     s.host.up = true ∧ s.host.ready = true ∧ (counterAt s 4).st = .live ∧ (counterAt s 4).value.toNat + 3 < 2 ^ 64 ∧
     (0 : BitVec 12) = s.coreid ∧ (1 : BitVec 12) ≠ s.coreid ∧ Memory.wf s.mem = true ∧ poisoned s (ownBase + 383999999999) 1 = false) ∧
    s0.host.ready = false := by decide +kernel

theorem witness_HostQueuesAndLink :
    (let s := hostState (hostQ 0 0); s.host.up = true ∧ s.host.ready = true ∧ (queueAt s 3).state = 0) ∧
    (let s := hostState (hostQ 1 0)
     (queueAt s 3).state ≠ 0 ∧ (queueAt s 3).state = 1 ∧ (queueAt s 3).tail ≤ (16 : Word).toNat ∧
     (4096 : Word).toNat ≤ (queueAt s 3).head + (queueAt s 3).cap ∧ (queueAt s 3).head + (queueAt s 3).cap < (4112 : Word).toNat) ∧
    liveActor { hostState (hostQ 2 16) with actors := s0.actors } name2 = none ∧
    (let s := hostState (hostQ 1 16)
     let h := queueAt s 3
     liveActor s h.actor = some actor2 ∧ namePkg h.actor = s.ras.pkg.toNat ∧ h.head ≠ h.tail ∧
     poisoned s ownBase 16 = false ∧ loaded s ownBase 8 % 2 ^ 16 = 0 ∧ h.head + 16 ≤ h.tail ∧ 16 ≤ actor2.snap.mbox ∧
     loaded s ownBase 8 / 2 ^ 16 % 2 ^ 8 ≠ 3 ∧ mailboxBroken s 0 actor2 = none ∧ (ringPlace s 0 actor2 16 actor2.snap.mbox).2 = true) ∧
    (hostState (hostQ 1 0)).host.queues = [(3, hostQ 1 0)] ∧ isHostKey (hostBase + 8) = true ∧
    ({ ev := .homeRead (hostBase + 8) 8 (.job 1 0), via := none, place := none } : Entry) ∈
      (post (.homeRead (hostBase + 8) 8 (.job 1 0)) s0).sched.agenda := by decide +kernel

theorem witness_ErrorsAndRetirement :
    ((2 : BitVec 3) = 2 ∧ (levelAt s0 3).period ≠ 0) ∧
    (7 ∉ s0.ras.vacant ∧ 7 ∉ s0.ras.sparing ∧ (7 : BitVec 12) ≠ s0.coreid ∧ (7 : BitVec 12).toNat / 16 ∉ s0.ras.standbyUsed) ∧
    (let s := { s0 with ras := { s0.ras with sparing := [7], standbyUsed := [0], vacant := [9] } }
     (7 : BitVec 12).toNat ∈ s.ras.sparing ∧ (7 : BitVec 12).toNat / 16 ∈ s.ras.standbyUsed ∧ (9 : BitVec 12).toNat ∈ s.ras.vacant) := by
  decide

theorem witness_PowerAndIdentity :
    105 ≤ (105 : BitVec 16).toNat ∧ (104 : BitVec 16).toNat < 105 ∧ 115 ≤ (115 : BitVec 16).toNat ∧ (114 : BitVec 16).toNat < 115 ∧
    coreIdle s0 7 = true ∧ coreIdle s0 0 = false ∧ Memory.wf s0.mem = true ∧ s0.ras.powered = true ∧ s0.ras.stopped = false ∧
    s0.ras.corePower = true ∧ s0.ras.romHeld = false ∧ s0.ras.keyIndex < 32768 ∧ (List.replicate 32 (0 : Byte)).length = 32 := by decide

/-- A packet of package 0 to package 2 that has left, with a record. -/
def podPacket : Packet :=
  { via := { src := 0, dst := 2, channel := .request, rid := 0, kind := 0, pid := 0, flits := [], answers := none, answer := none }
    ev := .recordAdmit (msg 0 []), left := true, sent := 0 }

/-- Package 0 of a pod, with package 2 as a peer: its loss timer runs since 0, and it has not answered a packet. -/
def podState (lost : Bool) : State :=
  let s := { s0 with ras := { s0.ras with pkgSet := true }, ctr := { s0.ctr with timeline := 500000 } }
  let p := peerOf s 2
  let out := p.out.setIfInBounds 0 { next := 1, packets := [podPacket], expect := 0, applied := [] }
  { s with fab := { s.fab with peers := [(2, { p with known := true, lost := lost, timer := some 0, out := out })] } }

theorem witness_PeersAndPorts :
    (let s := podState false
     let p := peerOf s 2
     (2 : BitVec 12) ≠ s.ras.pkg ∧ p.lost = false ∧ p.timer = some 0 ∧ 0 + 500000 ≤ s.ctr.timeline.toNat ∧
     ((outStream s 2 .request).packets.find? fun q => q.left && q.via.rid == 0) = some podPacket ∧
     ((outStream s 2 .request).packets.find? fun q => q.left && q.via.rid == 1) = none ∧
     (∀ e ∈ s.sched.agenda, e.via ≠ some podPacket.via) ∧ (portAt s 31).lanesLost ≤ 1 ∧ s.ras.pkgSet = true) ∧
    (peerOf (podState true) 2).lost = true ∧ s0.ras.pkgSet = false ∧
    (let s := { podState false with ctr := s0.ctr }
     (peerOf s 2).timer = some 0 ∧ s.ctr.timeline.toNat < 0 + 500000) := by decide +kernel

/-- Port 2 is trained and has sent two flits to package 2, with SEQ 0 and 1, that are not acknowledged. -/
def flitState : State :=
  let s := podState false
  let f (n : Nat) : Flit := { header := BitVec.ofNat 64 (2 * 2 ^ 52), trailer := BitVec.ofNat 64 (n * 2 ^ 52), payload := n }
  { s with fab := { s.fab with ports := s.fab.ports.setIfInBounds 2 { Port.reset with trained := true, unacked := [f 0, f 1], seq := 2 } } }

/-! ## Steps of the agents -/

/-- R313: the spawn answers the name of slot 1, and the payload waits as a message of 8 bytes. -/
theorem test_spawn : let t := after (.spawnAtTarget (spawnReq 2)) typedState
    (t.sched.agenda.map (·.ev)).contains (.producerCompletion 1 0 (.value 0x0000000040000001)) = true ∧
    (actorAt t 1).st = .runnable ∧ (actorAt t 1).sbase = 0x4000 ∧ Memory.read t.mem 0x4000 4 = [8, 0, 0, 0] ∧
    Memory.read t.mem 0x4010 2 = [9, 0] := by decide +kernel

/-- R308: a0 the record, a1 its bytes, sp the top of the work region, hrem from the type's budget 12. -/
theorem test_dispatch : let t := after .dispatch dispState
    t.hart.pc = 0x90000 ∧ x t 10 = 0x1000 ∧ x t 11 = 16 ∧ x t 2 = 0x8200 ∧ x t 14 = 0x8000 ∧ t.sup.hrem = 4096 ∧
    t.act.name = name1 := by decide +kernel

/-- R344: a row is copied. -/
theorem test_copy : let s := withBytes 0x1000 [1, 2, 3, 4, 5, 6, 7, 8] (withTransfer (transferOf 0 .active) handlerState)
    Memory.read (after (.transferComplete 1) s).mem 0x1040 8 = [1, 2, 3, 4, 5, 6, 7, 8] := by decide +kernel

/-- R352: dst := dst + src, element by element; i32. -/
theorem test_reduce : let s := withBytes 0x1040 [0xFF, 0xFF] (withBytes 0x1000 [2] (withTransfer (transferOf 0xC01 .active) s0))
    Memory.read (after (.reduceElementUpdate 1) s).mem 0x1040 4 = [1, 0, 1, 0] := by decide +kernel

/-- R349: a source beyond the ranges takes cause 5 at its first byte. -/
theorem test_launch_trap : let s := { shadowState 0 with act := { handlerState.act with slimit := 0x1004 } }
    (after (.launchCopy 10) s).mach.mcause = 5 ∧ (after (.launchCopy 10) s).mach.mtval = 0x1004 ∧
    x (after (.launchCopy 10) { shadowState 0 with launches := 258 }) 10 = 2 := by decide +kernel

/-- R363: the status of a WALK: its steps in the upper half, the state in bits 15:8, the number below. -/
theorem test_query : let s := withTransfer { transferOf 3 .gated with step := 1 } { s0 with
      hart := { s0.hart with priv := .supervisor }
      user := { s0.user with shadow := #v[0, 0, 0, 0, 0, 0, 6, 0, 0, 0, 0, 1] } }
    x (after (.controlQuery 10) s) 10 = 0x0000000100000201 := by decide +kernel

/-- R372: before the firing a contribution is told to retry; R373: the first one becomes RES. -/
theorem test_contribution :
    (after (.contributionArrival contrib) (withColl (coll .waiting 0 false))).sched.agenda.map (·.ev) = [.canswerArrival contrib false] ∧
    Memory.read (after (.contributionArrival contrib) (withColl (coll .active 0 false))).mem 0x1080 4 = [1, 1, 1, 1] := by decide +kernel

theorem test_colset_malformed : let s := withBytes 0x1000 [0x60] colState
    (after (.colset (rt 0 11 0)) s).mach.mcause = 2 ∧ (after (.colset (rt 0 11 0)) (regsOf [(11, 0x1008)] s)).mach.mcause = 5 := by
  decide +kernel

/-- R341: a TAIL that is not a multiple of 16 stops the queue with error 4 and vector 64. -/
theorem test_host_queue : let t := after (.hostQueueTailWrite 3 8) (hostState (hostQ 1 0))
    queueAt t 3 = { hostQ 3 0 with err := 4 } ∧ t.host.msix = [64, 65] ∧
    (queueAt (after (.hostQueueForward 3) (hostState (hostQ 1 16))) 3).head = 16 := by decide +kernel

theorem test_doorbell : (after (.doorbellWrite 0 1) (hostState (hostQ 0 0))).mach.mip = 0x200 := by decide +kernel

/-- R413: 500 000 ns without an acknowledgement lose the peer. -/
theorem test_peer_loss : (peerOf (after (.peerLossTimeout 2) (podState false)) 2).lost = true ∧
    (peerOf (after (.peerLossTimeout 2) { podState false with ctr := { s0.ctr with timeline := 499999 } }) 2).lost = false := by
  decide +kernel

theorem test_scrub : let t := after (.scrubVisit 5 16 .lasting) s0
    t.ras.poison = [ownBase + 16] ∧ (levelAt t 5).lasting = 1 ∧ (after .powerLoss s0).ras.powered = false := by decide +kernel

/-- R428: the number that leaves service goes to the standby; the second of a cluster stays vacant. -/
theorem test_retirement : let s := { s0 with ras := { s0.ras with sparing := [7, 8] } }
    let t := after (.coreRetirement 7 (.ends 1)) s
    t.ras.standbyUsed = [0] ∧ (after (.coreRetirement 8 (.ends 1)) t).ras.vacant = [8] := by decide +kernel

/-- Ties at 5 and 7 with one bit below the step, one on each side. -/
theorem witness_RoundingIsNearest :
    0 < 1 ∧ 2 * 5 = 2 * (roundMag false 5 0 1 .rne * 2 ^ 1) + 2 ^ 1 ∧
    2 * (roundMag true 7 0 1 .rne * 2 ^ 1) = 2 * 7 + 2 ^ 1 := by decide +kernel

/-! ## Further clauses: exceptions, accesses, vectors, tiles -/

/-- Causes 2 and 25 are delegated to the exit engine. -/
def exitState : State := { handlerState with sup := { handlerState.sup with actdeleg := 0x0000000002000004 } }

theorem witness_ExceptionEntry_exit : exitState.hart.disp = false ∧ delegatedToExit exitState 2 = true ∧
    isLive exitState exitState.act.name = true ∧ dispState.hart.disp = true ∧ dispState.sched.place = none ∧
    dispState.ras.packageLog.length < 1024 := by decide +kernel

theorem witness_TrapReturns_prefix :
    (let s := { supState with sup := { supState.sup with spfv := true, spmv := true, sepc := 0x80008, spfirst := some (0x80008, 0x80000) } }
     prefixPending s = false ∧ s.sup.spfirst = some (s.sup.sepc, 0x80000) ∧ s.sup.dspgo = false) ∧
    s0.mach.status.spp = false := by decide

/-- Sixteen failed stores are held. -/
def heldState : State :=
  { s0 with sup := { s0.sup with dheld := true }, off := { s0.off with drain := List.replicate 16 (.store localEntry) } }

theorem witness_AccessFaultsTrap_atomics :
    (let s := regsOf [(11, 0x102)] s0
     ready s (xs ([11, 12] ++ [10])) [] = true ∧ (xval s 11).toNat % 4 ≠ 0 ∧ ready s (xs [11]) [] = true ∧
     lrForm (.lrW (rt 0 11 10)) = some (rt 0 11 10, 4) ∧ scForm (.scW (rt 12 11 10)) = some (rt 12 11 10, 4) ∧
     atomicForm (.casD ⟨true, true, 12, 11, 10⟩) = some (⟨true, true, 12, 11, 10⟩, .casD, 8) ∧ s.sup.dheld = false) ∧
    (xval (regsOf [(11, 0x0100000000000000)] s0) 11).toNat = 0x0100000000000000 ∧
    (xval (regsOf [(11, 0x80000)] s0) 11).toNat = 0x80000 ∧
    (let s := regsOf [(11, 0x1000)] userState; ready s (xs [11, 12]) [] = true ∧ localOk s (xval s 11).toNat 4 = false) ∧
    (let s := regsOf [(11, 0xFFF0000000000000)] s0
     groupScalarOk (address s 11 0) 4 = false ∧ 0xFFF0000000000000 ≤ (address s 11 0).toNat) ∧
    (let s := regsOf [(11, 0x0100000000000000)] s0; (address s 11 0).toNat = 0x0100000000000000) ∧
    (let s := regsOf [(11, 0x1000)] userState; localOk s (address s 11 0).toNat 8 = false) ∧
    (prefixPending heldState = false ∧ heldState.hart.wait = .none ∧ heldState.sup.dheld = true ∧
     drainStores heldState = localEntry :: List.replicate 15 localEntry ∧ (List.replicate 15 localEntry).length = 15 ∧
     releaseForm (.send (rt 12 11 0)) = true ∧ releaseForm (.fence 0 ⟨3, 3, 0, 0⟩) = true ∧ (storeForm (.sb ⟨12, 11, 0⟩)).isSome = true) := by
  decide +kernel

theorem witness_TranslatedAccesses_others :
    (let s := regsOf [(11, 0xFFF2000600000000)] s0
     ready s (xs [11]) (xs [10]) = true ∧ quiet s = true ∧ 0xFFF0000000000000 ≤ (address s 11 0).toNat ∧
     groupScalarOk (address s 11 0) 4 = true ∧ groupMembers (address s 11 0) ≠ []) ∧
    (let s := regsOf [(10, 1), (11, 0x00FFFFFFFFFFFFF8), (12, 2)] s0
     atomicForm (.casD (rt 12 11 10)) = some (rt 12 11 10, .casD, 8) ∧ ready s (xs ([11, 12] ++ [10])) (xs [10]) = true ∧
     quiet s = true ∧ 0x80000 ≤ (xval s 11).toNat ∧ (xval s 11).toNat < 0x0100000000000000 ∧ (xval s 11).toNat % 8 = 0 ∧
     (match translate s (stationOf (ownCore s)) s.sup.pid (xval s 11) .atomic with | (_, .ok _) => false | (_, .error _) => true) = true) ∧
    (match translate fetchState (stationOf (ownCore fetchState)) fetchState.sup.pid 0x80000 .atomic with
      | (_, .ok _) => true | (_, .error _) => false) = true := by decide +kernel

/-- f32 elements 1.5 and 2.5 in v1, 3.5 and NaN in v2. -/
def floatState : State := vregsOf [(0, 1), (1, 0x402000003FC00000), (2, 0x7FC0000040600000)] s0

theorem witness_VectorArithmeticResult_float :
    vecReady (.vfms (vt 0 false false true 2 1 3)) (after (.mod true true true true 31) floatState) = true ∧
    (exactElement (.vfms (vt 0 false false true 2 1 3)) floatState 0 15).isSome = true ∧
    vecReady (.vlog2 (vt 0 false false false 0 1 3)) floatState = true ∧
    (exactElement (.vlog2 (vt 0 false false false 0 1 3)) floatState 0 0).isSome = true ∧
    vecReady (.vmax (vt 0 false false true 2 1 3)) floatState = true ∧ isFloatFmt (effOf floatState).d = true ∧
    (floatPick (.vmax (vt 0 false false true 2 1 3)) floatState 0 1).isSome = true := by decide +kernel

/-- R38: 1.5 + 3.5 scaled by 1/2 and negated is -2.5, and CLAMP makes that +0. -/
theorem test_mod_clamp :
    elem 32 (after (.vadd (vt 0 false false true 2 1 3)) (after (.mod false true false false 31) floatState)) 3 0 = 0xC0200000 ∧
    elem 32 (after (.vadd (vt 0 false false true 2 1 3)) (after (.mod false true true false 31) floatState)) 3 0 = 0 := by decide +kernel

theorem witness_VectorReductions_others :
    vecReady (.vredsum (vt 0 false false true 0 1 3)) (after (.mod true true false false 31) floatState) = true ∧
    vecReady (.vredmin (vt 0 false false true 0 1 3)) floatState = true ∧
    (let s := after (.fmt 0 1 1 0) floatState
     vecReady (.vdot4 (vt 0 false false false 2 1 3)) s = true ∧ (effOf s).d = 0) := by decide +kernel

/-- An active loop ends at the pc. -/
def endState : State := loopState 2 0

theorem witness_PrivilegeAndPrefixTraps_forms :
    ((encode (.ctxload (rt 0 11 0))).isSome = true ∧ (encode (.stinval (rt 12 11 0))).isSome = true) ∧
    (let s := after (.fmt 0 31 31 16) s0
     prefixPending s = true ∧ s.hart.wait = .none ∧ (customForm (.spawn (rt 12 11 10))).isSome = true ∧
     (encode (.spawn (rt 12 11 10))).isSome = true ∧ (encode (.unlease (vt 0 false false false 0 11 0))).isSome = true) ∧
    ((prefixShape (.vmin (vt 0 false false false 2 1 3))).isSome = true ∧
     (match prefixShape (.vmin (vt 0 false false false 2 1 3)) with
       | some (mods, legal) => prefixOk mods legal (after (.mod true false false false 31) s0) | none => true) = false) ∧
    (match prefixShape (.tld (vt 0 false false false 12 11 0)) with
       | some (mods, legal) => prefixOk mods legal (after (.fmt 0 31 0 31) s0) | none => true) = false ∧
    atLoopEnd endState = true ∧ (after (.mod true false false false 31) s0).hart.pend.mv = true ∧
    (encode (.loop false 11 3)).isSome = true := by decide +kernel

/-- Two active i8 elements: one local, one translated (R165). -/
def mixedState : State := withFmt 8 (vregsOf [(0, 0x0101), (3, 0x0201)] (regsOf [(11, 0x7FFFF)] s0))

theorem witness_VectorLocalAccess_others :
    (let a := vt 0 false false true 0 11 3
     let s := mixedState
     (Instr.vld a).wf = true ∧ prefixOk false (moveFmts .contiguous) s = true ∧
     readyWithPrefix s (addrReads a .contiguous ++ maskReads a true) (vRegs a.d a) = true ∧ quiet s = true ∧
     (∀ k, k < 64 → activeAt s a 8 k = true →
       (elementAddress s a .contiguous k).toNat % 1 = 0 ∧ accessOk s (elementAddress s a .contiguous k) 1 = true) ∧
     activeAt s a 8 1 = true ∧ 0x80000 ≤ (elementAddress s a .contiguous 1).toNat ∧
     readyWithPrefix s (addrReads a .contiguous ++ vRegs a.d a ++ maskReads a false) [] = true) ∧
    (let a := vt 0 false false false 4 11 3
     let s := withFmt 8 (regsOf [(11, 0x0100000000000000)] s0)
     readyWithPrefix s (addrReads a .contiguous ++ maskReads a true) [] = true ∧ s.hart.storesDone = 0 ∧ s.sup.dheld = false ∧
     readyWithPrefix s (addrReads a .contiguous ++ vRegs a.d a ++ maskReads a false) [] = true ∧ activeAt s a 8 0 = true ∧
     (∀ j, j < 64 → activeAt s a 8 j = true → (elementAddress s a .contiguous j).toNat % 1 = 0) ∧
     accessOk s (elementAddress s a .contiguous 0) 1 = false) ∧
    (let a := vt 0 false false false 0 11 3
     let s := regsOf [(11, 0x102)] s0
     prefixOk false (moveFmts .contiguous) s = true ∧ activeAt s a 32 0 = true ∧ (elementAddress s a .contiguous 0).toNat % 4 ≠ 0) := by
  decide +kernel

/-- R162: the lowest element whose access is not accepted. -/
theorem test_vector_fault : let s := withFmt 8 (regsOf [(11, 0xFC0)] userState)
    let t := after (.vst (vt 0 false false false 0 11 3)) (regsOf [(11, 0xFC1)] s)
    t.mach.mcause = 7 ∧ t.mach.mtval = 0x1000 ∧ (after (.vst (vt 0 false false false 0 11 3)) s).hart.pc = 0x80004 := by decide +kernel

theorem witness_GroupAndTileLoadsStart_faults :
    (let a := vt 0 false false false 12 11 0
     let s := regsOf [(11, 0x108), (12, 0x20)] tileState
     readyWithPrefix s (xs [a.s1, a.s2]) [] = true ∧ s.hart.storesDone = 0 ∧ s.sup.dheld = false ∧
     readyWithPrefix s (xs [a.s1, a.s2] ++ tileRegs s a.d.toNat (destSpan a)) [] = true ∧ (xval s a.s1).toNat % 16 ≠ 0) ∧
    (let a := vt 0 false false false 12 11 0
     let s := regsOf [(11, 0x00FFFFFFFFFFFFF0), (12, 0x10)] tileState
     let h := moveShape s a
     prefixOk false tileMoveFmts s = true ∧ tilesInCount s a.d.toNat (destSpan a) = true ∧ tileFmt h.fmt = true ∧
     h.valid (destSpan a) = true ∧ (xval s a.s1).toNat % 16 = 0 ∧ (xval s a.s2).toNat % 16 = 0 ∧ 1 < h.rows ∧ 0 < h.rowBytes / h.step ∧
     accessOk s (BitVec.ofInt 64 ((xval s a.s1).toInt + 0 * (xval s a.s2).toInt + 0 * h.step)) h.step = true ∧
     accessOk s (BitVec.ofInt 64 ((xval s a.s1).toInt + 1 * (xval s a.s2).toInt + 0 * h.step)) h.step = false) := by decide +kernel

theorem witness_TilesWithoutLease_stores :
    (let a := vt 0 false false false 12 11 0
     let s := regsOf [(11, 0x80000), (12, 0x10)] tileState
     prefixOk false tileMoveFmts s = true ∧ tileFmt (moveShape s a).fmt = true ∧ (moveShape s a).valid (destSpan a) = true ∧
     readyWithPrefix s (xs [a.s1, a.s2] ++ tileRegs s a.d.toNat (destSpan a)) [] = true ∧
     (∀ x ∈ tileElems s a, accessOk s x.2 (moveShape s a).step = true) ∧ quiet s = true ∧ tileEntries s a ≠ []) ∧
    (match tileForm (.ttrn (vt 0 false false false 0 0 2)) with
      | some (ok, bad) => ok tileState && bad tileState && !tileState.sup.dheld | none => false) = true ∧
    (let s := { userState with user := { userState.user with tcount := 15 } }
     (match tileForm (.tzero (vt 2 false false false 0 0 12)) with | some (ok, bad) => ok s && bad s | none => false) = true) ∧
    (let a := vt 0 false false false 11 0 3
     let s := regsOf [(11, 2)] tileState
     (match tileForm (.tget a) with | some (ok, bad) => ok s && !bad s | none => false) = true ∧
     readyWithPrefix s (tileRegs s 0 (tileShape s 0).span ++ xs [a.s2]) [] = true ∧
     selBad (xval s a.s2) (tileShape s 0) (partElems (tileShape s 0).fmt (tgetFmt s a)) = true) ∧
    (let a := vt 0 false false false 11 3 0
     let s := regsOf [(11, 2)] tileState
     (match tileForm (.tins a) with | some (ok, bad) => ok s && !bad s | none => false) = true ∧
     readyWithPrefix s (.v a.s1.toNat :: xs [a.s2] ++ tileRegs s a.d.toNat (destSpan a)) [] = true ∧
     selBad (xval s a.s2) (tileShape s 0) (partElems (tileShape s 0).fmt (tinsFmt s a)) = true) := by decide +kernel

theorem witness_ConversionsRetireOrTrap_values :
    (let s := after (.fmt 0 31 0 8) (vregsOf [(4, 0x4348000040200000)] s0)
     let e := effOf s
     let conv (k : Nat) := convertElem s.user.oft e.mods.sat (modSteps e.mods (decodeElem e.a (velem s 4 (vt 0 false false false 0 4 3) 32 k))) e.d e.rm
     (conv 0).isSome = true ∧ conv 1 = none ∧
     ∀ k, k < 16 → k ≠ 1 → (conv k).isSome = true) ∧
    (let s := after (.fmt 0 31 4 1) (regsOf [(10, 254)] (vregsOf [(4, 0x7B)] s0))
     let e := effOf s
     let conv (k : Nat) := convertElem s.user.oft false (decodeMx e.a (elemAt (fmtWidth e.a) (getV s 4).val.toNat k) ((xval s 10).toNat % 2 ^ 8)) e.d e.rm
     conv 0 = none ∧ ∀ k, k < 32 → k ≠ 0 → (conv k).isSome = true) ∧
    (let s := after (.fmt 0 31 1 5) (vregsOf [(4, 0x7F80000000003F80)] s0)
     let e := effOf s
     let value (k : Nat) := modSteps e.mods (decodeElem e.a (velem s 4 (vt 0 false false false 10 4 3) 16 k))
     (∀ k, k < 32 → k ≠ 3 → blockTraps s e.d e.mods.sat (value k) = false) ∧
     blockTraps s e.d e.mods.sat (value 3) = (isInf (value 3) && s.user.oft)) := by decide +kernel

/-- Tile 8 is f32 2 × 32 with an infinity where `inf` says so; tile 0 is i8 2 × 32 and tile 2 e2m1 2 × 32. -/
def blockState (inf : Bool) : State :=
  writeM 8 (if inf then 0x7F8000003F800000 else 0x400000003F800000) { tileState with
    user := { tileState.user with tshape := ((tileState.user.tshape.setIfInBounds 8 (shape 0 32 2)).setIfInBounds 2 (shape 5 32 2)).setIfInBounds 0 (shape 8 32 2) } }

theorem witness_ConversionsRetireOrTrap_tiles :
    (let a := vt 0 false false false 0 8 2
     let s := blockState false
     prefixOk true (fun e => e.p.b == 31) s = true ∧ tcvtIllegal a s = false ∧ tcvtBad a s = false ∧
     readyWithPrefix s (tileRegs s a.s1.toNat (withScales (cvtSrc s a).fmt (cvtSrc s a).span)) [] = true ∧
     tilesFree s (physTile s a.d.toNat) (withScales (cvtDst s a).fmt (destSpan a)) = true ∧ isBlockFmt (cvtDst s a).fmt = true ∧
     (cvtDst s a).rows * (cvtDst s a).cols = 64) ∧
    (let value (s : State) (k : Nat) := decodeElem 0 (elemAt 32 (tval s 8 1) k)
     (∀ k, k < 64 → blockTraps (blockState false) 5 false (value (blockState false) k) = false) ∧
     blockTraps (blockState true) 5 false (value (blockState true) 0) = false ∧
     blockTraps (blockState true) 5 false (value (blockState true) 1) = true) ∧
    (let a := vt 0 false false false 0 8 0
     let s := blockState true
     tcvtIllegal a s = false ∧ tcvtBad a s = false ∧ isBlockFmt (cvtDst s a).fmt = false ∧
     convertElem s.user.oft false (decodeElem 0 (elemAt 32 (tval s 8 1) 1)) 8 (effOf s).rm = none ∧
     (convertElem s.user.oft false (decodeElem 0 (elemAt 32 (tval s 8 1) 0)) 8 (effOf s).rm).isSome = true) := by decide +kernel

theorem witness_MatrixCommandEnters_traps :
    (let a := vt 0 false false false 2 0 4
     matIllegal a { tileState with user := { tileState.user with tshape := tileState.user.tshape.setIfInBounds 4 (shape 8 2 2) } } = true ∧
     matIllegal a { tileState with arr := ArrayUnit.reset } = false ∧ matBad a { tileState with arr := ArrayUnit.reset } = true ∧
     (ownLease { tileState with arr := ArrayUnit.reset }).st = .none ∧ (encode (.mmz a)).isSome = true) := by decide +kernel

/-! ## Further clauses: the Array, counters, homes, actors, the host, errors, peers -/

theorem witness_LeasesAndArray_traps :
    (prefixPending tileState = false ∧ (ownLease tileState).st ≠ .none ∧ (encode (.lease (vt 0 false false false 0 11 10))).isSome = true) ∧
    (let s := regsOf [(11, 3)] s0; ready s (xs [11]) [] = true ∧ (xval s 11).toNat ∉ [1, 2, 4] ∧ (ownLease s).st = .none) ∧
    (let s := regsOf [(11, 0x21)] tileState
     ready s (xs [11]) [] = true ∧ (xval s 11).toNat / 16 % 16 ≠ (ownLease s).count ∧
     (encode (.unlease (vt 0 false false false 0 11 0))).isSome = true) := by decide +kernel

/-- Sixteen arms of this core are out. -/
def armsOut : State := { ctrState with ctr := { ctrState.ctr with arms := [(0, 16)] } }

theorem witness_CounterInstructions_index :
    hIndex (xval s0 11) = 0 ∧ ready s0 (xs [11, 12]) [] = true ∧ s0.sup.dheld = false ∧ s0.hart.wait = .none ∧ s0.hart.priv ≠ .user ∧
    16 ≤ Tab.getD armsOut.ctr.arms (ownCore armsOut) 0 ∧ ready armsOut (xs [11, 12]) [] = true := by decide +kernel

theorem witness_CounterBankOperations_poisoned :
    (let s := setCounter 4 { live 5 with st := .poisoned } s0
     hIndex h4 ≠ 0 ∧ (counterAt s (counterKey s h4)).st = .poisoned ∧ (counterAt s (counterKey s h4)).check = hCheck h4 ∧
     (counterAt s (counterKey s h4)).pid = anyone.pid) := by decide +kernel

/-- R249, R269: an add to a POISONED counter fails, and cset mends it. -/
theorem test_poisoned : let s := setCounter 4 { live 5 with st := .poisoned } s0
    (after (.homeCadd h4 1 anyone (.job 1 0)) s).sched.agenda.map (·.ev)
      = [.producerCompletion 1 0 (.failed dMemoryUncorrectable 0)] ∧
    (counterAt (after (.homeCset h4 9 anyone (.job 1 0)) s) 4).st = .live := by decide +kernel

theorem witness_CounterAllocationAndTime_pending :
    (let s := post (.homeCwait h4 9 anyone (.job 1 0)) ctrState
     s.ctr.waiters = [] ∧ s.sched.agenda.length = 1 ∧ (s.sched.agenda.map (·.ev)) = [.homeCwait h4 9 anyone (.job 1 0)] ∧
     replyKey s (.job 1 0) = replyKey s (.job 1 0)) ∧
    (waitJob.wait.map (·.kind)) = some 2 ∧
    ((after (.hostArmThresholdWrite 5 none 9) { s0 with host := { s0.host with ready := true } }).ctr.hostArms.map (·.1)) = [5] := by
  decide +kernel

theorem witness_HomeAndStationSteps_host :
    (let s := { s0 with host := { s0.host with up := false } }; isHostKey hostBase = true ∧ s.host.up = false) ∧
    drainStores mem8 = [] ∧ (0 : Nat) < 8 := by decide +kernel

/-- The page at 0x80000 lies in the HBM of package 2, which is a peer. -/
def peerPageState : State :=
  writeWordKey { fetchState with ras := { fetchState.ras with pkgSet := true }, fab := (podState false).fab }
    (ownBase + fetchTable 0 + 8 * vpnAt 0x80000 0) (BitVec.ofNat 64 (2 * 2 ^ 45 + 0x13F))

theorem witness_ProducersAndDrain_pages :
    (let e := { localEntry with addr := 0x80008, scratch := false }
     let s := { fetchState with off := { fetchState.off with drain := [.store e] } }
     s.sup.dheld = false ∧ s.off.jobs = [] ∧ e.out = none ∧ e.lost = false ∧ s.ras.deadChannels = [] ∧
     (match translate s (stationOf (ownCore s)) e.pid e.addr .store with
       | (u, .ok x) => x.aperture == 0 && Memory.wf u.mem | (_, .error _) => false) = true) ∧
    (let e := { localEntry with addr := 0x80008, scratch := false }
     let s := { peerPageState with off := { peerPageState.off with drain := [.store e] } }
     runsOf e.bytes = [(0, [7, 8])] ∧
     (match translate s (stationOf (ownCore s)) e.pid e.addr .store with
       | (u, .ok x) => x.aperture == 1 && Memory.wf u.mem && reachable s x.pkg | (_, .error _) => false) = true) ∧
    (let e := { localEntry with addr := 0x80008, scratch := false, out := some 5 }
     ({ s0.off with drain := [.store e] } : OffCore).drain = .store e :: [] ∧ e.out = some 5 ∧ runsOf e.bytes = [(0, [7, 8])]) := by
  decide +kernel

/-- R116, R405: a store to a peer's page goes out as a WRITE and stays in the queue until its answer. -/
theorem test_peer_store : let s := { peerPageState with off := { peerPageState.off with
      drain := [.store { localEntry with addr := 0x80008, scratch := false }] } }
    let t := after (.drainEntryPerformed) s
    (t.sched.agenda.map fun e => (e.via.map fun a => (a.dst, a.channel, a.kind))) = [some (2, .request, 1)] ∧ t.off.drain.length = 1 ∧
    (after (.producerCompletion 1 0 (.value 0)) t).off.drain = [] := by decide +kernel

/-- x11 is in the given state. -/
def operandState (st : RegState) : State := putX 11 { val := 0, st := st } s0

theorem witness_WaitsEnd_beginnings :
    operandsAt (.integerOp (.reg .add 10 11 12)) s0 = some ([([.x 11], false), ([.x 12], false)], [.x 10]) ∧
    ((operandsAt (.vbcast (vt 0 false true false 0 11 3)) (operandState (.empty 1))).map fun o => o.1) = some [([.x 11], true)] ∧
    (operandState (.faulted 1 2)).hart.storesDone = 0 ∧ (operandState (.faulted 1 2)).ras.regErrors = [] ∧
    regState (operandState (.faulted 1 2)) (.x 11) = .faulted 1 2 ∧ (regState (operandState (.empty 1)) (.x 11)).isEmpty = true ∧
    (regState (putX 10 { val := 0, st := .empty 1 } s0) (.x 10)).isEmpty = true ∧
    (let s := { s0 with hart := { s0.hart with
       wait := .none, x0 := [{ job := 1, pc := 0x80000, next := s0.hart.pc, atReturn := false, failed := some 3 }] } }
     trapsHere s 25 = true ∧ s.hart.x0.length = 1) ∧
    (answered .none).hart.wait = .response := by decide +kernel

/-- R50, R53: the trap value names the register: 11 for x11, 33 for v1. -/
theorem test_faulted_source : let t := after (.integerOp (.reg .add 10 11 12)) (operandState (.faulted 1 2))
    t.mach.mcause = 25 ∧ t.mach.mtval = 11 ∧ t.sup.dfpc = 1 ∧ t.sup.dfinfo = 2 ∧
    (after (.vbcast (vt 0 false true false 0 11 3)) (operandState (.empty 1))).mach.mcause = 24 := by decide +kernel

theorem witness_InterruptEntry_prefix :
    (let s := after (.fmt 0 31 31 16) { supState with mach := { supState.mach with mip := 0x200, mie := 0x200, status := { supState.mach.status with sie := true } } }
     interruptToTake s = some 9 ∧ prefixPending s = true ∧ heldAtInstr s = false ∧ s.mach.mideleg.getLsbD 9 = true) := by decide +kernel

theorem witness_MessagesAreSent_traps :
    (let s := regsOf [(11, name2), (12, 0x1000000000)] handlerState
     let d := (xval s 12).toNat
     ready s (xs [11, 12]) [] = true ∧ quiet s = true ∧ d % 2 ^ 19 % 8 = 0 ∧ d / 2 ^ 24 % 2 ^ 12 = 0 ∧ d / 2 ^ 36 % 16 ≠ 0) ∧
    (let s := regsOf [(11, 0x0002000000080001), (12, 0)] handlerState
     groupNameReserved (xval s 11) = true ∧ (xval s 12).toNat / 2 ^ 19 % 2 ^ 5 = 0) ∧
    groupNameReserved 0x0008000000080000 = false ∧ groupNameOk 0x0008000000080000 = false ∧
    xval handlerState 11 = 0 := by decide +kernel

theorem witness_DispatchAndBudget_error :
    (let s := { dispState with ras := { dispState.ras with poison := [0] } }
     s.hart.disp = true ∧ boundedOutstanding s = false ∧ headActor s ≠ none ∧ poisoned s (s.coreid.toNat * 0x80000) 0x100 = true ∧
     s.sched.place = none ∧ s.ras.packageLog.length < 1024) ∧
    poisoned dispState (dispState.coreid.toNat * 0x80000) 0x100 = false ∧ poisoned dispState (headRecord dispState 0 (actor1 .runnable)) 16 = false := by
  decide +kernel

theorem witness_LinkAndCollectiveInstructions_faults :
    (let s := regsOf [(11, 0x1008)] handlerState
     quiet s = true ∧ ready s (xs [11]) [] = true ∧ s.hart.priv = .user ∧ s.act.name ≠ 0 ∧ descOk s (xval s 11) 64 64 = false) ∧
    (let s := regsOf [(11, 0x13C0)] supDesc
     descOk s (xval s 11) 64 64 = true ∧ descOk (writeKey s 0x13C0 [0, 1]) (xval s 11) 64 (64 + 64 * supChildren (descWord (writeKey s 0x13C0 [0, 1]) 0x13C0)) = false) ∧
    (let s := { colState with hart := { colState.hart with wait := .registration, answer := .failed dStaleCounter, desc := (List.range 8).map (colDesc colState (rt 0 11 0)) } }
     s.hart.wait = .registration ∧ s.hart.answer = .failed dStaleCounter ∧ quiet s = true ∧ ready s (xs [11]) [] = true ∧ heldDesc s 2 = h4) := by
  decide +kernel

/-- The link table of core 0 holds 8,192 entries. -/
def fullLinks : State :=
  let s := actorState .idle .idle
  { s with actors := { s.actors with links := List.replicate 8192 { kind := .link, owner := name1, named := name1 } } }

theorem tableFull_of_replicate (s : State) (o : Word) (n : Nat) (l : LinkEntry) (hn : 8192 ≤ n)
    (hl : s.actors.links = List.replicate n l) (h : ownerCore s l.owner = ownerCore s o) : tableFull s o = true := by
  unfold tableFull; rw [hl, List.filter_replicate_of_pos (by simp [h])]; simpa using hn

theorem witness_DeathsAndLinks_waits :
    (liveActor fullLinks name2 = some actor2 ∧ tableFull fullLinks name2 = true) ∧
    (let d : Death := { reason := 2, detail := 7, origin := name1, cascade := false }
     let s := setActor 1 { actor1 .idle with st := .exiting, death := some d }
       { actorState .idle .idle with colls := [coll .active 0 false] }
     (actorAt s (actorIx s name1)).st = .exiting ∧ (actorAt s (actorIx s name1)).inc = nameInc name1 ∧
     coll .active 0 false ∈ s.colls ∧ (coll .active 0 false).owner = name1 ∧ collBusy (coll .active 0 false) = true ∧ s.transfers = []) := by
  exact ⟨⟨by decide +kernel, tableFull_of_replicate _ _ 8192 _ (by decide) rfl (by decide +kernel)⟩, by decide +kernel⟩

theorem witness_RestartSteps_gone :
    (let s := withSup (failedSup 1) s0; findSup s (failedSup 1).name = some (failedSup 1) ∧ isLive s (failedSup 1).name = false) := by
  decide +kernel

/-- The host's link is up and its interface ready. -/
def hostUp (s : State) : State := { s with host := { s.host with ready := true } }

theorem witness_HostTraffic_bounds :
    (let s := hostUp ctrState
     let k := 2 ^ 22 - 1
     s.host.up = true ∧ s.host.ready = true ∧ k < 2 ^ 22 ∧ k % 16384 ≠ 0 ∧ (63 : Nat) < 64 ∧ (wordToBytes 8 3).length = 8 ∧
     (counterAt (setCounter k (live 5) s) k).st = .live ∧ reachable s (hPkg (hostArmAt s 63).handle) = true ∧
     (0x4000000 : Nat) ≤ 0x4000000 ∧ 384000000000 < 383999999993 + 8) := by decide +kernel

/-- R274, R419: another size, another alignment and an offset beyond the window are not supported. -/
theorem test_bar0 : let s := hostUp ctrState
    (after (.hostCounterRead (.bar0 (0x2000000 + 32)) 8 1) s).host.answers = [(1, .data [5, 0, 0, 0, 0, 0, 0, 0])] ∧
    (after (.hostCounterRead (.bar0 (0x2000000 + 32)) 4 1) s).host.answers = [(1, .unsupported)] ∧
    (after (.hostCounterRead (.bar0 0x4000000) 8 1) s).host.answers = [(1, .unsupported)] ∧
    (after (.hostCounterRead (.config 0) 4 1) ctrState).host.answers = [(1, .retry)] := by decide +kernel

theorem witness_HostQueuesAndLink_descriptor :
    (let h := queueAt (hostState (hostQ 0 0)) 3
     h.state = 0 ∧ h.err < 2 ^ 8 ∧ h.cap < 2 ^ 32 ∧ h.base < 2 ^ 45 ∧ h.tail < 2 ^ 64 ∧ h.head < 2 ^ 64 ∧ (wordToBytes 8 64).length = 8 ∧
     (0x1000 : Word).getLsbD 63 = false) ∧
    (let s := post (.homeRead (hostBase + 8) 8 (.job 1 0)) s0
     ∃ e ∈ s.sched.agenda, e.ev = .homeRead (hostBase + 8) 8 (.job 1 0)) := by decide +kernel

/-- R339: a write of ACTOR is taken while the queue is DISABLED, and STATE reads in bits 62:60 of word 1. -/
theorem test_queue_descriptor :
    (queueAt (after (.hostCounterAdd (64 * 3 + 16) 8 name1) (hostState (hostQ 0 0))) 3).actor = name1 ∧
    (after (.hostCounterRead (.bar0 (64 * 3 + 8)) 8 1) (hostState (hostQ 2 0))).host.answers
      = [(1, .data (wordToBytes 8 0xA000000000001000))] := by decide +kernel

theorem witness_ErrorsAndRetirement_adoption :
    (let s := { s0 with ras := { s0.ras with sparing := [0] } }
     (0 : BitVec 12) = s.coreid ∧ (0 : BitVec 12).toNat ∉ s.ras.vacant ∧ (0 : BitVec 12).toNat ∈ s.ras.sparing ∧
     (0 : BitVec 12).toNat / 16 ∉ s.ras.standbyUsed) := by decide

theorem witness_PowerAndIdentity_keys :
    (let s := { s0 with ras := { s0.ras with keyIndex := 5 } }; 4 < s.ras.keyIndex) ∧
    (let s := { s0 with ras := { s0.ras with keyIndex := 32768 } }; 32768 ≤ s.ras.keyIndex ∧ s.ras.powered = true) := by decide

theorem witness_PeersAndPorts_flits :
    (let s := flitState
     let u := (portAt s 2).unacked
     (∀ k < 32, k ≠ 2 → (portAt s k).unacked = []) ∧ (portAt s 2).waiting = [] ∧
     (u.map fun f => (headerDst f.header, trailerSeq f.trailer)) = [(2, 0), (2, 1)] ∧ (s.fab.peers.map fun x => x.1) = [2]) ∧
    (∀ k < 32, (portAt s0 k).unacked = []) := by decide +kernel

/-- R409: an acknowledgement takes the flits up to its SEQ. -/
theorem test_flit_acknowledgement : (portAt (after (.flitAcknowledgement 2 0) flitState) 2).unacked.length = 1 ∧
    (portAt (after (.flitAcknowledgement 2 1) flitState) 2).unacked = [] ∧
    (portAt (after (.linkRetry 2 0) flitState) 2).resent = 2 := by decide +kernel

/-! ## Further clauses of the third round -/

/-- This package in a pod with package 2, whose loss timer runs. -/
def inPod (s : State) : State := { s with ras := { s.ras with pkgSet := true }, fab := (podState false).fab }

theorem witness_RestartSteps_remote :
    (let c : Child := { typ := 2, place := mkName 2 0 0 0, standby := 0, image := 0, imgLen := 0, init := 0, links := 0, name := name2
                        old := 0, oldReason := 0, oldDetail := 0, atStandby := false }
     let u := { sup1 .round with todo := [0], children := [c] }
     let s := inPod (withSup u (setActor 1 (actor1 .idle) typedState))
     findSup s u.name = some u ∧ isLive s u.name = true ∧ u.children[0]? = some c ∧ childPlace s u c ≠ 0 ∧
     reachable s (namePkg (childPlace s u c)) = true ∧ namePkg (childPlace s u c) ≠ herePkg s) ∧
    ({ sup1 .round with todo := [0], request := .out } : Sup).request = .out := by decide +kernel

theorem witness_TrapReturns_machine :
    (prefixPending s0 = false ∧ s0.hart.priv = .machine ∧ s0.sup.dspgo = false) ∧
    (let s := { s0 with sup := { s0.sup with mdfrom := true }, mach := { s0.mach with status := { s0.mach.status with mpp := .machine } } }
     s.sup.mdfrom = true ∧ s.mach.status.mpp = .machine) := by decide

theorem witness_AccessFaultsTrap_ends :
    (let s := { handlerState with sup := heldState.sup, off := heldState.off }
     prefixPending s = false ∧ s.hart.wait = .none ∧ s.sup.dheld = true ∧ drainStores s = localEntry :: List.replicate 15 localEntry ∧
     s.hart.priv = .user ∧ s.act.name ≠ 0) := by decide +kernel

theorem witness_VectorArithmeticResult_picks :
    (let a := vt 0 false false true 2 1 3
     let b := vt 0 false false false 0 1 3
     let x := vt 0 false false false 0 11 3
     vecReady (.vand a) floatState = true ∧ (floatPick (.vand a) floatState 0 0).isSome = true ∧
     vecReady (.vmov b) floatState = true ∧ (floatPick (.vmov b) floatState 0 0).isSome = true ∧
     vecReady (.vbcast x) floatState = true ∧ (floatPick (.vbcast x) floatState 0 0).isSome = true ∧
     vecReady (.vidx (vt 0 false false false 0 0 3)) floatState = true ∧
     (floatPick (.vidx (vt 0 false false false 0 0 3)) floatState 0 15).isSome = true) := by decide +kernel

/-- R147: element 2 of an index in f32 is 2.0; a broadcast takes the low 32 bits. -/
theorem test_float_moves :
    elem 32 (after (.vidx (vt 0 false false false 0 0 3)) floatState) 3 2 = 0x40000000 ∧
    elem 32 (after (.vbcast (vt 0 false false false 0 11 3)) (regsOf [(11, 0x17FC00000)] floatState)) 3 7 = 0x7FC00000 := by decide +kernel

/-- The lease of this core, of one lane group, is requested, and it has commands. -/
def requesting : State := after (.lease (vt 0 false false false 0 11 10)) (regsOf [(11, 2)] s0)

theorem witness_LeasesAndArray_grant :
    (let s := { requesting with arr := { requesting.arr with reserve := [(0, 12)], queue := queued.arr.queue } }
     s.arr.reserve.find? (fun r => (weighted s).contains r.1 && setFree s r.1 r.2) = some (0, 12) ∧
     (∀ k, k < 16 → atBoundary s k = true → runOver s k = false) ∧ hasCommands s 0 = true) ∧
    (contenders requesting = [0] ∧ (∀ k, k < 16 → (leaseOf requesting k).st ≠ .held) ∧ requesting.arr.reserve = [] ∧
     requesting.arr.outOfService = 0 ∧ requesting.arr.due = true ∧ (leaseOf requesting 0).count ∈ [1, 2, 4]) := by decide +kernel

theorem witness_CsrInstructionResult_effects :
    (ready s0 (xs [11]) (xs [10]) = true ∧ csrForm (.csrrw ⟨10, 11, 0x80A⟩) = some (.write, ⟨10, 11, 0x80A⟩, false) ∧
     csrAllowed s0 0x80A true = true ∧ csrAllowed s0 0x80D true = true ∧ csrAllowed s0 0x5C8 true = true ∧
     atLoopEnd (writeCsr 0x80A 9 { s0 with hart := { s0.hart with pc := 0x80000 } }) = false ∧ csrWrites .write ⟨10, 11, 0x80A⟩ = true) ∧
    (csrReads .write ⟨10, 11, 0x821⟩ = true ∧ csrReads .write ⟨0, 11, 0x821⟩ = false ∧ csrAllowed s0 0x821 true = true ∧
     ({ s0 with arr := { s0.arr with results := [5, 6] } } : State).arr.results = 5 :: [6] ∧ s0.arr.results = []) ∧
    (csrForm (.csrrs ⟨10, 0, 0x7E1⟩) = some (.set, ⟨10, 0, 0x7E1⟩, false) ∧ csrReads .set ⟨10, 0, 0x7E1⟩ = true ∧
     csrAllowed s0 0x7E1 (csrWrites .set ⟨10, 0, 0x7E1⟩) = true ∧ s0.ras.clusterLog = []) ∧
    (let s := shadowState 0
     csrAllowed s 0x83F (csrWrites .set ⟨10, 0, 0x83F⟩) = true ∧ csrReads .set ⟨10, 0, 0x83F⟩ = true ∧ quiet s = true ∧
     ready s (xs [0]) (xs [10]) = true ∧ launchTrap s 0 s.user.shadow = none ∧ snapMode s.user.shadow ≠ 6 ∧ s.transfers.length < 4) ∧
    (let s := { supState with user := { s0.user with shadow := #v[0, 0, 0, 0, 0, 0, 6, 0, 0, 0, 0, 1] } }
     quiet s = true ∧ launchTrap s 0 s.user.shadow = none ∧ snapMode s.user.shadow = 6) := by decide +kernel

/-- R192: `csrrs` of qres takes the oldest result; R344: `csrrs` of celaunch gives the number of the transfer. -/
theorem test_csr_effects :
    (let t := after (.csrrs ⟨10, 0, 0x821⟩) { s0 with arr := { s0.arr with results := [5, 6] } }; x t 10 = 5 ∧ t.arr.results = [6]) ∧
    (let t := after (.csrrs ⟨10, 0, 0x83F⟩) { shadowState 0 with launches := 7 }; x t 10 = 7 ∧ t.transfers.length = 1) ∧
    (after (.csrrw ⟨0, 11, 0x80A⟩) (regsOf [(11, 3)] { s0 with hart := { s0.hart with loop0 := ⟨0x70000, s0.hart.pc, 0⟩ } })).hart.pc = 0x70000 := by
  decide +kernel

theorem witness_CounterBankOperations_packets :
    (let o : Origin := { src := 2, dst := 0, ch := .request, rid := 7, kind := 4, pid := 0 }
     replyBase (.over o (.job 1 0)) ≠ .hart ∧ counterValue ctrState h4 < (9 : Word).toNat ∧
     tableUse ctrState (counterKey ctrState h4 / 16384) < 1024) := by decide +kernel

/-- A host read of job 1 is out since time 0. -/
def lateRead (now : Word) : State :=
  post (.homeRead (hostBase + 8) 8 (.job 1 0)) { s0 with
    off := { s0.off with jobs := (after (.ld ⟨10, 11, 0⟩) (regsOf [(11, 0x80008)] fetchState)).off.jobs.map fun j => { j with id := 1 } }
    ctr := { s0.ctr with timeline := now } }

theorem witness_HomeAndStationSteps_late :
    (isHostKey (hostBase + 8) = true ∧ (lateRead 450000).host.up = true ∧ hostFails (lateRead 450000) (hostBase + 8) (.job 1 0) = true) ∧
    (let s := { s0 with ras := { s0.ras with poison := [ownBase] } }; 0 < 8 ∧ poisoned s ownBase 8 = true) ∧
    (poisoned s0 0x100 8 = false ∧ isHostKey 0x100 = false) := by decide +kernel

theorem witness_HostQueuesAndLink_late :
    (∃ e ∈ (lateRead 450000).sched.agenda, e.ev = .homeRead (hostBase + 8) 8 (.job 1 0)) ∧
    hostReadLate (lateRead 450000) (.job 1 0) = true ∧ hostReadLate (lateRead 449999) (.job 1 0) = false := by decide +kernel

/-- The page at 0x80000 lies in host memory. -/
def hostPageState : State :=
  writeWordKey fetchState (ownBase + fetchTable 0 + 8 * vpnAt 0x80000 0) 0x23F

/-- What translation says of the page of the store at the head. -/
def pageOf (s : State) : Option (Nat × Bool × Bool) :=
  match translate s (stationOf (ownCore s)) 0 0x80008 .store with
  | (u, .ok x) => some (x.aperture, u.host.up, Memory.wf u.mem)
  | (_, .error _) => none

theorem witness_ProducersAndDrain_kinds :
    (let e := { localEntry with addr := 0x80008, scratch := false }
     let s (t : State) : State := { t with off := { t.off with drain := [.store e] } }
     let down := { hostPageState with host := { hostPageState.host with up := false } }
     pageOf (s hostPageState) = some (2, true, true) ∧ pageOf (s down) = some (2, false, true) ∧
     (s hostPageState).ras.deadChannels = [] ∧ (s hostPageState).hart.wait = .none ∧ (s down).sup.dheld = false ∧ (s down).off.jobs = [] ∧
     pageOf (s s0) = none) ∧
    (let s := { s0 with hart := { s0.hart with wait := .runEnd name1 } }; s.hart.wait = .runEnd name1) ∧
    (let es : List Effect := [⟨0, .message, .recordAdmit (msg 0 [])⟩]
     (es.any fun e => effectLater e.ev) = true ∧ (∃ e ∈ es, effectPending (post (.recordAdmit (msg 0 [])) s0) e.ev = true) ∧
     (∀ e ∈ es, effectPending s0 e.ev = false)) := by decide +kernel

/-- R117, R221: a release whose record is with the mailbox agent is over; R210: a store to host memory with its link up. -/
theorem test_drain_kinds :
    (let es : List Effect := [⟨0, .message, .recordAdmit (msg 0 [])⟩]
     let s := { s0 with off := { s0.off with drain := [.sent 3 es] } }
     (after .releaseTakesEffect s).off.drain = [] ∧ after .releaseTakesEffect (post (.recordAdmit (msg 0 [])) s) = post (.recordAdmit (msg 0 [])) s) ∧
    (let s := { hostPageState with off := { s0.off with drain := [.store { localEntry with addr := 0x80008, scratch := false }] } }
     let t := after .drainEntryPerformed s
     t.off.drain = [] ∧ t.sup.dheld = false) := by decide +kernel

theorem witness_WaitsEnd_stalls :
    ({ s0 with hart := { s0.hart with wait := .issue 3 true } } : State).hart.wait = .issue 3 true ∧
    ({ s0 with hart := { s0.hart with wait := .csr 0x821 } } : State).hart.wait = .csr 0x821 := by decide

theorem witness_TransfersAndSlots_moves :
    (let m (r : Word) : MoveReq :=
       { slot := 3, actor := name1, receiver := r, tag := 0, flags := 0, pid := 0, replyTo := .job 1 0, start := none }
     let away := mkName 2 0 3 1
     let x := { transferOf 4 .active with id := 2 ^ 64 + 1 }
     (m away).receiver ≠ 0 ∧ namePkg away ≠ herePkg handlerState ∧ (findTransfer (withTransfer x (inPod handlerState)) (2 ^ 64 + 1)).isSome = true ∧
     findTransfer (inPod handlerState) (2 ^ 64 + 1) = none ∧ handlerState.sched.packet = none) ∧
    (let x := transferOf 4 .active
     let m : MoveReq :=
       { slot := 3, actor := name1, receiver := mkName 0 0 3 1, tag := 0, flags := 0, pid := 0, replyTo := .transfer 1, start := none }
     let s := withTransfer x handlerState
     findTransfer s x.id = some x ∧ m.replyTo = .transfer x.id ∧ namePkg m.receiver = herePkg s ∧ receiverGone m s = true ∧
     isLive s m.actor = true ∧ s.sched.packet = none) := by decide +kernel

/-- R356, R360: the slot goes back to the actor, which is signalled; nothing is added. -/
theorem test_move_no_actor : let m : MoveReq :=
      { slot := 3, actor := name1, receiver := mkName 0 0 3 1, tag := 0, flags := 0, pid := 0, replyTo := .transfer 1, start := none }
    let t := after (.move m) (withTransfer (transferOf 4 .active) handlerState)
    t.transfers = [] ∧ Tab.find? t.actors.slotOwner (slotKey 0 3) = some name1 := by decide +kernel

/-- Package 2 has 256 contributions of this package unanswered. -/
def fullCollectives : State :=
  let s := podState false
  let p := peerOf s 2
  let q := { podPacket with via := { podPacket.via with channel := .collective, kind := 24 } }
  let out := p.out.setIfInBounds 3 { next := 256, packets := List.replicate 256 q, expect := 0, applied := [] }
  { s with fab := { s.fab with peers := [(2, { p with out := out })] } }

theorem witness_CollectiveSteps_resend :
    (let c := coll .active 0 false
     let x := { contrib with dst := 1 }
     findColl (withColl c) x.src x.pid x.colid = some c ∧ (∃ d ∈ c.dests, d.cluster = x.dst ∧ d.acked = false) ∧
     pkgOfCluster (withColl c) x.dst = s0.ras.pkg.toNat ∧ reachable (withColl c) (pkgOfCluster (withColl c) x.dst) = true) ∧
    (let x := { contrib with dst := 768 }
     let c := { coll .active 0 false with dests := [{ cluster := 768, acked := false }] }
     let s := { fullCollectives with colls := [c] }
     findColl s x.src x.pid x.colid = some c ∧ pkgOfCluster s x.dst = 2 ∧ reachable s 2 = true ∧ 256 ≤ unansweredContributions s 2 ∧
     unansweredContributions { podState false with colls := [c] } 2 + c.dests.length ≤ 256) ∧
    findColl s0 contrib.src contrib.pid contrib.colid = none := by decide +kernel

theorem witness_ErrorsAndRetirement_pass :
    ((levelAt s0 3).period ≠ 0 ∧ (levelAt s0 3).begun = false) ∧
    (levelAt (after (.scrubVisit 3 0 .corrected) s0) 3).begun = true := by decide +kernel

/-- R429: a pass ends with the next visit of the first word, whatever it finds. -/
theorem test_passes : (levelAt (after (.scrubVisit 3 0 .lasting) (after (.scrubVisit 3 0 .corrected) s0)) 3).passes = 1 := by decide +kernel

theorem witness_PeersAndPorts_resend :
    (let s := podState false
     isAnswer podPacket.via = false ∧ streamPort s (flitHeader podPacket.via) = none) ∧
    (let s := flitState
     isAnswer podPacket.via = false ∧ (streamPort s (flitHeader podPacket.via)).isSome = true ∧
     ((outStream s 2 .request).packets.find? fun q => q.left && q.via.rid == 0) = some podPacket ∧
     ∀ e ∈ s.sched.agenda, e.via ≠ some podPacket.via) := by decide +kernel

/-- The station of core 0 holds the leaves of 36 pages from 0x80000 on, in own HBM from 0x200000 on; the leaves stand in memory. -/
def pagedState : State :=
  let leaf (i : Nat) : Word := ownEntry s0 (0x200000 + 4096 * i) 0x3F
  let s1 := (List.range 36).foldl (fun t i => writeWordKey t (ownBase + 0x100000 + 8 * i) (leaf i)) (regsOf [(11, 0x80000)] supState)
  let entry (i : Nat) : TlbEntry :=
    { station := stationOf (ownCore s0), pid := 0, vpn := pageNumber (0x80000 + 4096 * i) 0, level := 0, leaf := leaf i
      leafKey := ownBase + 0x100000 + 8 * i }
  { s1 with stn := { s1.stn with tlb := (List.range 36).map entry } }

/-- What the station finds for page i of the area at 0x80000. -/
def pageFound (s : State) (kind : AccessKind) (i : Nat) : Option (TlbEntry × Xlat) :=
  let va : Word := BitVec.ofNat 64 (0x80000 + 4096 * i)
  match s.stn.tlb.find? (fun q => tlbMatches q (stationOf (ownCore s)) s.sup.pid va && tlbServes s kind q) with
  | some e => match checkLeaf s (stationOf (ownCore s)) kind e.level e.leaf va with
    | .ok x => some (e, x)
    | .error _ => none
  | none => none

theorem pageFound_some {s : State} {kind : AccessKind} {i : Nat} {e : TlbEntry} {x : Xlat} (h : pageFound s kind i = some (e, x)) :
    s.stn.tlb.find? (fun q => tlbMatches q (stationOf (ownCore s)) s.sup.pid (BitVec.ofNat 64 (0x80000 + 4096 * i)) && tlbServes s kind q) = some e ∧
    checkLeaf s (stationOf (ownCore s)) kind e.level e.leaf (BitVec.ofNat 64 (0x80000 + 4096 * i)) = .ok x := by
  unfold pageFound at h
  dsimp only at h
  split at h
  · rename_i e' he
    split at h
    · rename_i x' hx; cases h; exact ⟨he, hx⟩
    · cases h
  · cases h

theorem pagedState_found : ∀ kind ∈ [AccessKind.load, .store], ∀ i < 36,
    ((pageFound pagedState kind i).any fun p => p.2.aperture == 0 && p.2.key == ownBase + 0x200000 + 4096 * i) = true := by decide +kernel

theorem areaAt_paged (kind : AccessKind) (h : kind ∈ [AccessKind.load, .store]) :
    AreaAt pagedState 0x80000 kind (fun o => ownBase + 0x200000 + o) := by
  refine .inr ⟨by decide, by decide, by rfl, fun o _ => by dsimp only; omega, fun i hi => ?_⟩
  have f := pagedState_found kind h i hi
  match hp : pageFound pagedState kind i with
  | none => simp [hp] at f
  | some (e, x) =>
    rw [hp, Option.any_some, Bool.and_eq_true, beq_iff_eq, beq_iff_eq] at f
    exact ⟨e, x, (pageFound_some hp).1, (pageFound_some hp).2, f.1, f.2⟩

theorem areaAt_local (s : State) (kind : AccessKind) (op : Word) (h : op.toNat / 4096 * 4096 + 0x24000 ≤ 0x80000) :
    AreaAt s op kind (fun o => s.coreid.toNat * 0x80000 + op.toNat / 4096 * 4096 + o) := .inl ⟨h, fun _ => rfl⟩

theorem witness_TranslationAndContext_areas :
    (∃ key, AreaAt pagedState 0x80000 .store key ∧ AreaApart pagedState key) ∧ (∃ key, AreaAt pagedState 0x80000 .load key) ∧
    (ready pagedState (xs [11]) [] = true ∧ quiet pagedState = true ∧ pagedState.hart.priv ≠ .user ∧ xval pagedState 11 = 0x80000 ∧
      Memory.wf pagedState.mem = true) ∧
    (∃ key, AreaAt supState 0x5C006 .store key) ∧
    (let s := regsOf [(11, 0x1006)] imageState
     ∃ key, AreaAt s 0x1006 .load key ∧ (∀ o, o < 0x24000 → poisoned s (key o) 1 = false) ∧ areaWord s key 0 % 2 ^ 16 = 1 ∧
       areaWord s key 8 % 16 ∈ [0, 1, 2, 4] ∧ areaWord s key 8 / 16 % 2 ^ 10 = 0 ∧ areaWord s key 8 / 2 ^ 14 ≤ 16 ∧ s.arr.running = none) := by
  refine ⟨⟨_, areaAt_paged .store (by decide), fun i j _ _ h => by dsimp only; omega, ?_⟩, ⟨_, areaAt_paged .load (by decide)⟩, by decide +kernel,
    ⟨_, areaAt_local supState .store 0x5C006 (by decide)⟩, _, areaAt_local _ .load 0x1006 (by decide), fun o _ => rfl, by decide +kernel⟩
  have h : ∀ e ∈ pagedState.stn.tlb, e.leafKey + 8 ≤ ownBase + 0x200000 := by decide +kernel
  intro e he o _
  have := h e he
  dsimp only; omega
end Sys2Proof.Tests
end

section
/-!
PROOF. Clocks, temperatures, power and the management interface (R1, R20, R432 to R437).
-/

namespace Sys2Proof.Machine

/-! ## Bytes of a number -/

@[simp] theorem length_bytesOf : ∀ n v, (bytesOf n v).length = n
  | 0, _ => rfl
  | n + 1, v => by rw [bytesOf, List.length_cons, length_bytesOf n]

theorem getElem?_bytesOf : ∀ {n i : Nat} (v : Nat), i < n → (bytesOf n v)[i]? = some (BitVec.ofNat 8 (v / 256 ^ i))
  | n + 1, 0, v, _ => by simp [bytesOf]
  | n + 1, i + 1, v, h => by
    rw [bytesOf, List.getElem?_cons_succ, getElem?_bytesOf (v / 256) (Nat.lt_of_succ_lt_succ h), Nat.div_div_eq_div_mul, Nat.pow_succ']

@[simp] theorem length_bigEndian (n v : Nat) : (bigEndian n v).length = n := by simp [bigEndian]

theorem getElem?_bigEndian {n i : Nat} (v : Nat) (h : i < n) :
    (bigEndian n v)[i]? = some (BitVec.ofNat 8 (v / 256 ^ (n - 1 - i))) := by
  rw [bigEndian, List.getElem?_reverse (by simpa using h), length_bytesOf, getElem?_bytesOf v (by omega)]

/-- The bytes of the second part of an encoding, counted from the encoding's start. -/
theorem getElem?_part {α : Type} (a b c : List α) {n i : Nat} (hn : a.length = n) (hi : i < b.length) :
    (a ++ (b ++ c))[n + i]? = b[i]? := by
  rw [List.getElem?_append_right (by omega), hn, Nat.add_sub_cancel_left, List.getElem?_append_left hi]

end Sys2Proof.Machine

/-! ## What a filter by keys leaves of a memory -/

namespace Sys2Proof.Machine.Memory

theorem get_filter_from (p : Nat → Bool) (k : Nat) {low : Nat} :
    ∀ {m : List Host.Cell}, wfFrom low m = true → get (m.filter fun c => p c.1) k = if p k then get m k else emptyByte
  | [], _ => by simp [get]
  | (j, b) :: rest, hw => by
    simp only [wfFrom, Bool.and_eq_true] at hw
    have ih := get_filter_from p k hw.2
    by_cases hk : k < j + 1
    · have hrest : get (rest.filter fun c => p c.1) k = emptyByte := get_below (wfFrom_filter _ hw.2) hk
      by_cases hjk : j = k
      · subst hjk
        by_cases hp : p j = true <;> simp [hp, get, hrest]
      · have hlt : k < j := by omega
        by_cases hp : p j = true <;> simp [hp, get, hrest, hjk, hlt]
    · have hne : ¬ j = k := by omega
      have hnlt : ¬ k < j := by omega
      by_cases hp : p j = true <;> simp [hp, get, ih, hne, hnlt]

/-- A canonical memory, cut down to some keys, reads there as before and elsewhere as unlisted. -/
theorem get_filter {m : List Host.Cell} (h : wf m = true) (p : Nat → Bool) (k : Nat) :
    get (m.filter fun c => p c.1) k = if p k then get m k else emptyByte := get_filter_from p k h

end Sys2Proof.Machine.Memory

namespace Sys2Proof.Machine

/-! ## Records and reports -/

theorem frame_report (r : MgmtReport) (s : State) : Frame s (report r s) := ⟨rfl, rfl, rfl, rfl, rfl⟩

@[simp] theorem report_ras (r : MgmtReport) (s : State) : (report r s).ras = s.ras := rfl

/-- All that a record of the package can change, at a level that sends no MSI-X vector (R421): a pending bit, the package
log, and what has been reported, which only grows. -/
theorem logPackage_state {l : Nat} (hl : l ≠ 7) (k d n : Nat) (s : State) :
    ∃ (mip : Word) (reports : List MgmtReport) (log : List LogRecord) (ovf : Bool), logPackage k l d n s = { s with
      mach := { s.mach with mip := mip }
      host := { s.host with mgmt := s.host.mgmt ++ reports }
      ras := { s.ras with packageLog := log, packageOvf := ovf } } := by
  unfold logPackage; dsimp only
  rw [if_neg hl]
  split
  · exact ⟨_, [], _, _, by rw [List.append_nil]⟩
  · split
    · split <;> exact ⟨_, [_], _, _, rfl⟩
    · exact ⟨_, [], _, _, by rw [List.append_nil]⟩

/-! ## Clocks and temperature (R20, R434) -/

/-- The clock one step up or down, within 1.5 to 3.0 GHz. -/
def steppedClock (up : Bool) (c : Nat) : Nat := if up then min 30 (c + 1) else max 15 (c - 1)

theorem stepClock_eq (up : Bool) (s : State) : stepClock up s =
    let c := steppedClock up s.ras.clock
    if c = s.ras.clock then s
    else report (.clock c) (logPackage 9 0 c 0 { s with ras := { s.ras with clock := c } }) := rfl

theorem frame_stepClock (up : Bool) (s : State) : Frame s (stepClock up s) := by
  rw [stepClock_eq]; dsimp only
  split
  · exact Frame.refl s
  · refine Frame.trans (Frame.trans ?_ (frame_logPackage _ _ _ _ _)) (frame_report _ _)
    exact ⟨rfl, rfl, rfl, rfl, rfl⟩

theorem stepClock_clock (up : Bool) (s : State) : (stepClock up s).ras.clock = steppedClock up s.ras.clock := by
  rw [stepClock_eq]; dsimp only
  split
  next h => exact h.symm
  next =>
    obtain ⟨_, _, _, _, e⟩ := logPackage_state (l := 0) (by decide) 9 (steppedClock up s.ras.clock) 0
      { s with ras := { s.ras with clock := steppedClock up s.ras.clock } }
    rw [report_ras, e]

theorem powerClockStep_steps (up : Bool) (s : State) : ∃ t, exec (.powerClockStep up) s = .next t ∧ LeavesHart s t ∧
    t.ras.clock = steppedClock up s.ras.clock :=
  ⟨_, rfl, (frame_stepClock up s).leavesHart, stepClock_clock up s⟩

theorem thermalThrottle_hot {c : BitVec 16} (h : 105 ≤ c.toNat) (die : BitVec 2) (s : State) :
    ∃ t, exec (.thermalThrottle die c) s = .next t ∧ LeavesHart s t ∧ t.ras.clock = max 15 (s.ras.clock - 1) :=
  ⟨stepClock false (report (.thermal die c) s), congrArg Host.Outcome.next (if_pos h),
    ((frame_report _ _).trans (frame_stepClock _ _)).leavesHart, stepClock_clock _ _⟩

theorem thermalThrottle_cool {c : BitVec 16} (h : c.toNat < 105) (die : BitVec 2) (s : State) :
    exec (.thermalThrottle die c) s = .next s := congrArg Host.Outcome.next (if_neg (by omega))

theorem thermalShutdown_hot {c : BitVec 16} (h : 115 ≤ c.toNat) (die : BitVec 2) (s : State) :
    ∃ t, exec (.thermalShutdown die c) s = .next t ∧ LeavesHart s t ∧ t.ras.stopped = true ∧
      t.host.msix = s.host.msix ++ [66] ∧ MgmtReport.thermal die c ∈ t.host.mgmt ∧
      t.ras.corePower = (s.ras.corePower && !Config.isModule) := by
  obtain ⟨_, _, _, _, e⟩ := logPackage_state (l := 0) (by decide) 10 c.toNat die.toNat
    (report (.thermal die c) { s with ras := { s.ras with stopped := true } })
  refine ⟨_, congrArg Host.Outcome.next (if_pos h), ?_⟩
  dsimp only
  rw [e]
  exact ⟨Frame.leavesHart ⟨rfl, rfl, rfl, rfl, rfl⟩, rfl, rfl, by simp [report], rfl⟩

theorem thermalShutdown_cool {c : BitVec 16} (h : c.toNat < 115) (die : BitVec 2) (s : State) :
    exec (.thermalShutdown die c) s = .next s := congrArg Host.Outcome.next (if_neg (by omega))

/-! ## Power gating (R434) -/

theorem coreWake_ungates (core : BitVec 12) (s : State) : ∃ t, exec (.coreWake core) s = .next t ∧ LeavesHart s t ∧
    core.toNat ∉ t.ras.gated ∧ ∀ c ∈ s.ras.gated, c ≠ core.toNat → c ∈ t.ras.gated :=
  ⟨_, rfl, Frame.leavesHart ⟨rfl, rfl, rfl, rfl, rfl⟩, by simp [wakeCore],
    fun c hc hne => List.mem_filter.2 ⟨hc, bne_iff_ne.2 hne⟩⟩

theorem corePowerGating_idle {core : BitVec 12} {s : State} (h : coreIdle s core.toNat = true) :
    ∃ t, exec (.corePowerGating core) s = .next t ∧ LeavesHart s t ∧ core.toNat ∈ t.ras.gated := by
  by_cases hg : core.toNat ∈ s.ras.gated
  · exact ⟨s, congrArg Host.Outcome.next (if_neg (by simp [hg])), (Frame.refl s).leavesHart, hg⟩
  · exact ⟨_, congrArg Host.Outcome.next (if_pos (by simp [h, hg])), Frame.leavesHart ⟨rfl, rfl, rfl, rfl, rfl⟩, by simp⟩

theorem corePowerGating_busy {core : BitVec 12} {s : State} (h : coreIdle s core.toNat = false) :
    exec (.corePowerGating core) s = .next s := congrArg Host.Outcome.next (if_neg (by simp [h]))

/-! ## Reset and power loss (R432, R436) -/

theorem get_resetPackage_mem {s : State} (h : MemoryCanonical s) (k : Nat) :
    Memory.get (resetPackage s).mem k = if outside k then Memory.get s.mem k else 0 := Memory.get_filter h outside k

/-- Only a reset stays in the agenda of a package that has lost its power. -/
theorem powerLoss_keeps_resets (s : State) : ∃ t, exec .powerLoss s = .next t ∧ t.ras.powered = false ∧ LeavesHart s t ∧
    t.ras.keyIndex = s.ras.keyIndex ∧ ∀ e ∈ t.sched.agenda, e.ev = .packageReset :=
  ⟨_, rfl, rfl, Frame.leavesHart ⟨rfl, rfl, rfl, rfl, rfl⟩, rfl, fun _ he => eq_of_beq (List.mem_filter.1 he).2⟩

/-! ## The encoding of a report (R436, R437) -/

section
variable {nonce : List Byte} (hn : nonce.length = 32)
include hn

theorem length_reportHead (k : Nat) : (reportHead nonce k).length = 92 := by
  simp [reportHead, hn]

theorem reportHead_nonce (k : Nat) {i : Nat} (hi : i < 32) : (reportHead nonce k)[20 + i]? = nonce[i]? := by
  simp only [reportHead, List.append_assoc]
  rw [← List.append_assoc]
  exact getElem?_part _ nonce _ (by simp) (by omega)

theorem reportHead_index (k : Nat) {i : Nat} (hi : i < 4) :
    (reportHead nonce k)[88 + i]? = some (BitVec.ofNat 8 (k / 256 ^ (3 - i))) := by
  rw [reportHead, List.getElem?_append_right (by simp [hn]), ← getElem?_bigEndian k hi]
  congr 1
  simp [hn]

end

theorem length_signature (k : Nat) (head : List Byte) : (signature k head).length = 1612 := by simp [signature]

theorem signature_index (head : List Byte) (k : Nat) {i : Nat} (hi : i < 4) :
    (signature k head)[i]? = some (BitVec.ofNat 8 (k / 256 ^ (3 - i))) := by
  simp only [signature, List.append_assoc]
  rw [List.getElem?_append_left (by simpa using hi), getElem?_bigEndian k hi]

/-- The last byte of the LM-OTS type, LMOTS_SHA256_N32_W8. -/
theorem signature_lmotsType (head : List Byte) (k : Nat) : (signature k head)[7]? = some 4 := by
  simp only [signature, List.append_assoc]
  exact getElem?_part (i := 3) (bigEndian 4 k) (bigEndian 4 4) _ (length_bigEndian 4 k) (by simp)

/-- The last byte of the LMS type, LMS_SHA256_M32_H15. -/
theorem signature_lmsType (head : List Byte) (k : Nat) : (signature k head)[1131]? = some 7 := by
  rw [signature, List.append_assoc]
  exact getElem?_part (i := 3) _ (bigEndian 4 7) _ (n := 1128) (by simp) (by simp)

/-- A report with a signature: the nonce, the key index in the head and again in the signature, and the type codes. -/
theorem signedReport_bytes {nonce : List Byte} (hn : nonce.length = 32) (k : Nat) :
    let b := reportHead nonce k ++ signature k (reportHead nonce k)
    b.length = 1704 ∧ (∀ i, i < 32 → b[20 + i]? = nonce[i]?) ∧
      (∀ i, i < 4 → b[88 + i]? = some (BitVec.ofNat 8 (k / 256 ^ (3 - i))) ∧ b[92 + i]? = b[88 + i]?) ∧
      b[99]? = some 4 ∧ b[1223]? = some 7 := by
  have hl := length_reportHead hn k
  have inHead (i : Nat) (hi : i < 92) (sig : List Byte) : (reportHead nonce k ++ sig)[i]? = (reportHead nonce k)[i]? :=
    List.getElem?_append_left (by omega)
  have inSignature (i : Nat) (sig : List Byte) : (reportHead nonce k ++ sig)[92 + i]? = sig[i]? := by
    rw [List.getElem?_append_right (by omega), hl, Nat.add_sub_cancel_left]
  refine ⟨by rw [List.length_append, hl, length_signature], fun i hi => ?_, fun i hi => ?_, ?_, ?_⟩
  · rw [inHead _ (by omega), reportHead_nonce hn k hi]
  · rw [inSignature, inHead _ (by omega), reportHead_index hn k hi]
    exact ⟨rfl, signature_index _ k hi⟩
  · exact (inSignature 7 _).trans (signature_lmotsType _ k)
  · exact (inSignature 1131 _).trans (signature_lmsType _ k)

/-- The report of a package that has no key index left ends with an index of all ones. -/
theorem unsignedReport_bytes {nonce : List Byte} (hn : nonce.length = 32) :
    let b := reportHead nonce 0xFFFFFFFF
    b.length = 92 ∧ (∀ i, i < 32 → b[20 + i]? = nonce[i]?) ∧ ∀ i, i < 4 → b[88 + i]? = some 0xFF := by
  refine ⟨length_reportHead hn _, fun i hi => reportHead_nonce hn _ hi, fun i hi => ?_⟩
  rw [reportHead_index hn _ hi]
  have allOnes : ∀ j < 4, BitVec.ofNat 8 (0xFFFFFFFF / 256 ^ (3 - j)) = 0xFF := by decide
  rw [allOnes i hi]

/-! ## The management interface (R436, R437) -/

section
variable {s : State} (hr : firmwareRuns s = true)
include hr

theorem exec_attestationRequest_asked {nonce : List Byte} (hn : nonce.length = 32) :
    exec (.attestationRequest (.asked nonce)) s = .next (attest nonce s) :=
  congrArg Host.Outcome.next ((if_neg (by simp [hr])).trans (if_pos hn))

theorem exec_attestationRequest_spent {nonce : List Byte} (hn : nonce.length = 32) {k : Nat} (hk : k < s.ras.keyIndex) :
    exec (.attestationRequest (.spent nonce k)) s = .next (releaseReport nonce k s) :=
  congrArg Host.Outcome.next ((if_neg (by simp [hr])).trans (if_pos ⟨hn, hk⟩))

/-- A request with a key index left spends it, and the report is still to come. -/
theorem attestationRequest_spends {nonce : List Byte} (hn : nonce.length = 32) (hk : s.ras.keyIndex < 32768) :
    ∃ t, exec (.attestationRequest (.asked nonce)) s = .next t ∧ LeavesHart s t ∧ t.host = s.host ∧
      t.ras = { s.ras with keyIndex := s.ras.keyIndex + 1 } ∧ pending t (.attestationRequest (.spent nonce s.ras.keyIndex)) := by
  rw [exec_attestationRequest_asked hr hn, attest, if_pos hk]
  refine ⟨_, rfl, ?_, rfl, rfl, ?_⟩
  · exact (Frame.trans ⟨rfl, rfl, rfl, rfl, rfl⟩ (frame_postOwn _ _)).leavesHart
  · exact ⟨_, List.mem_append_right _ (List.mem_singleton_self _), rfl, rfl⟩

theorem identityKeyRequest_answers : ∃ b, exec .identityKeyRequest s = .next (report (.answer b) s) ∧ b.length = 56 ∧
    b[3]? = some 7 ∧ b[7]? = some 4 := by
  refine ⟨_, congrArg Host.Outcome.next (if_pos hr), by simp, ?_, ?_⟩
  · rw [List.append_assoc, List.getElem?_append_left (by simp), getElem?_bigEndian _ (by decide)]
    rfl
  · rw [List.append_assoc]
    exact getElem?_part (i := 3) (bigEndian 4 7) (bigEndian 4 4) _ (length_bigEndian 4 7) (by simp)

end

/-- Settles O59: each clause by the lemma about its step. -/
theorem powerAndIdentity : Obligations.PowerAndIdentity := by
  intro s
  refine ⟨powerClockStep_steps true s, powerClockStep_steps false s, fun die c => ?_, fun core => ?_, ?_,
    powerLoss_keeps_resets s, fun hp hc hs hh => ?_⟩
  · exact ⟨(thermalThrottle_hot · die s), (thermalThrottle_cool · die s), (thermalShutdown_hot · die s),
      (thermalShutdown_cool · die s)⟩
  · exact ⟨coreWake_ungates core s, corePowerGating_idle, corePowerGating_busy⟩
  · exact ⟨resetPackage s, rfl, rfl, rfl, rfl, rfl, rfl, rfl, rfl, rfl, rfl, rfl, rfl, rfl, rfl, get_resetPackage_mem⟩
  · have hr : firmwareRuns s = true := by simp [firmwareRuns, coresRun, hp, hc, hs, hh]
    refine ⟨fun nonce hn => ⟨attestationRequest_spends hr hn, fun k hk => ?_, fun hk => ?_⟩, identityKeyRequest_answers hr⟩
    · exact ⟨_, exec_attestationRequest_spent hr hn hk, signedReport_bytes hn k⟩
    · rw [exec_attestationRequest_asked hr hn, attest, if_neg (Nat.not_lt.2 hk)]
      exact ⟨_, rfl, unsignedReport_bytes hn⟩

end Sys2Proof.Machine
end

section
/-!
PROOF. Number formats, rounding, the Array's integer elements and the conversions (chapter 3: R67 to R95; R169 to R171,
R205).
-/

namespace Sys2Proof.Machine

/-! ## Rounding of a magnitude (R71, R79) -/

/-- Whether rounding takes the multiple above: the remainder below the last place kept, and whether the multiple below is odd. -/
def roundsUp (neg : Bool) (rem half hi : Nat) : Rm → Bool
  | .rne => decide (half < rem) || (rem == half && hi % 2 == 1)
  | .rtz => false
  | .rdn => neg && rem != 0
  | .rup => !neg && rem != 0

/-- Rounding away `sh` bits takes the multiple below or the one above. -/
theorem roundMag_add (neg : Bool) (m sh : Nat) (e : Int) (rm : Rm) (h : 0 < sh) : roundMag neg m e (e + sh) rm =
    m / 2 ^ sh + if roundsUp neg (m % 2 ^ sh) (2 ^ (sh - 1)) (m / 2 ^ sh) rm = true then 1 else 0 := by
  have hq : ¬ e + (sh : Int) ≤ e := by omega
  have hs : (e + (sh : Int) - e).toNat = sh := by omega
  unfold roundMag
  rw [if_neg hq]
  dsimp only
  rw [hs, Nat.shiftRight_eq_div_pow]
  cases rm <;> exact (apply_ite (m / 2 ^ sh + ·) _ 1 0).symm

/-- Settles O20: with m = hi × 2^sh + rem, each mode takes hi or hi + 1 by its own test of rem. -/
theorem roundingIsNearest : Obligations.RoundingIsNearest := by
  intro neg m sh e hsh
  have hm : m = m / 2 ^ sh * 2 ^ sh + m % 2 ^ sh := by rw [Nat.mul_comm]; exact (Nat.div_add_mod _ _).symm
  have hrem : m % 2 ^ sh < 2 ^ sh := Nat.mod_lt _ (by positivity)
  have hhalf : 2 ^ sh = 2 * 2 ^ (sh - 1) := by rw [← pow_succ']; congr 1; omega
  simp only [roundMag_add _ _ _ _ _ hsh, Nat.add_mul]
  generalize m % 2 ^ sh = rem at *
  generalize m / 2 ^ sh = hi at *
  generalize 2 ^ (sh - 1) = half at *
  generalize 2 ^ sh = step at *
  generalize hX : hi * step = X at *
  simp only [roundsUp, Bool.or_eq_true, Bool.and_eq_true, Bool.not_eq_true', decide_eq_true_eq, beq_iff_eq, bne_iff_ne, ne_eq]
  refine ⟨?nearest, ?ties, ?towardsZero, ?down, ?up⟩
  case nearest => split <;> omega
  case ties => split <;> omega
  case towardsZero => simp only [Bool.false_eq_true, if_false]; omega
  case down => cases neg <;> by_cases h0 : rem = 0 <;> simp [h0] <;> omega
  case up => cases neg <;> by_cases h0 : rem = 0 <;> simp [h0] <;> omega

/-! ## Codes of floating-point formats (R68, R69) -/

theorem alignTo_self (m : Nat) (e : Int) : alignTo m e e = m := by simp [alignTo]

theorem bitLen_le {m k : Nat} (h : m < 2 ^ k) : bitLen m ≤ k := by
  unfold bitLen
  split
  · exact Nat.zero_le k
  next h0 => exact Nat.succ_le_of_lt ((Nat.log2_lt h0).2 h)

theorem bitLen_pow_add {k r : Nat} (h : r < 2 ^ k) : bitLen (2 ^ k + r) = k + 1 := by
  have h0 : 2 ^ k + r ≠ 0 := by positivity
  rw [bitLen, if_neg h0, (Nat.log2_eq_iff h0).2 ⟨Nat.le_add_right _ _, by rw [pow_succ]; omega⟩]

theorem fmtWidth_float {f : Nat} (h : f ≤ 5) : fmtWidth f = fmtFrac f + fmtExp f + 1 := by
  interval_cases f <;> rfl

/-- A sign's share of a code. -/
def signCode (f : Nat) (neg : Bool) : Nat := if neg then 2 ^ (fmtWidth f - 1) else 0

section
variable {f : Nat} (hf : f ≤ 5)
include hf

/-- A zero or subnormal value is its sign and its fraction. -/
theorem encodeElem_subnormal (neg : Bool) {fr : Nat} (h : fr < 2 ^ fmtFrac f) :
    encodeElem f (.fin neg fr (1 - (fmtBias f : Int) - fmtFrac f)) = signCode f neg + fr := by
  have hfloat : isFloatFmt f = true := decide_eq_true hf
  have hlen := bitLen_le h
  by_cases h0 : fr = 0
  · simp [encodeElem, hfloat, h0, signCode]
  · have htop : (1 - (fmtBias f : Int) - fmtFrac f) + bitLen fr - 1 < 1 - (fmtBias f : Int) := by omega
    simp [encodeElem, hfloat, h0, htop, alignTo_self, signCode]

/-- A normal value is its sign, its biased exponent and its fraction. -/
theorem encodeElem_normal (neg : Bool) {ex fr : Nat} (hex : ex ≠ 0) (h : fr < 2 ^ fmtFrac f) :
    encodeElem f (.fin neg (2 ^ fmtFrac f + fr) ((ex : Int) - fmtBias f - fmtFrac f)) =
      signCode f neg + ex * 2 ^ fmtFrac f + fr := by
  have hfloat : isFloatFmt f = true := decide_eq_true hf
  have htop : (ex : Int) - fmtBias f - fmtFrac f + bitLen (2 ^ fmtFrac f + fr) - 1 = ex - fmtBias f := by
    rw [bitLen_pow_add h]; push_cast; omega
  have hnormal : ¬ (ex : Int) - fmtBias f < 1 - (fmtBias f : Int) := by omega
  simp [encodeElem, hfloat, htop, hnormal, alignTo_self, signCode]

/-- A code is its sign, exponent field and fraction field. -/
theorem code_fields {c : Nat} (hc : c < 2 ^ fmtWidth f) :
    c = signCode f ((c >>> (fmtFrac f + fmtExp f)) % 2 == 1) + (c >>> fmtFrac f) % 2 ^ fmtExp f * 2 ^ fmtFrac f
      + c % 2 ^ fmtFrac f := by
  rw [fmtWidth_float hf, pow_succ] at hc
  have hsign : c / 2 ^ (fmtFrac f + fmtExp f) < 2 := Nat.div_lt_of_lt_mul hc
  have hlow := Nat.div_add_mod c (2 ^ fmtFrac f)
  have hhigh := Nat.div_add_mod (c / 2 ^ fmtFrac f) (2 ^ fmtExp f)
  rw [Nat.div_div_eq_div_mul, ← pow_add] at hhigh
  have hs : signCode f ((c >>> (fmtFrac f + fmtExp f)) % 2 == 1) =
      c / 2 ^ (fmtFrac f + fmtExp f) * 2 ^ (fmtFrac f + fmtExp f) := by
    rw [Nat.shiftRight_eq_div_pow, signCode, fmtWidth_float hf, Nat.add_sub_cancel]
    generalize c / 2 ^ (fmtFrac f + fmtExp f) = s at *
    interval_cases s <;> simp
  rw [hs, Nat.shiftRight_eq_div_pow]
  conv_lhs => rw [← hlow, ← hhigh]
  rw [pow_add]; ring

end

/-- Settles O21: a code is its three fields, and its value encodes to them in each of the classes infinity, subnormal and
normal. -/
theorem encodeOfDecodeElement : Obligations.EncodeOfDecodeElement := by
  intro f c hf hc hnan
  have hfloat : isFloatFmt f = true := decide_eq_true hf
  have hfr : c % 2 ^ fmtFrac f < 2 ^ fmtFrac f := Nat.mod_lt _ (by positivity)
  have hcode := code_fields hf hc
  rw [decodeElem, if_pos hfloat] at hnan ⊢
  unfold decodeFloat at hnan ⊢
  dsimp only at hnan ⊢
  generalize ((c >>> (fmtFrac f + fmtExp f)) % 2 == 1) = neg at *
  generalize (c >>> fmtFrac f) % 2 ^ fmtExp f = ex at *
  generalize c % 2 ^ fmtFrac f = fr at *
  split at hnan
  · simp [Num.isNaN] at hnan
  next hNaN =>
    rw [if_neg hNaN]
    split at hnan
    next hinf =>
      obtain ⟨hi, rfl⟩ := hinf
      rw [if_pos ⟨hi, rfl⟩]
      split at hnan
      next hz => rw [if_pos hz, encodeElem, if_pos hi, hcode, hz]; rfl
      next => simp [Num.isNaN] at hnan
    next hinf =>
      rw [if_neg hinf]
      split
      next hz => rw [encodeElem_subnormal hf neg hfr, hcode, hz]; omega
      next hz => rw [encodeElem_normal hf neg hz hfr, ← hcode]

/-! ## Integer values (R70, R95) -/

@[simp] theorem toInt_ofInt (v : Int) : (Num.ofInt v).toInt = v := by
  rw [Num.ofInt, Num.toInt, if_pos (le_refl 0)]
  by_cases h : v < 0
  · simp [h, abs_of_neg]
  · simp [h, abs_of_nonneg (not_lt.1 h)]

/-- The value of a code that is no floating-point one is the integer it stands for. -/
theorem toInt_decodeElem {f : Nat} (h : isFloatFmt f = false) (c : Nat) : (decodeElem f c).toInt = intCodeValue f c := by
  rw [decodeElem, h, if_neg Bool.false_ne_true, intCodeValue]
  split
  · exact toInt_ofInt _
  · simp [Num.toInt]

/-- A format without scales takes no part of the companion. -/
theorem decodeScaled_plain {f : Nat} (h : isBlockFmt f = false) (companion k r c code : Nat) :
    decodeScaled f companion k r c code = decodeElem f code := by
  have ht : isTidal f = false := by by_contra hc; simp [isTidal, isBlockFmt] at hc h; omega
  have hm : isMx f = false := by by_contra hc; simp [isMx, isBlockFmt] at hc h; omega
  rw [decodeScaled, ht, hm]; rfl

/-- The value of a code of a scaled or plain integer format. -/
theorem toInt_decodeScaled {f : Nat} (h : isIntFmt f = true) (companion k r c code : Nat) :
    (decodeScaled f companion k r c code).toInt = intCodeValue f code := by
  have hrange : 8 ≤ f ∧ f ≤ 16 := by simpa [isIntFmt] using h
  rw [decodeScaled_plain (by simp [isBlockFmt]; omega), toInt_decodeElem (by simp [isFloatFmt]; omega)]

/-! ## The Array's integer dot product (R95, R178, R195) -/

theorem sum_map_flatMap {α β : Type} (f : β → Int) (g : α → List β) (l : List α) :
    ((l.flatMap g).map f).sum = (l.map fun x => ((g x).map f).sum).sum := by
  rw [List.map_flatMap, List.flatMap_def, List.sum_flatten, List.map_map]; rfl

/-- A sum over what a filter keeps: the others count zero. -/
theorem sum_map_filterMap_ite {α β : Type} (f : β → Int) (p : α → Prop) [DecidablePred p] (g : α → β) :
    ∀ l : List α,
    ((l.filterMap fun x => if p x then some (g x) else none).map f).sum = (l.map fun x => if p x then f (g x) else 0).sum
  | [] => rfl
  | x :: l => by
    have ih := sum_map_filterMap_ite f p g l
    by_cases h : p x <;> simp [h, ih]

theorem arrayDotInt_eq (d : Nat) (a : List Term) (b : List Num) : (arrayDotInt d a b : Int) =
    (d + (a.map fun x => x.2.toInt * (b.getD x.1 (.fin false 0 0)).toInt).sum) % 2 ^ 32 := by
  rw [arrayDotInt, wrapInt, BitVec.toNat_ofInt, ← List.sum_eq_foldl, Int.toNat_of_nonneg (Int.emod_nonneg _ (by decide)),
    add_comm]
  rfl

/-- The positions that no stored element names add nothing. -/
theorem sum_logicalRow (k : Nat) (stored : List Term) (b : Nat → Int) :
    ((logicalRow k stored).map fun x => x.2.toInt * b x.1).sum = (stored.map fun x => x.2.toInt * b x.1).sum := by
  rw [logicalRow, List.map_append, List.sum_append, List.map_map]
  have zero : ∀ l : List Nat, (l.map ((fun x : Term => x.2.toInt * b x.1) ∘ fun c => (c, Num.fin false 0 0))).sum = 0 := by
    intro l
    exact List.sum_eq_zero (by simp [Num.toInt])
  rw [zero, add_zero]

/-- Entry k of a row of B. -/
theorem rowOfB_getD (s : State) (c : ArrayCmd) (j : Nat) {k : Nat} (h : isIntFmt c.fmtB = true) (hk : k < c.depth) :
    ((rowOfB s c j).getD k (.fin false 0 0)).toInt =
      intCodeValue c.fmtB (elemAt (fmtWidth c.fmtB) (tileValue s c.b c.spanB) (j * c.depth + k)) := by
  rw [rowOfB, denseRow, List.map_map, List.getD_eq_getElem?_getD, List.getElem?_map, List.getElem?_range hk]
  exact toInt_decodeScaled h _ _ _ _ _

/-- The class of an i8, u8 or i4 operand is an integer one. -/
theorem matResult_integer {f : Nat} (h : f = 8 ∨ f = 9 ∨ f = 16) : matResult (matClass f) = 12 := by
  rcases h with rfl | rfl | rfl <;> rfl

theorem resultElem_integer (s : State) {c : ArrayCmd} (d0 i j : Nat) (h : c.fmtA = 8 ∨ c.fmtA = 9 ∨ c.fmtA = 16) :
    (resultElem s c d0 i j).1 = arrayDotInt d0 (rowOfA s c i) (rowOfB s c j) := by
  rw [resultElem, if_pos (matResult_integer h)]

section
variable (s : State) {c : ArrayCmd} (i : Nat) (b : Nat → Int) (hA : isIntFmt c.fmtA = true)
include hA

theorem sum_denseRow (hs : c.sparse = false) : ((rowOfA s c i).map fun x => x.2.toInt * b x.1).sum =
    ((List.range c.depth).map fun k =>
      intCodeValue c.fmtA (elemAt (fmtWidth c.fmtA) (tileValue s c.a c.spanA) (i * c.depth + k)) * b k).sum := by
  rw [rowOfA, hs, denseRow]
  simp [Function.comp_def, toInt_decodeScaled hA, tilesAt]

theorem sum_sparseRow (hs : c.sparse = true) : ((rowOfA s c i).map fun x => x.2.toInt * b x.1).sum =
    ((List.range (c.depth / 24)).map fun g => ((List.range c.kept).map fun t =>
      let p := metaPos (tileValue s (c.a + 1) 1) c.depth c.kept i g t
      if p < 24 then intCodeValue c.fmtA (elemAt (fmtWidth c.fmtA) (tileValue s c.a c.spanA)
        (i * (c.depth / 24 * c.kept) + g * c.kept + t)) * b (24 * g + p) else 0).sum).sum := by
  have hplain : isBlockFmt c.fmtA = false := by
    have hrange : 8 ≤ c.fmtA ∧ c.fmtA ≤ 16 := by simpa [isIntFmt] using hA
    simp [isBlockFmt]; omega
  rw [rowOfA, if_pos hs, hplain]
  dsimp only
  rw [if_neg Bool.false_ne_true, sum_logicalRow, storedRow, sum_map_flatMap]
  refine congrArg List.sum (List.map_congr_left fun g _ => ?_)
  refine (sum_map_filterMap_ite _ (fun t => metaPos (tileValue s (c.a + 1) 1) c.depth c.kept i g t < 24) _ _).trans ?_
  simp only [toInt_decodeScaled hA, tilesAt]

end

/-- Settles O30: the stored and the dense terms are summed by `sum_sparseRow` and `sum_denseRow`, each with its element of B. -/
theorem arrayIntegerElement : Obligations.ArrayIntegerElement := by
  intro s c d0 i j hA hB
  have intA : isIntFmt c.fmtA = true := by rcases hA with h | h | h <;> rw [h] <;> rfl
  have intB : isIntFmt c.fmtB = true := by rcases hB with h | h | h <;> rw [h] <;> rfl
  simp only [← List.sum_eq_foldl, resultElem_integer s d0 i j hA, arrayDotInt_eq]
  refine ⟨fun hs => ?dense, fun hs => ?sparse⟩
  case dense =>
    rw [sum_denseRow s i (fun k => ((rowOfB s c j).getD k (.fin false 0 0)).toInt) intA hs]
    congr 3
    refine List.map_congr_left fun k hk => ?_
    rw [rowOfB_getD s c j intB (List.mem_range.1 hk)]
  case sparse =>
    rw [sum_sparseRow s i (fun k => ((rowOfB s c j).getD k (.fin false 0 0)).toInt) intA hs]
    congr 3
    refine List.map_congr_left fun g hg => congrArg List.sum (List.map_congr_left fun t _ => ?_)
    have hg := List.mem_range.1 hg
    dsimp only
    split
    next hp => rw [rowOfB_getD s c j intB (by omega)]
    next => rfl

/-! ## Packed elements (R67) -/

theorem elemAt_eq (w v i : Nat) : elemAt w v i = v / 2 ^ (i * w) % 2 ^ w := by rw [elemAt, Nat.shiftRight_eq_div_pow]

theorem elemAt_lt (w v i : Nat) : elemAt w v i < 2 ^ w := Nat.mod_lt _ (by positivity)

theorem packElems_lt (w : Nat) : ∀ l : List Nat, packElems w l < 2 ^ (l.length * w)
  | [] => by simp [packElems]
  | e :: l => by
    have ih := packElems_lt w l
    have he : e % 2 ^ w < 2 ^ w := Nat.mod_lt _ (by positivity)
    rw [packElems, List.length_cons, Nat.succ_mul, Nat.add_comm _ w, pow_add]
    calc e % 2 ^ w + 2 ^ w * packElems w l < 2 ^ w * (packElems w l + 1) := by rw [Nat.mul_add]; omega
      _ ≤ 2 ^ w * 2 ^ (l.length * w) := Nat.mul_le_mul_left _ ih

/-- An element of packed elements is what was packed there, cut to the width. -/
theorem elemAt_packElems (w : Nat) : ∀ {l : List Nat} {k e : Nat}, l[k]? = some e → elemAt w (packElems w l) k = e % 2 ^ w
  | e :: l, 0, c, h => by
    obtain rfl : e = c := by simpa using h
    simp [elemAt_eq, packElems]
  | e :: l, k + 1, c, h => by
    rw [← elemAt_packElems w (l := l) (k := k) (by simpa using h), elemAt_eq, elemAt_eq, packElems, Nat.succ_mul,
      Nat.add_comm _ w, pow_add, ← Nat.div_div_eq_div_mul, Nat.add_mul_div_left _ _ (by positivity),
      Nat.div_eq_of_lt (Nat.mod_lt _ (by positivity)), Nat.zero_add]

/-! ## Vector groups and tiles (R134, R174) -/

theorem getV_putV (n : Nat) (r : VReg) (s : State) (k : Nat) :
    getV (putV n r s) k = if k = n ∧ n < 32 then r else getV s k := by
  by_cases hk : k < 32
  · by_cases hkn : n = k
    · subst hkn; simp [getV, putV, Vector.getD, hk]
    · simp [getV, putV, Vector.getD, hk, hkn, Ne.symm hkn]
  · have : ¬ (k = n ∧ n < 32) := by omega
    simp [getV, putV, Vector.getD, hk, this]

theorem getM_putM (n : Nat) (r : MReg) (s : State) (k : Nat) :
    getM (putM n r s) k = if k = n ∧ n < 16 then r else getM s k := by
  by_cases hk : k < 16
  · by_cases hkn : n = k
    · subst hkn; simp [getM, putM, Vector.getD, hk]
    · simp [getM, putM, Vector.getD, hk, hkn, Ne.symm hkn]
  · have : ¬ (k = n ∧ n < 16) := by omega
    simp [getM, putM, Vector.getD, hk, this]

/-- A register of the group that `writeGroup` writes is FULL with its 512 bits; every other one stays. -/
theorem getV_writeGroup : ∀ (base n v : Nat) (s : State) (k : Nat), base + n ≤ 32 → getV (writeGroup base n v s) k =
    if base ≤ k ∧ k < base + n then { val := BitVec.ofNat 512 (v / 2 ^ (512 * (k - base))), st := .full } else getV s k
  | base, 0, v, s, k, _ => by
    have : ¬ (base ≤ k ∧ k < base + 0) := by omega
    rw [if_neg this, writeGroup]
  | base, n + 1, v, s, k, h => by
    rw [writeGroup, getV_writeGroup (base + 1) n _ _ k (by omega), writeV, getV_putV]
    by_cases hk : k = base
    · subst hk
      have h1 : k < 32 := by omega
      simp [h1]
    · by_cases hin : base + 1 ≤ k ∧ k < base + 1 + n
      · have hin' : base ≤ k ∧ k < base + (n + 1) := by omega
        have hexp : 512 * (k - base) = 512 + 512 * (k - (base + 1)) := by omega
        rw [if_pos hin, if_pos hin', hexp, pow_add, Nat.div_div_eq_div_mul]
      · have hout : ¬ (base ≤ k ∧ k < base + (n + 1)) := by omega
        rw [if_neg hin, if_neg hout, if_neg fun h => hk h.1]

theorem getM_writeTile : ∀ (base n v : Nat) (s : State) (k : Nat), base + n ≤ 16 → getM (writeTile base n v s) k =
    if base ≤ k ∧ k < base + n then { val := BitVec.ofNat 65536 (v / 2 ^ (65536 * (k - base))), st := .full } else getM s k
  | base, 0, v, s, k, _ => by
    have : ¬ (base ≤ k ∧ k < base + 0) := by omega
    rw [if_neg this, writeTile]
  | base, n + 1, v, s, k, h => by
    rw [writeTile, getM_writeTile (base + 1) n _ _ k (by omega), writeM, getM_putM]
    by_cases hk : k = base
    · subst hk
      have h1 : k < 16 := by omega
      simp [h1]
    · by_cases hin : base + 1 ≤ k ∧ k < base + 1 + n
      · have hin' : base ≤ k ∧ k < base + (n + 1) := by omega
        have hexp : 65536 * (k - base) = 65536 + 65536 * (k - (base + 1)) := by omega
        rw [if_pos hin, if_pos hin', hexp, pow_add, Nat.div_div_eq_div_mul]
      · have hout : ¬ (base ≤ k ∧ k < base + (n + 1)) := by omega
        rw [if_neg hin, if_neg hout, if_neg fun h => hk h.1]

/-- The number that a run of registers of `b` bits holds, first register lowest. -/
def runValue (b : Nat) (f : Nat → Nat) (base : Nat) : Nat → Nat
  | 0 => 0
  | n + 1 => f base + 2 ^ b * runValue b f (base + 1) n

theorem groupValue_eq_runValue (s : State) : ∀ base n, groupValue s base n = runValue 512 (fun k => (getV s k).val.toNat) base n
  | _, 0 => rfl
  | base, n + 1 => by rw [groupValue, groupValue_eq_runValue s (base + 1) n, runValue]

theorem tileValue_eq_runValue (s : State) : ∀ base n, tileValue s base n = runValue 65536 (fun k => (getM s k).val.toNat) base n
  | _, 0 => rfl
  | base, n + 1 => by rw [tileValue, tileValue_eq_runValue s (base + 1) n, runValue]

/-- Registers that each hold their bits of a number hold that number together. -/
theorem runValue_of_parts {b : Nat} {f : Nat → Nat} : ∀ {base n v : Nat}, v < 2 ^ (b * n) →
    (∀ k, base ≤ k → k < base + n → f k = v / 2 ^ (b * (k - base)) % 2 ^ b) → runValue b f base n = v
  | base, 0, v, hv, _ => by simp at hv; simp [runValue, hv]
  | base, n + 1, v, hv, h => by
    have hrest : runValue b f (base + 1) n = v / 2 ^ b := by
      refine runValue_of_parts (Nat.div_lt_of_lt_mul (by rw [← pow_add]; convert hv using 2; ring)) fun k hk hk' => ?_
      have hexp : b * (k - base) = b + b * (k - (base + 1)) := by
        rw [show k - base = 1 + (k - (base + 1)) by omega, Nat.mul_add, Nat.mul_one]
      rw [h k (by omega) (by omega), hexp, pow_add, Nat.div_div_eq_div_mul]
    rw [runValue, hrest, h base le_rfl (by omega), Nat.sub_self, Nat.mul_zero, pow_zero, Nat.div_one]
    exact Nat.mod_add_div _ _

theorem groupValue_writeGroup {base n v : Nat} (s : State) (hb : base + n ≤ 32) (hv : v < 2 ^ (512 * n)) :
    groupValue (writeGroup base n v s) base n = v := by
  rw [groupValue_eq_runValue]
  apply runValue_of_parts hv
  intro k hk hk'
  rw [getV_writeGroup base n v s k hb, if_pos ⟨hk, hk'⟩, BitVec.toNat_ofNat]

theorem tileValue_writeTile {base n v : Nat} (s : State) (hb : base + n ≤ 16) (hv : v < 2 ^ (65536 * n)) :
    tileValue (writeTile base n v s) base n = v := by
  rw [tileValue_eq_runValue]
  apply runValue_of_parts hv
  intro k hk hk'
  rw [getM_writeTile base n v s k hb, if_pos ⟨hk, hk'⟩, BitVec.toNat_ofNat]

/-! ## What an instruction that writes registers and flags leaves -/

/-- Only registers and CSRs of the context differ. -/
def ChangesRegs (s t : State) : Prop :=
  t = { s with hart := { s.hart with x := t.hart.x, v := t.hart.v, m := t.hart.m }, user := t.user }

theorem ChangesRegs.trans {s t u : State} (h : ChangesRegs s t) (g : ChangesRegs t u) : ChangesRegs s u := by
  unfold ChangesRegs at *
  rw [h] at g
  exact g

theorem changesRegs_setX (r : RegIdx) (v : Word) (s : State) : ChangesRegs s (setX r v s) := by
  unfold setX writeX putX
  split <;> rfl

theorem changesRegs_writeV (n : Nat) (v : BitVec 512) (s : State) : ChangesRegs s (writeV n v s) := rfl

theorem changesRegs_raiseFlags (fl : Flags) (s : State) : ChangesRegs s (raiseFlags fl s) := rfl

/-- Writing a vector group changes v registers alone. -/
theorem writeGroup_eq : ∀ (base n v : Nat) (s : State),
    writeGroup base n v s = { s with hart := { s.hart with v := (writeGroup base n v s).hart.v } }
  | _, 0, _, _ => rfl
  | base, n + 1, v, s => by rw [writeGroup, writeGroup_eq (base + 1) n]; rfl

/-- Writing a tile group changes tile registers alone. -/
theorem writeTile_eq : ∀ (base n v : Nat) (s : State),
    writeTile base n v s = { s with hart := { s.hart with m := (writeTile base n v s).hart.m } }
  | _, 0, _, _ => rfl
  | base, n + 1, v, s => by rw [writeTile, writeTile_eq (base + 1) n]; rfl

theorem retire_of_changesRegs {s t : State} (h : ChangesRegs s t) : retire t =
    { s with
      hart := { retiredHart s with x := t.hart.x, v := t.hart.v, m := t.hart.m }, user := t.user, mach := retiredMach s } := by
  obtain ⟨hpc, hloop0, hloop1⟩ := endTest_congr (s.hart.pc + 4) (s := s) (t := t) (by rw [h]) (by rw [h]) (by rw [h])
  have hpc' : t.hart.pc = s.hart.pc := by rw [h]
  rw [retire_eq]
  simp only [retiredHart, retiredMach, hpc', hpc, hloop0, hloop1]
  rw [h]

@[simp] theorem retire_hart_x (s : State) : (retire s).hart.x = s.hart.x := by rw [retire_eq]; rfl
@[simp] theorem retire_hart_v (s : State) : (retire s).hart.v = s.hart.v := by rw [retire_eq]; rfl
@[simp] theorem retire_hart_m (s : State) : (retire s).hart.m = s.hart.m := by rw [retire_eq]; rfl
@[simp] theorem retire_user (s : State) : (retire s).user = s.user := by rw [retire_eq]
@[simp] theorem retire_mem (s : State) : (retire s).mem = s.mem := by rw [retire_eq]
@[simp] theorem raiseFlags_hart (fl : Flags) (s : State) : (raiseFlags fl s).hart = s.hart := rfl
@[simp] theorem raiseFlags_mem (fl : Flags) (s : State) : (raiseFlags fl s).mem = s.mem := rfl
@[simp] theorem raiseFlags_vflags (fl : Flags) (s : State) : (raiseFlags fl s).user.vflags = s.user.vflags ||| fl := rfl

theorem getV_congr {s t : State} (h : t.hart.v = s.hart.v) (n : Nat) : getV t n = getV s n := by unfold getV; rw [h]
theorem getM_congr {s t : State} (h : t.hart.m = s.hart.m) (n : Nat) : getM t n = getM s n := by unfold getM; rw [h]

theorem groupValue_congr {s t : State} (h : t.hart.v = s.hart.v) (base n : Nat) : groupValue t base n = groupValue s base n := by
  simp only [groupValue_eq_runValue, getV_congr h]

theorem tileValue_congr {s t : State} (h : t.hart.m = s.hart.m) (base n : Nat) : tileValue t base n = tileValue s base n := by
  simp only [tileValue_eq_runValue, getM_congr h]

/-- A flag that is among those raised is set afterwards. -/
theorem or_or_eq_of_or_eq {f g : Flags} (h : f ||| g = g) (u : Flags) : f ||| (u ||| g) = u ||| g := by
  rw [← h]; ext i; simp; tauto

/-- What an instruction leaves that fills a vector group, raises flags and retires (R73, R134). -/
theorem vecRetires_writeGroup (fl : Flags) {d n : Nat} (v : Nat) (s : State) (h : d + n ≤ 32) :
    VecRetires s (retire (raiseFlags fl (writeGroup d n v s))) d n := by
  have e := writeGroup_eq d n v s
  have hv (k : Nat) : getV (retire (raiseFlags fl (writeGroup d n v s))) k = getV (writeGroup d n v s) k := getV_congr (by simp) k
  have regs : ChangesRegs s (raiseFlags fl (writeGroup d n v s)) := by unfold ChangesRegs; rw [e]; rfl
  refine ⟨fun k hk hk' => ?full, fun k hk => ?others, fun k => ?memory, ?flags, ?rest⟩
  case full => rw [regState, hv, getV_writeGroup d n v s k h, if_pos ⟨hk, hk'⟩]
  case others => rw [hv, getV_writeGroup d n v s k h, if_neg (by omega)]
  case memory => rw [retire_mem, raiseFlags_mem, e]
  case flags => rw [retire_user, raiseFlags_vflags, e]; ext i; simp
  case rest => rw [retire_of_changesRegs regs, e]; rfl

/-! ## Checks -/

theorem checkPrefix_none {s : State} {mods : Bool} {legal : Eff → Bool} (i : Instr) (h : prefixOk mods legal s = true) :
    checkPrefix i mods legal s = none := stopIf_none (by simp [h])

theorem readyWithPrefix_iff {s : State} {srcs dests : List RegName} : readyWithPrefix s srcs dests = true ↔
    s.ras.regErrors = [] ∧ (∀ r ∈ srcs, regState s r = .full) ∧ ∀ r ∈ dests, (regState s r).isEmpty = false := by
  simp [readyWithPrefix, and_assoc]

theorem place_zero (k : Nat) : place k 0 = BitVec.ofNat 64 k := by simp [place]

theorem checkConvert_ok {α : Type} {f : State → Except Nat α} {s : State} {r : α} (h : f s = .ok r) :
    checkConvert f s = none := by simp [checkConvert, h]

theorem checkConvert_error {α : Type} {f : State → Except Nat α} {s : State} {k : Nat} (h : f s = .error k) :
    checkConvert f s = some (trap 27 (BitVec.ofNat 64 k) s) := by simp [checkConvert, h, place_zero]

/-! ## Elements converted in index order (R76) -/

section
variable {conv : Nat → Option (Nat × Flags)}

/-- What every element converts to: the codes in order, and the flags of each. -/
theorem partCodes_ok : ∀ {l : List Nat}, (∀ k ∈ l, (conv k).isSome = true) →
    ∃ fl, partCodes conv l = .ok (l.map fun k => ((conv k).getD (0, 0)).1, fl) ∧
      ∀ k ∈ l, ∀ q, conv k = some q → q.2 ||| fl = fl
  | [], _ => ⟨0, rfl, by simp⟩
  | k :: l, h => by
    obtain ⟨r, hr⟩ := Option.isSome_iff_exists.1 (h k (by simp))
    obtain ⟨fl, hfl, hflags⟩ := partCodes_ok (l := l) fun j hj => h j (by simp [hj])
    refine ⟨r.2 ||| fl, by simp [partCodes, hr, hfl], fun j hj q hq => ?_⟩
    rcases List.mem_cons.1 hj with rfl | hj
    · obtain rfl : r = q := by simpa [hr] using hq
      rw [← BitVec.or_assoc, BitVec.or_self]
    · rw [← hflags j hj q hq]; ext i; simp; tauto

/-- The first element without a result decides. -/
theorem partCodes_append_error {k : Nat} (hk : conv k = none) (post : List Nat) : ∀ {pre : List Nat},
    (∀ j ∈ pre, (conv j).isSome = true) → partCodes conv (pre ++ k :: post) = .error k
  | [], _ => by simp [partCodes, hk]
  | j :: pre, h => by
    obtain ⟨r, hr⟩ := Option.isSome_iff_exists.1 (h j (by simp))
    have ih := partCodes_append_error hk post (pre := pre) fun j hj => h j (by simp [hj])
    simp [partCodes, hr, ih]

theorem range_split {k n : Nat} (h : k < n) : ∃ post, List.range n = List.range k ++ k :: post := by
  obtain ⟨m, rfl⟩ := Nat.exists_eq_add_of_lt h
  refine ⟨(List.range m).map (k + 1 + ·), ?_⟩
  rw [Nat.add_right_comm, List.range_add, List.range_succ, List.append_assoc]
  rfl

theorem partCodes_range_error {k n : Nat} (h : k < n) (hk : conv k = none) (hbelow : ∀ j, j < k → (conv j).isSome = true) :
    partCodes conv (List.range n) = .error k := by
  obtain ⟨post, hp⟩ := range_split h
  rw [hp]
  exact partCodes_append_error hk post fun j hj => hbelow j (List.mem_range.1 hj)

end

/-- `convertAll` is the same fold over the elements' numbers. -/
theorem convertAll_eq_partCodes (oft sat : Bool) (f : Nat) (rm : Rm) (v : Nat → Num) : ∀ n i : Nat,
    convertAll oft sat f rm i ((List.range' i n).map v) = partCodes (fun k => convertElem oft sat (v k) f rm) (List.range' i n)
  | 0, _ => rfl
  | n + 1, i => by
    rw [List.range'_succ, List.map_cons, convertAll, convertAll_eq_partCodes oft sat f rm v n (i + 1)]
    rfl

/-- Element k of a `vcvt`: converted where it is active, else as it is in d. -/
def cvtElem (s : State) (a : VT) (e : Eff) (k : Nat) : Option (Nat × Flags) :=
  if activeAt s a (fmtWidth e.d) k then
    convertElem s.user.oft e.mods.sat (modSteps e.mods (decodeElem e.a (velem s a.s1 a (fmtWidth e.a) k))) e.d e.rm
  else some (velem s a.d a (fmtWidth e.d) k, 0)

theorem cvtList_eq_partCodes (s : State) (a : VT) (e : Eff) : ∀ l : List Nat,
    cvtList s a e (l.map fun k => (k, activeAt s a (fmtWidth e.d) k)) = partCodes (cvtElem s a e) l
  | [] => rfl
  | k :: l => by rw [List.map_cons, cvtList, cvtList_eq_partCodes s a e l]; rfl

theorem zip_activeBits (s : State) (a : VT) (w n : Nat) :
    (List.range n).zip (activeBits s a w n) = (List.range n).map fun k => (k, activeAt s a w k) := by
  rw [activeBits, List.zip_map_right, List.zip_eq_zipWith, List.zipWith_self, List.map_map]
  rfl

theorem cvtResult_eq (a : VT) (s : State) : cvtResult a s =
    (partCodes (cvtElem s a (effOf s)) (List.range (cvtElems a (effOf s)))).map
      fun r => (packElems (fmtWidth (effOf s).d) r.1, r.2) := by
  rw [cvtResult, zip_activeBits, cvtList_eq_partCodes]
  cases partCodes (cvtElem s a (effOf s)) (List.range (cvtElems a (effOf s))) <;> rfl

/-! ## vcvt (R169) -/

/-- A group of the width field's size starts at a multiple of it and lies within the file (R26). -/
theorem group_le {r : RegIdx} {w : BitVec 2} (h : r.toNat % 2 ^ w.toNat = 0) : r.toNat + 2 ^ w.toNat ≤ 32 := by
  have hr := reg_lt r
  have hw : w.toNat < 4 := w.isLt
  generalize r.toNat = x at *
  generalize w.toNat = y at *
  interval_cases y <;> omega

/-- A vector destination of custom-1 lies within the file. -/
theorem vtOk_custom1_d {r : VTRule} {a : VT} (hd : r.d = .v) (h : vtOk .custom1 r a = true) :
    a.d.toNat + 2 ^ a.w.toNat ≤ 32 := by
  apply group_le
  unfold vtOk at h
  simp only [hd, fieldOk, Bool.and_eq_true, beq_iff_eq] at h
  exact h.1.1.1.1.1.2

theorem vcvt_wf_d {a : VT} (h : (Instr.vcvt a).wf = true) : a.d.toNat + 2 ^ a.w.toNat ≤ 32 :=
  vtOk_custom1_d (r := ⟨.v, .v, .unused, false, false, .optional, 3⟩) rfl h

theorem vdqblk_wf_d {a : VT} (h : (Instr.vdqblk a).wf = true) : a.d.toNat + 2 ^ a.w.toNat ≤ 32 :=
  vtOk_custom1_d (r := ⟨.v, .v, .x, false, false, .never, 3⟩) rfl h

theorem fmtWidth_pos (f : Nat) : 0 < fmtWidth f := by unfold fmtWidth; split_ifs <;> decide

theorem cvtRegs_eq (a : VT) (e : Eff) (w : Nat) : cvtRegs a e w = (cvtElems a e * w + 511) / 512 := by
  rw [cvtRegs, ceilDiv]; omega

/-- The elements of the destination fit its group. -/
theorem cvtElems_mul_le (a : VT) (e : Eff) : cvtElems a e * fmtWidth e.d ≤ 2 ^ a.w.toNat * 512 :=
  (Nat.mul_le_mul_left _ (le_max_right (fmtWidth e.a) _)).trans (Nat.div_mul_le_self _ _)

section
variable {a : VT} {s : State} (hp : prefixOk true (cvtFmts a) s = true)
  (hr : readyWithPrefix s (vGroup a.s1.toNat (cvtRegs a (effOf s) (fmtWidth (effOf s).a)) ++
    (if a.m then vGroup a.d.toNat (cvtRegs a (effOf s) (fmtWidth (effOf s).d)) ++ vRegs 0 a else []))
    (vGroup a.d.toNat (cvtRegs a (effOf s) (fmtWidth (effOf s).d))) = true)
include hp hr

omit hp in
theorem vcvt_sources_ready : checkSources (cvtSources s a) s = none := by
  obtain ⟨he, hs, -⟩ := readyWithPrefix_iff.1 hr
  refine checkSources_none he fun src hsrc r hr => hs r ?_
  rcases List.mem_cons.1 hsrc with rfl | hsrc
  · exact List.mem_append_left _ hr
  · split at hsrc
    next hm =>
      rw [hm, if_pos rfl]
      simp only [List.mem_cons, List.not_mem_nil, or_false] at hsrc
      rcases hsrc with rfl | rfl
      · exact List.mem_append_right _ (List.mem_append_left _ hr)
      · exact List.mem_append_right _ (List.mem_append_right _ hr)
    next => simp at hsrc

theorem vcvt_converts {r : Nat × Flags} (h : cvtResult a s = .ok r) : exec (.vcvt a) s =
    .next (retire (raiseFlags r.2 (writeGroup a.d.toNat (cvtRegs a (effOf s) (fmtWidth (effOf s).d)) r.1 s))) := by
  obtain ⟨-, -, hd⟩ := readyWithPrefix_iff.1 hr
  have e : exec (.vcvt a) s = execVcvt a s := rfl
  rw [e, execVcvt, instr_eq_next, h]
  rw [firstStop_cons_none (checkPrefix_none _ hp),
    firstStop_cons_none (c := fun s => checkSources (cvtSources s a) s) (vcvt_sources_ready hr),
    firstStop_cons_none (checkConvert_ok h),
    firstStop_cons_none (c := fun s => checkDest (vGroup a.d.toNat (cvtRegs a (effOf s) (fmtWidth (effOf s).d))) s)
      (checkDest_none hd)]
  rfl

theorem vcvt_traps {k : Nat} (h : cvtResult a s = .error k) : exec (.vcvt a) s = .next (trap 27 (BitVec.ofNat 64 k) s) := by
  apply instr_eq_stop
  rw [firstStop_cons_none (checkPrefix_none _ hp),
    firstStop_cons_none (c := fun s => checkSources (cvtSources s a) s) (vcvt_sources_ready hr)]
  exact firstStop_cons_some (checkConvert_error h)

end

theorem prefixOk_legal {s : State} {mods : Bool} {legal : Eff → Bool} (h : prefixOk mods legal s = true) :
    legal (effOf s) = true := by
  unfold prefixOk at h
  cases hpre : prefixes s with
  | none => simp [hpre] at h
  | some p =>
    rw [hpre] at h
    rw [effOf, hpre]
    exact (Bool.and_eq_true _ _ ▸ h).2

theorem mem_xs_of_mem_srcX {r : RegIdx} {e : Bool} {n : RegName} (h : n ∈ (srcX r e).1) : n ∈ xs [r] := by
  unfold srcX at h
  split at h
  · simp at h
  · exact h

section
variable {conv : Nat → Option (Nat × Flags)} {n : Nat}

/-- The converted elements packed: below 2^(n × w), element k the code of k cut to the width. -/
theorem packed_codes (w : Nat) (h : ∀ k, k < n → (conv k).isSome = true) : ∃ codes fl,
    partCodes conv (List.range n) = .ok (codes, fl) ∧ packElems w codes < 2 ^ (n * w) ∧
      ∀ k q, k < n → conv k = some q → elemAt w (packElems w codes) k = q.1 % 2 ^ w ∧ q.2 ||| fl = fl := by
  obtain ⟨fl, hfl, hflags⟩ := partCodes_ok (conv := conv) (l := List.range n) fun k hk => h k (List.mem_range.1 hk)
  refine ⟨_, fl, hfl, ?_, fun k q hk hq => ⟨elemAt_packElems w ?_, hflags k (List.mem_range.2 hk) q hq⟩⟩
  · simpa using packElems_lt w ((List.range n).map fun k => ((conv k).getD (0, 0)).1)
  · simp [List.getElem?_range hk, hq]

/-- Converted elements that fill a vector group. -/
theorem writeGroup_converted {w d regs : Nat} (s : State) (hd : d + regs ≤ 32) (hfit : n * w ≤ 512 * regs)
    (h : ∀ k, k < n → (conv k).isSome = true) : ∃ codes fl, partCodes conv (List.range n) = .ok (codes, fl) ∧
    let t := retire (raiseFlags fl (writeGroup d regs (packElems w codes) s))
    VecRetires s t d regs ∧ groupValue t d regs < 2 ^ (n * w) ∧ ∀ k q, k < n → conv k = some q →
      elemAt w (groupValue t d regs) k = q.1 % 2 ^ w ∧ q.2 ||| t.user.vflags = t.user.vflags := by
  obtain ⟨codes, fl, hok, hlt, hcodes⟩ := packed_codes w h
  have hvalue : groupValue (retire (raiseFlags fl (writeGroup d regs (packElems w codes) s))) d regs = packElems w codes := by
    rw [groupValue_congr (s := writeGroup d regs (packElems w codes) s) (by simp),
      groupValue_writeGroup s hd (hlt.trans_le (Nat.pow_le_pow_right (by decide) hfit))]
  refine ⟨codes, fl, hok, vecRetires_writeGroup fl _ s hd, by rw [hvalue]; exact hlt, fun k q hk hq => ?_⟩
  obtain ⟨hcode, hflag⟩ := hcodes k q hk hq
  rw [hvalue, retire_user, raiseFlags_vflags]
  exact ⟨hcode, or_or_eq_of_or_eq hflag _⟩

end

section
variable {a : VT} {s : State} (hp : prefixOk true (cvtFmts a) s = true)
  (hr : readyWithPrefix s (vGroup a.s1.toNat (cvtRegs a (effOf s) (fmtWidth (effOf s).a)) ++
    (if a.m then vGroup a.d.toNat (cvtRegs a (effOf s) (fmtWidth (effOf s).d)) ++ vRegs 0 a else []))
    (vGroup a.d.toNat (cvtRegs a (effOf s) (fmtWidth (effOf s).d))) = true)
include hp hr

theorem vcvt_retires (hwf : (Instr.vcvt a).wf = true)
    (h : ∀ k, k < cvtElems a (effOf s) → (cvtElem s a (effOf s) k).isSome = true) :
    let w := fmtWidth (effOf s).d
    let regs := cvtRegs a (effOf s) w
    ∃ t, exec (.vcvt a) s = .next t ∧ VecRetires s t a.d.toNat regs ∧
      groupValue t a.d.toNat regs < 2 ^ (cvtElems a (effOf s) * w) ∧
      ∀ k q, k < cvtElems a (effOf s) → cvtElem s a (effOf s) k = some q →
        elemAt w (groupValue t a.d.toNat regs) k = q.1 % 2 ^ w ∧ q.2 ||| t.user.vflags = t.user.vflags := by
  have hle := cvtElems_mul_le a (effOf s)
  have hd := vcvt_wf_d hwf
  have hregs := cvtRegs_eq a (effOf s) (fmtWidth (effOf s).d)
  obtain ⟨codes, fl, hok, ht⟩ := writeGroup_converted (w := fmtWidth (effOf s).d) (d := a.d.toNat)
    (regs := cvtRegs a (effOf s) (fmtWidth (effOf s).d)) s (by omega) (by omega) h
  have hres : cvtResult a s = .ok (packElems (fmtWidth (effOf s).d) codes, fl) := by rw [cvtResult_eq, hok]; rfl
  exact ⟨_, vcvt_converts hp hr hres, ht⟩

theorem vcvt_overflows {k : Nat} (hk : k < cvtElems a (effOf s)) (hnone : cvtElem s a (effOf s) k = none)
    (hbelow : ∀ j, j < k → (cvtElem s a (effOf s) j).isSome = true) :
    exec (.vcvt a) s = .next (trap 27 (BitVec.ofNat 64 k) s) :=
  vcvt_traps hp hr (by rw [cvtResult_eq, partCodes_range_error hk hnone hbelow]; rfl)

end

/-! ## vdqblk (R171) -/

/-- Element k of a `vdqblk`. -/
def vdqElem (s : State) (a : VT) (k : Nat) : Option (Nat × Flags) :=
  convertElem s.user.oft false
    (decodeBlock (effOf s).a (elemAt (fmtWidth (effOf s).a) (getV s a.s1.toNat).val.toNat k) (xval s a.s2))
    (effOf s).d (effOf s).rm

theorem vdqResult_eq (a : VT) (s : State) : vdqResult a s =
    (partCodes (vdqElem s a) (List.range 32)).map fun r => (packElems (fmtWidth (effOf s).d) r.1, r.2) := by
  have e : convertAll s.user.oft false (effOf s).d (effOf s).rm 0
      ((elemsOf (fmtWidth (effOf s).a) (getV s a.s1.toNat).val.toNat 32).map fun c => decodeBlock (effOf s).a c (xval s a.s2)) =
      partCodes (vdqElem s a) (List.range 32) := by
    rw [elemsOf, List.map_map, List.range_eq_range']
    exact convertAll_eq_partCodes _ _ _ _ _ _ _
  rw [vdqResult, e]
  cases partCodes (vdqElem s a) (List.range 32) <;> rfl

/-- 32 elements of a destination format fill a group of the width that it takes. -/
theorem blockWidth_fits {a : VT} {f : Nat} (hf : f ≤ 2) (h : blockWidth a f = true) :
    32 * fmtWidth f = 512 * 2 ^ a.w.toNat := by
  unfold blockWidth at h
  interval_cases f <;> simp_all [fmtWidth]

section
variable {a : VT} {s : State} (hp : prefixOk false (vdqFmts a) s = true)
  (hr : readyWithPrefix s (vRegs a.s1 a ++ xs [a.s2]) (vRegs a.d a) = true)
include hp

/-- The formats that `vdqblk` accepts (R171). -/
theorem vdqblk_fits : 32 * fmtWidth (effOf s).d = 512 * 2 ^ a.w.toNat := by
  have hlegal := prefixOk_legal hp
  simp only [vdqFmts, Bool.and_eq_true, decide_eq_true_eq] at hlegal
  exact blockWidth_fits hlegal.1.1.1 hlegal.2

include hr

omit hp in
theorem vdqblk_sources_ready : checkSources [vs1 a, xs2 a] s = none := by
  obtain ⟨he, hs, -⟩ := readyWithPrefix_iff.1 hr
  refine checkSources_none he fun src hsrc r hr => hs r ?_
  simp only [List.mem_cons, List.not_mem_nil, or_false] at hsrc
  rcases hsrc with rfl | rfl
  · exact List.mem_append_left _ hr
  · exact List.mem_append_right _ (mem_xs_of_mem_srcX hr)

theorem vdqblk_converts {r : Nat × Flags} (h : vdqResult a s = .ok r) :
    exec (.vdqblk a) s = .next (retire (raiseFlags r.2 (writeGroup a.d.toNat (2 ^ a.w.toNat) r.1 s))) := by
  obtain ⟨-, -, hd⟩ := readyWithPrefix_iff.1 hr
  have e : exec (.vdqblk a) s = execVdqblk a s := rfl
  rw [e, execVdqblk, instr_eq_next, h]
  · rfl
  · rw [firstStop_cons_none (checkPrefix_none _ hp), firstStop_cons_none (vdqblk_sources_ready hr),
      firstStop_cons_none (checkConvert_ok h)]
    exact firstStop_cons_none (checkDest_none hd)

theorem vdqblk_traps {k : Nat} (h : vdqResult a s = .error k) :
    exec (.vdqblk a) s = .next (trap 27 (BitVec.ofNat 64 k) s) := by
  apply instr_eq_stop
  rw [firstStop_cons_none (checkPrefix_none _ hp), firstStop_cons_none (vdqblk_sources_ready hr)]
  exact firstStop_cons_some (checkConvert_error h)

theorem vdqblk_retires (hwf : (Instr.vdqblk a).wf = true) (h : ∀ k, k < 32 → (vdqElem s a k).isSome = true) :
    ∃ t, exec (.vdqblk a) s = .next t ∧ VecRetires s t a.d.toNat (2 ^ a.w.toNat) ∧
      ∀ k q, k < 32 → vdqElem s a k = some q → velem t a.d a (fmtWidth (effOf s).d) k = q.1 % 2 ^ fmtWidth (effOf s).d ∧
        q.2 ||| t.user.vflags = t.user.vflags := by
  obtain ⟨codes, fl, hok, hret, -, hcodes⟩ := writeGroup_converted s (vdqblk_wf_d hwf) (vdqblk_fits hp).le h
  have hres : vdqResult a s = .ok (packElems (fmtWidth (effOf s).d) codes, fl) := by rw [vdqResult_eq, hok]; rfl
  exact ⟨_, vdqblk_converts hp hr hres, hret, hcodes⟩

theorem vdqblk_overflows {k : Nat} (hk : k < 32) (hnone : vdqElem s a k = none)
    (hbelow : ∀ j, j < k → (vdqElem s a j).isSome = true) : exec (.vdqblk a) s = .next (trap 27 (BitVec.ofNat 64 k) s) :=
  vdqblk_traps hp hr (by rw [vdqResult_eq, partCodes_range_error hk hnone hbelow]; rfl)

end

/-! ## The greatest magnitude of a block (R82, R86) -/

theorem alignTo_cast {e q : Int} (m : Nat) (h : q ≤ e) : ((alignTo m e q : Nat) : ℚ) = m * 2 ^ e * (2 ^ q)⁻¹ := by
  have hexp : ((e - q).toNat : Int) = e - q := Int.toNat_of_nonneg (by omega)
  rw [alignTo, Nat.shiftLeft_eq, Nat.cast_mul, Nat.cast_pow, Nat.cast_ofNat, ← zpow_natCast, hexp,
    zpow_sub₀ (by norm_num), mul_assoc, div_eq_mul_inv]

/-- Magnitudes compare as the numbers m × 2^e. -/
theorem magLt_iff (m m' : Nat) (e e' : Int) : magLt m e m' e' = true ↔ (m : ℚ) * 2 ^ e < m' * 2 ^ e' := by
  have hpos : (0 : ℚ) < (2 ^ min e e')⁻¹ := by positivity
  rw [magLt, decide_eq_true_iff, ← Nat.cast_lt (α := ℚ), alignTo_cast m (min_le_left _ _),
    alignTo_cast m' (min_le_right _ _), mul_lt_mul_iff_left₀ hpos]

theorem magLt_eq_false_iff (m m' : Nat) (e e' : Int) : magLt m e m' e' = false ↔ (m' : ℚ) * 2 ^ e' ≤ m * 2 ^ e := by
  rw [← Bool.not_eq_true, magLt_iff, not_lt]

/-- What `maxLog2` finds: no non-zero finite value, or one that no other exceeds. -/
def IsMaxOf (l : List Num) : Option (Nat × Int) → Prop
  | none => ∀ n m e, Num.fin n m e ∈ l → m = 0
  | some (m, e) => m ≠ 0 ∧ (∃ n, Num.fin n m e ∈ l) ∧ ∀ n m' e', Num.fin n m' e' ∈ l → magLt m e m' e' = false

/-- One step of `maxLog2`. -/
def maxStep (acc : Option (Nat × Int)) : Num → Option (Nat × Int)
  | .fin _ m e => if m = 0 then acc else match acc with
    | none => some (m, e)
    | some (m', e') => if magLt m' e' m e then some (m, e) else acc
  | .nan _ | .inf _ => acc

theorem maxLog2_eq (l : List Num) : maxLog2 l = l.foldl maxStep none := rfl

theorem isMaxOf_append_other {l : List Num} {acc : Option (Nat × Int)} (h : IsMaxOf l acc) {x : Num}
    (hx : ∀ n m e, x = .fin n m e → m = 0) : IsMaxOf (l ++ [x]) acc := by
  match acc with
  | none =>
    intro n m e hm
    rcases List.mem_append.1 hm with hm | hm
    · exact h n m e hm
    · exact hx n m e (List.mem_singleton.1 hm).symm
  | some (M, E) =>
    obtain ⟨h0, ⟨n0, hn0⟩, hmax⟩ := h
    refine ⟨h0, ⟨n0, List.mem_append_left _ hn0⟩, fun n m e hm => ?_⟩
    rcases List.mem_append.1 hm with hm | hm
    · exact hmax n m e hm
    · rw [hx n m e (List.mem_singleton.1 hm).symm, magLt_eq_false_iff]
      simp; positivity

theorem isMaxOf_maxStep {l : List Num} {acc : Option (Nat × Int)} (h : IsMaxOf l acc) (x : Num) :
    IsMaxOf (l ++ [x]) (maxStep acc x) := by
  match x with
  | .nan _ | .inf _ => exact isMaxOf_append_other h (by simp)
  | .fin n m e =>
    by_cases h0 : m = 0
    · have hstep : maxStep acc (.fin n m e) = acc := by simp [maxStep, h0]
      rw [hstep]
      exact isMaxOf_append_other h fun n' m' e' hx => by cases hx; exact h0
    · have hself : Num.fin n m e ∈ l ++ [Num.fin n m e] := by simp
      match acc with
      | none =>
        have hstep : maxStep none (.fin n m e) = some (m, e) := by simp [maxStep, h0]
        rw [hstep]
        refine ⟨h0, ⟨n, hself⟩, fun n' m' e' hm => ?_⟩
        rw [magLt_eq_false_iff]
        rcases List.mem_append.1 hm with hm | hm
        · rw [h n' m' e' hm]; simp; positivity
        · cases List.mem_singleton.1 hm; exact le_rfl
      | some (M, E) =>
        obtain ⟨hM, ⟨n0, hn0⟩, hmax⟩ := h
        have hstep : maxStep (some (M, E)) (.fin n m e) = if magLt M E m e then some (m, e) else some (M, E) := by
          simp [maxStep, h0]
        rw [hstep]
        split
        next hlt =>
          refine ⟨h0, ⟨n, hself⟩, fun n' m' e' hm => ?_⟩
          rw [magLt_eq_false_iff]
          rcases List.mem_append.1 hm with hm | hm
          · exact ((magLt_eq_false_iff _ _ _ _).1 (hmax n' m' e' hm)).trans ((magLt_iff _ _ _ _).1 hlt).le
          · cases List.mem_singleton.1 hm; exact le_rfl
        next hle =>
          refine ⟨hM, ⟨n0, List.mem_append_left _ hn0⟩, fun n' m' e' hm => ?_⟩
          rcases List.mem_append.1 hm with hm | hm
          · exact hmax n' m' e' hm
          · cases List.mem_singleton.1 hm; exact Bool.not_eq_true _ ▸ hle

theorem isMaxOf_maxLog2 (l : List Num) : IsMaxOf l (maxLog2 l) := by
  induction l using List.reverseRecOn with
  | nil => simp [maxLog2, IsMaxOf]
  | append_singleton l x ih =>
    rw [maxLog2_eq, List.foldl_append]
    exact isMaxOf_maxStep ih x

theorem noFinite_of_maxLog2 {x : Nat → Num} (h : maxLog2 ((List.range 32).map x) = none) : NoFinite x := by
  have hmax := isMaxOf_maxLog2 ((List.range 32).map x)
  rw [h] at hmax
  exact fun k hk n m e hx => hmax n m e (hx ▸ List.mem_map_of_mem (List.mem_range.2 hk))

theorem isLargest_of_maxLog2 {x : Nat → Num} {m : Nat} {e : Int} (h : maxLog2 ((List.range 32).map x) = some (m, e)) :
    IsLargest x m e := by
  have hmax := isMaxOf_maxLog2 ((List.range 32).map x)
  rw [h] at hmax
  obtain ⟨h0, ⟨n, hn⟩, hmax⟩ := hmax
  obtain ⟨k, hk, hx⟩ := List.mem_map.1 hn
  refine ⟨h0, ⟨k, List.mem_range.1 hk, n, hx⟩, fun k hk n' m' e' hx => hmax n' m' e' ?_⟩
  exact hx ▸ List.mem_map_of_mem (List.mem_range.2 hk)

/-! ## The element of a block that traps (R76, R82, R86) -/

/-- The infinity that stops a quantisation. -/
def firstTrap (oft sat : Bool) (f : Nat) (xs : List Num) : Option Nat :=
  if sat || hasInfinity f || !oft then none else firstInf xs

theorem firstInf_eq (xs : List Num) : firstInf xs = xs.findIdx? isInf :=
  congrArg (fun p => xs.findIdx? p) (funext fun x => by cases x <;> rfl)

section
variable {s : State} {f : Nat} {sat : Bool} {x : Nat → Num}

theorem firstTrap_none (h : ∀ k, k < 32 → blockTraps s f sat (x k) = false) :
    firstTrap s.user.oft sat f ((List.range 32).map x) = none := by
  unfold firstTrap
  split
  · rfl
  next hc =>
    rw [firstInf_eq, List.findIdx?_eq_none_iff]
    intro v hv
    obtain ⟨k, hk, rfl⟩ := List.mem_map.1 hv
    have := h k (List.mem_range.1 hk)
    simp_all [blockTraps]

theorem firstTrap_some {k : Nat} (hk : k < 32) (htrap : blockTraps s f sat (x k) = true)
    (hbelow : ∀ j, j < k → blockTraps s f sat (x j) = false) :
    firstTrap s.user.oft sat f ((List.range 32).map x) = some k := by
  have hparts : ((s.user.oft = true ∧ sat = false) ∧ hasInfinity f = false) ∧ isInf (x k) = true := by
    simpa [blockTraps] using htrap
  obtain ⟨⟨⟨ho, hs⟩, hf⟩, hx⟩ := hparts
  rw [firstTrap, ho, hs, hf, if_neg (by decide), firstInf_eq, List.findIdx?_eq_some_iff_getElem]
  refine ⟨by simpa using hk, by simpa using hx, fun j hj => ?_⟩
  simpa [blockTraps, ho, hs, hf] using hbelow j hj

end

/-! ## Quantised blocks (R82, R86) -/

/-- A result whose codes, cut to the width, are what `P` says of a scale and the codes. -/
def QuantResult.Codes (r : QuantResult) (w scaleBits : Nat) (P : Nat → (Nat → Nat) → Prop) : Prop :=
  ∃ scale codes fl, r = .ok scale codes fl ∧ codes.length = 32 ∧ scale < 2 ^ scaleBits ∧
    ∀ code : Nat → Nat, (∀ k e, codes[k]? = some e → code k = e % 2 ^ w) → P scale code

/-- The exponent of an MX scale. -/
def mxExponent (f : Nat) (ys : List Num) : Int :=
  match maxLog2 ys with
  | none => -127
  | some (m, e) => min (max (e + m.log2 - (if f = 3 then 8 else if f = 4 then 15 else 2)) (-127)) 127

theorem mxExponent_bounds (f : Nat) (ys : List Num) : -127 ≤ mxExponent f ys ∧ mxExponent f ys ≤ 127 := by
  unfold mxExponent
  split <;> omega

/-- What `quantMx` makes of an infinity before it quantises. -/
def mxInput (sat : Bool) (f : Nat) (x : Num) : Num :=
  match x with
  | .inf n => if sat then limitOf 0 n else if hasInfinity f then .inf n else .nan false
  | .nan s => .nan s
  | .fin n m e => .fin n m e

theorem mxInput_eq (sat : Bool) (f : Nat) (x : Num) : mxInput sat f x = mxSource sat f x := by cases x <;> rfl

section
variable {oft sat : Bool} {f : Nat} {xs : List Num}

theorem quantMx_trap {k : Nat} (h : firstTrap oft sat f xs = some k) : quantMx oft sat f xs = .trap k := by
  unfold firstTrap at h
  rw [quantMx, h]

/-- The scale and the codes of a block that does not trap. -/
theorem quantMx_free (h : firstTrap oft sat f xs = none) : ∃ fl fl', quantMx oft sat f xs =
    let ys := xs.map (mxInput sat f)
    if f = 5 ∧ ys.any Num.isNaN then .ok 255 (List.replicate 32 0) fl
    else .ok (mxExponent f ys + 127).toNat ((ys.map (quantMxElem f (mxExponent f ys))).map (·.1)) fl' := by
  unfold firstTrap at h
  rw [quantMx, h]
  dsimp only
  exact ⟨_, _, rfl⟩

end

theorem quantMx_codes {s : State} {f : Nat} {sat : Bool} {x : Nat → Num}
    (h : ∀ k, k < 32 → blockTraps s f sat (x k) = false) :
    (quantMx s.user.oft sat f ((List.range 32).map x)).Codes (fmtWidth f) 8 (MxQuantised f sat x) := by
  obtain ⟨fl, fl', e⟩ := quantMx_free (firstTrap_none h)
  have hys : ((List.range 32).map x).map (mxInput sat f) = (List.range 32).map fun k => mxSource sat f (x k) := by
    rw [List.map_map]
    exact List.map_congr_left fun k _ => mxInput_eq sat f (x k)
  obtain ⟨hlow, hhigh⟩ := mxExponent_bounds f ((List.range 32).map fun k => mxSource sat f (x k))
  rw [e, hys]
  dsimp only
  split
  next hnan =>
    refine ⟨_, _, _, rfl, by simp, by decide, fun code hcode => ?_⟩
    rw [MxQuantised, if_pos (by simpa [List.any_map, Function.comp_def] using hnan)]
    exact ⟨rfl, fun k hk => (hcode k 0 (by rw [List.getElem?_replicate, if_pos hk])).trans (Nat.zero_mod _)⟩
  next hnan =>
    refine ⟨_, _, _, rfl, by simp, by omega, fun code hcode => ?_⟩
    rw [MxQuantised, if_neg (by simpa [List.any_map, Function.comp_def] using hnan)]
    refine ⟨mxExponent f ((List.range 32).map fun k => mxSource sat f (x k)), rfl, fun k hk => ?_, ?_⟩
    · exact hcode k _ (by simp [List.getElem?_range hk])
    · unfold mxExponent
      split
      next hmax => exact .inl ⟨noFinite_of_maxLog2 hmax, rfl⟩
      next m e hmax => exact .inr ⟨m, e, isLargest_of_maxLog2 hmax, rfl⟩

/-! ## Tidal blocks (R86) -/

/-- The greatest code magnitude, the binades between the tides, and the bias of a tidal format. -/
def tidalMax (f : Nat) : Nat := if f = 6 then 63 else 3
def tidalGap (f : Nat) : Nat := if f = 6 then 6 else 2
def tidalBias (f : Nat) : Int := if f = 6 then 2052 else 2048

/-- The tide at which a magnitude rounds to at most the greatest code. -/
def tidalHigh (f m : Nat) (e : Int) : Nat :=
  let first : Int := e + m.log2 + 2047
  (min (max (if tidalMax f < roundMag false m e (first - tidalBias f) .rne then first + 1 else first) 1) 4094).toNat

/-- The scale word and the codes under a high tide. -/
def tidalBlock (f : Nat) (sat : Bool) (xs : List Num) (fl : Flags) (eh : Nat) : QuantResult :=
  .ok (max (eh - tidalGap f) 1 * 4096 + eh)
    ((xs.map (quantTidalElem f sat (tidalMax f) (tidalBias f) eh (max (eh - tidalGap f) 1))).map (·.1)) fl

/-- The code of a value in a block without a non-zero finite one. -/
def tidalZeroCode (f : Nat) (x : Num) : Nat :=
  match x with
  | .fin _ _ _ => 0
  | .nan _ | .inf _ => 2 ^ (fmtWidth f - 1)

section
variable {oft sat : Bool} {f : Nat} {xs : List Num}

theorem hasInfinity_tidal (h : isTidal f = true) : hasInfinity f = false := by
  have hf : f = 6 ∨ f = 7 := by simpa [isTidal] using h
  rcases hf with rfl | rfl <;> rfl

theorem firstTrap_tidal (h : isTidal f = true) : firstTrap oft sat f xs = if sat || !oft then none else firstInf xs := by
  rw [firstTrap, hasInfinity_tidal h, Bool.or_false]

theorem tidalConstants (f : Nat) :
    (if f = 6 then (63, 6, (2052 : Int)) else (3, 2, 2048)) = (tidalMax f, tidalGap f, tidalBias f) := by
  unfold tidalMax tidalGap tidalBias
  split <;> rfl

theorem quantTidal_trap {k : Nat} (hf : isTidal f = true) (h : firstTrap oft sat f xs = some k) :
    quantTidal oft sat f xs = .trap k := by
  rw [firstTrap_tidal hf] at h
  rw [quantTidal, tidalConstants, h]

/-- The three ways in which a block that does not trap gets its tides. -/
theorem quantTidal_free (hf : isTidal f = true) (h : firstTrap oft sat f xs = none) :
    ((sat = true ∧ xs.any isInf = true) ∧ ∃ fl, quantTidal oft sat f xs = tidalBlock f sat xs fl 4094) ∨
    (¬ (sat = true ∧ xs.any isInf = true) ∧
      ((maxLog2 xs = none ∧ ∃ fl, quantTidal oft sat f xs = .ok 0 (xs.map (tidalZeroCode f)) fl) ∨
        ∃ m e, maxLog2 xs = some (m, e) ∧ ∃ fl, quantTidal oft sat f xs = tidalBlock f sat xs fl (tidalHigh f m e))) := by
  have hinf : (firstInf xs).isSome = xs.any isInf := by rw [firstInf_eq, List.findIdx?_isSome]
  rw [firstTrap_tidal hf] at h
  rw [quantTidal, tidalConstants, h, hinf]
  dsimp only
  by_cases hs : sat = true ∧ xs.any isInf = true
  · rw [if_pos (by simpa [and_comm] using hs)]
    exact .inl ⟨hs, _, rfl⟩
  · rw [if_neg (by simpa [and_comm] using hs)]
    cases hmax : maxLog2 xs with
    | none => exact .inr ⟨hs, .inl ⟨rfl, _, rfl⟩⟩
    | some p => exact .inr ⟨hs, .inr ⟨p.1, p.2, rfl, _, rfl⟩⟩

end

/-- The codes of a block under a high tide of at most 4,094. -/
theorem tidalBlock_codes {f eh : Nat} {sat : Bool} {x : Nat → Num} {fl : Flags} {P : Nat → (Nat → Nat) → Prop}
    (heh : eh ≤ 4094) (hP : ∀ code : Nat → Nat, (∀ k < 32, code k =
      (quantTidalElem f sat (tidalMax f) (tidalBias f) eh (max (eh - tidalGap f) 1) (x k)).1 % 2 ^ fmtWidth f) →
      P (max (eh - tidalGap f) 1 * 4096 + eh) code) :
    (tidalBlock f sat ((List.range 32).map x) fl eh).Codes (fmtWidth f) 32 P := by
  refine ⟨_, _, _, rfl, by simp, by omega, fun code hcode => hP code fun k hk => ?_⟩
  exact hcode k _ (by simp [List.getElem?_range hk])

theorem tidalHigh_le (f m : Nat) (e : Int) : tidalHigh f m e ≤ 4094 := by unfold tidalHigh; dsimp only; omega

theorem quantTidal_codes {s : State} {f : Nat} {sat : Bool} {x : Nat → Num} (hf : isTidal f = true)
    (h : ∀ k, k < 32 → blockTraps s f sat (x k) = false) :
    (quantTidal s.user.oft sat f ((List.range 32).map x)).Codes (fmtWidth f) 32 (TidalQuantised f sat x) := by
  have hany : ((List.range 32).map x).any isInf = (List.range 32).any fun k => isInf (x k) := by rw [List.any_map]; rfl
  rcases quantTidal_free hf (firstTrap_none h) with ⟨hinf, fl, e⟩ | ⟨hinf, ⟨hmax, fl, e⟩ | ⟨m, e', hmax, fl, e⟩⟩ <;>
    rw [e] <;> rw [hany] at hinf
  case inl =>
    refine tidalBlock_codes le_rfl fun code hcode => ?_
    rw [TidalQuantised, if_pos hinf]
    exact ⟨rfl, hcode⟩
  case inr.inl =>
    refine ⟨_, _, _, rfl, by simp, by decide, fun code hcode => ?_⟩
    rw [TidalQuantised, if_neg hinf]
    refine .inl ⟨noFinite_of_maxLog2 hmax, rfl, fun k hk => ?_⟩
    have hwidth : 2 ^ (fmtWidth f - 1) < 2 ^ fmtWidth f := Nat.pow_lt_pow_right (by decide) (by have := fmtWidth_pos f; omega)
    rw [hcode k _ (by rw [List.getElem?_map, List.getElem?_map, List.getElem?_range hk]; rfl)]
    cases x k with
    | fin n m e => exact Nat.zero_mod _
    | nan _ | inf _ => exact Nat.mod_eq_of_lt hwidth
  case inr.inr =>
    refine tidalBlock_codes (tidalHigh_le f m e') fun code hcode => ?_
    rw [TidalQuantised, if_neg hinf]
    exact .inr ⟨m, e', isLargest_of_maxLog2 hmax, rfl, hcode⟩

/-! ## Blocks of either kind -/

/-- The width of a scale in a companion (R178). -/
def scaleWidth (f : Nat) : Nat := if isTidal f then 32 else 8

/-- One block of 32 quantised. -/
def quantBlock (oft sat : Bool) (f : Nat) (xs : List Num) : QuantResult :=
  if isTidal f then quantTidal oft sat f xs else quantMx oft sat f xs

section
variable {s : State} {f : Nat} {sat : Bool} {x : Nat → Num}

theorem quantBlock_codes (h : ∀ k, k < 32 → blockTraps s f sat (x k) = false) :
    (quantBlock s.user.oft sat f ((List.range 32).map x)).Codes (fmtWidth f) (scaleWidth f) (Quantised f sat x) := by
  unfold quantBlock scaleWidth Quantised
  split
  next hf => exact quantTidal_codes hf h
  next => exact quantMx_codes h

theorem quantBlock_trap {k : Nat} (hk : k < 32) (htrap : blockTraps s f sat (x k) = true)
    (hbelow : ∀ j, j < k → blockTraps s f sat (x j) = false) :
    quantBlock s.user.oft sat f ((List.range 32).map x) = .trap k := by
  have h := firstTrap_some hk htrap hbelow
  unfold quantBlock
  split
  next hf => exact quantTidal_trap hf h
  next => exact quantMx_trap h

end

/-! ## vqblk (R170) -/

/-- The formats with scales have elements of 8 or 4 bits. -/
theorem fmtWidth_block {f : Nat} (h : isBlockFmt f = true) : fmtWidth f = 8 ∨ fmtWidth f = 4 := by
  have hf : 3 ≤ f ∧ f ≤ 7 := by simpa [isBlockFmt] using h
  obtain ⟨h3, h7⟩ := hf
  interval_cases f <;> decide

/-- Value k of the block that a `vqblk` quantises. -/
def vqValue (s : State) (a : VT) (k : Nat) : Num :=
  modSteps (effOf s).mods (decodeElem (effOf s).a (velem s a.s1 a (fmtWidth (effOf s).a) k))

section
variable {a : VT} {s : State}

theorem vqResult_ok {scale : Nat} {codes : List Nat} {fl : Flags}
    (h : quantBlock s.user.oft (effOf s).mods.sat (effOf s).d ((List.range 32).map (vqValue s a)) = .ok scale codes fl) :
    vqResult a s = .ok (scale, packElems (fmtWidth (effOf s).d) codes, fl) := by
  have e : quantise s.user.oft (effOf s).mods (effOf s).d
      ((elemsOf (fmtWidth (effOf s).a) (vval s a.s1 a.w) 32).map (decodeElem (effOf s).a)) = .ok scale codes fl := by
    rw [elemsOf, List.map_map, quantise, List.map_map]; exact h
  rw [vqResult, e]

theorem vqResult_trap {k : Nat}
    (h : quantBlock s.user.oft (effOf s).mods.sat (effOf s).d ((List.range 32).map (vqValue s a)) = .trap k) :
    vqResult a s = .error k := by
  have e : quantise s.user.oft (effOf s).mods (effOf s).d
      ((elemsOf (fmtWidth (effOf s).a) (vval s a.s1 a.w) 32).map (decodeElem (effOf s).a)) = .trap k := by
    rw [elemsOf, List.map_map, quantise, List.map_map]; exact h
  rw [vqResult, e]

variable (hp : prefixOk true (vqFmts a) s = true) (hr : readyWithPrefix s (vRegs a.s1 a) (.v a.d.toNat :: xs [a.s2]) = true)
include hr

theorem vqblk_sources_ready : checkSources [vs1 a] s = none := by
  obtain ⟨he, hs, -⟩ := readyWithPrefix_iff.1 hr
  refine checkSources_none he fun src hsrc r hr => hs r ?_
  obtain rfl := List.mem_singleton.1 hsrc
  exact hr

theorem vqblk_dest_ready : checkDest (.v a.d.toNat :: dstX a.s2) s = none := by
  obtain ⟨-, -, hd⟩ := readyWithPrefix_iff.1 hr
  refine checkDest_none fun r hr => hd r ?_
  rcases List.mem_cons.1 hr with rfl | hr
  · exact List.mem_cons_self
  · exact List.mem_cons_of_mem _ (mem_xs_of_mem_srcX (e := false) hr)

include hp

theorem vqblk_converts {scale packed : Nat} {fl : Flags} (h : vqResult a s = .ok (scale, packed, fl)) : exec (.vqblk a) s =
    .next (retire (raiseFlags fl (setX a.s2 (BitVec.ofNat 64 scale) (writeV a.d.toNat (BitVec.ofNat 512 packed) s)))) := by
  have e : exec (.vqblk a) s = execVqblk a s := rfl
  rw [e, execVqblk, instr_eq_next, h]
  · simp only [place_zero]
  · rw [firstStop_cons_none (checkPrefix_none _ hp), firstStop_cons_none (vqblk_sources_ready hr),
      firstStop_cons_none (checkConvert_ok h)]
    exact firstStop_cons_none (vqblk_dest_ready hr)

theorem vqblk_traps {k : Nat} (h : vqResult a s = .error k) : exec (.vqblk a) s = .next (trap 27 (BitVec.ofNat 64 k) s) := by
  apply instr_eq_stop
  rw [firstStop_cons_none (checkPrefix_none _ hp), firstStop_cons_none (vqblk_sources_ready hr)]
  exact firstStop_cons_some (checkConvert_error h)

end

/-- What an instruction leaves that writes a vector register and an x register, raises flags and retires. -/
theorem retire_setX_writeV (s : State) (fl : Flags) (rd d : RegIdx) (v : Word) {packed : Nat} (h : packed < 2 ^ 512) :
    let t := retire (raiseFlags fl (setX rd v (writeV d.toNat (BitVec.ofNat 512 packed) s)))
    WritesX s t rd v ∧ SameMemory s t ∧ regState t (.v d.toNat) = .full ∧ (getV t d.toNat).val.toNat = packed ∧
      (∀ n, n ≠ d.toNat → getV t n = getV s n) ∧ t.hart.m = s.hart.m ∧ t.hart.pc = (retiredHart s).pc ∧
      s.user.vflags ||| t.user.vflags = t.user.vflags ∧ t.mach = retiredMach s := by
  intro t
  have hd := reg_lt d
  have regs : ChangesRegs s (raiseFlags fl (setX rd v (writeV d.toNat (BitVec.ofNat 512 packed) s))) :=
    ((changesRegs_writeV _ _ s).trans (changesRegs_setX _ _ _)).trans (changesRegs_raiseFlags _ _)
  have ht := retire_of_changesRegs regs
  have hv (n : Nat) : getV t n =
      if n = d.toNat ∧ d.toNat < 32 then { val := BitVec.ofNat 512 packed, st := .full } else getV s n := by
    rw [getV_congr (s := writeV d.toNat (BitVec.ofNat 512 packed) s) (by simp [t]), writeV, getV_putV]
  refine ⟨?writes, fun k => by simp [t], by simp [regState, hv, hd], ?value, fun n hn => by simp [hv, hn], ?_, ?_, ?_, ?_⟩
  case writes =>
    have hw := writesX_of_x_eq (u := t) (writesX_setX (writeV d.toNat (BitVec.ofNat 512 packed) s) rd v) (by simp [t])
    exact ⟨hw.1, hw.2.1, fun n hn => (hw.2.2 n hn).trans (getX_congr rfl n)⟩
  case value => rw [hv, if_pos ⟨rfl, hd⟩, BitVec.toNat_ofNat, Nat.mod_eq_of_lt h]
  · simp [t]; rfl
  · exact congrArg (fun u : State => u.hart.pc) ht
  · simp only [t, retire_user, raiseFlags_vflags, setX_user, writeV_user]; ext i; simp
  · exact congrArg State.mach ht

section
variable {a : VT} {s : State} (hp : prefixOk true (vqFmts a) s = true)
  (hr : readyWithPrefix s (vRegs a.s1 a) (.v a.d.toNat :: xs [a.s2]) = true)
include hp hr

theorem vqblk_retires (h : ∀ k, k < 32 → blockTraps s (effOf s).d (effOf s).mods.sat (vqValue s a k) = false) :
    ∃ t scale, exec (.vqblk a) s = .next t ∧ WritesX s t a.s2 (BitVec.ofNat 64 scale) ∧ SameMemory s t ∧
      regState t (.v a.d.toNat) = .full ∧ (getV t a.d.toNat).val.toNat < 2 ^ (32 * fmtWidth (effOf s).d) ∧
      Quantised (effOf s).d (effOf s).mods.sat (vqValue s a) scale
        (elemAt (fmtWidth (effOf s).d) (getV t a.d.toNat).val.toNat) ∧
      (∀ n, n ≠ a.d.toNat → getV t n = getV s n) ∧ t.hart.m = s.hart.m ∧ t.hart.pc = (retiredHart s).pc ∧
      s.user.vflags ||| t.user.vflags = t.user.vflags ∧ t.mach = retiredMach s := by
  obtain ⟨scale, codes, fl, hok, hlen, -, hcodes⟩ := quantBlock_codes h
  have hblock : isBlockFmt (effOf s).d = true := by
    have hlegal := prefixOk_legal hp
    simp only [vqFmts, Bool.and_eq_true] at hlegal
    exact hlegal.1.1.1.1
  have hlt : packElems (fmtWidth (effOf s).d) codes < 2 ^ (32 * fmtWidth (effOf s).d) := hlen ▸ packElems_lt _ codes
  have hfit : 2 ^ (32 * fmtWidth (effOf s).d) ≤ 2 ^ 512 := by
    have hw := fmtWidth_block hblock
    exact Nat.pow_le_pow_right (by decide) (by omega)
  obtain ⟨hx, hmem, hfull, hvalue, hrest⟩ := retire_setX_writeV s fl a.s2 a.d (BitVec.ofNat 64 scale) (hlt.trans_le hfit)
  refine ⟨_, scale, vqblk_converts hp hr (vqResult_ok hok), hx, hmem, hfull, ?_, ?_, hrest⟩
  · rw [hvalue]; exact hlt
  · rw [hvalue]; exact hcodes _ fun k e hk => elemAt_packElems _ hk

theorem vqblk_overflows {k : Nat} (hk : k < 32) (htrap : blockTraps s (effOf s).d (effOf s).mods.sat (vqValue s a k) = true)
    (hbelow : ∀ j, j < k → blockTraps s (effOf s).d (effOf s).mods.sat (vqValue s a j) = false) :
    exec (.vqblk a) s = .next (trap 27 (BitVec.ofNat 64 k) s) :=
  vqblk_traps hp hr (vqResult_trap (quantBlock_trap hk htrap hbelow))

end

/-! ## Blocks in order (R205) -/

section
variable {oft sat : Bool} {f n pos : Nat} {v : Nat → Num}

theorem take_block (n pos : Nat) (v : Nat → Num) :
    ((List.range' pos (32 * (n + 1))).map v).take 32 = (List.range 32).map fun k => v (pos + k) := by
  rw [← List.map_take, Nat.mul_succ, Nat.add_comm, ← List.range'_append_1, List.take_left' (by simp),
    List.range'_eq_map_range, List.map_map]
  rfl

theorem drop_block (n pos : Nat) (v : Nat → Num) :
    ((List.range' pos (32 * (n + 1))).map v).drop 32 = (List.range' (pos + 32) (32 * n)).map v := by
  rw [← List.map_drop, Nat.mul_succ, Nat.add_comm, ← List.range'_append_1, List.drop_left' (by simp)]

theorem quantBlocks_trap {k : Nat} (h : quantBlock oft sat f ((List.range 32).map fun k => v (pos + k)) = .trap k) :
    quantBlocks oft sat f (n + 1) pos ((List.range' pos (32 * (n + 1))).map v) = .error (pos + k) := by
  unfold quantBlock at h
  rw [quantBlocks, take_block, drop_block, h]

variable {scale : Nat} {codes : List Nat} {fl : Flags}
  (h : quantBlock oft sat f ((List.range 32).map fun k => v (pos + k)) = .ok scale codes fl)
include h

theorem quantBlocks_error {k : Nat}
    (hrest : quantBlocks oft sat f n (pos + 32) ((List.range' (pos + 32) (32 * n)).map v) = .error k) :
    quantBlocks oft sat f (n + 1) pos ((List.range' pos (32 * (n + 1))).map v) = .error k := by
  unfold quantBlock at h
  rw [quantBlocks, take_block, drop_block, h, hrest]

theorem quantBlocks_ok {q : List Nat × List Nat × Flags}
    (hrest : quantBlocks oft sat f n (pos + 32) ((List.range' (pos + 32) (32 * n)).map v) = .ok q) :
    quantBlocks oft sat f (n + 1) pos ((List.range' pos (32 * (n + 1))).map v) =
      .ok (scale :: q.1, codes ++ q.2.1, fl ||| q.2.2) := by
  unfold quantBlock at h
  rw [quantBlocks, take_block, drop_block, h, hrest]

end

/-- Every block of a run has a scale within its width, and the scale and the codes of R82 or R86. -/
def BlocksQuantised (f : Nat) (sat : Bool) (v : Nat → Num) (n : Nat) (scales codes : List Nat) : Prop :=
  scales.length = n ∧ codes.length = 32 * n ∧ ∀ b, b < n → ∃ scale, scales[b]? = some scale ∧ scale < 2 ^ scaleWidth f ∧
    ∀ code : Nat → Nat, (∀ k e, k < 32 → codes[32 * b + k]? = some e → code k = e % 2 ^ fmtWidth f) →
      Quantised f sat (fun k => v (32 * b + k)) scale code

theorem BlocksQuantised.cons {f n : Nat} {sat : Bool} {v : Nat → Num} {fl : Flags} {r : QuantResult} {scale : Nat}
    {codes scales' codes' : List Nat} (hr : r = .ok scale codes fl)
    (hblock : r.Codes (fmtWidth f) (scaleWidth f) (Quantised f sat v))
    (hrest : BlocksQuantised f sat (fun k => v (32 + k)) n scales' codes') :
    BlocksQuantised f sat v (n + 1) (scale :: scales') (codes ++ codes') := by
  obtain ⟨_, _, _, e, hlen, hscale, hcodes⟩ := hblock
  obtain ⟨rfl, rfl, rfl⟩ := QuantResult.ok.inj (hr.symm.trans e)
  obtain ⟨hscales, hcount, hblocks⟩ := hrest
  refine ⟨by simp [hscales], by simp [hlen, hcount]; omega, fun b hb => ?_⟩
  cases b with
  | zero =>
    refine ⟨scale, rfl, hscale, fun code hcode => ?_⟩
    simp only [Nat.mul_zero, Nat.zero_add] at hcode ⊢
    refine hcodes code fun k e hk => hcode k e (hlen ▸ (List.getElem?_eq_some_iff.1 hk).1) ?_
    rw [List.getElem?_append_left (List.getElem?_eq_some_iff.1 hk).1, hk]
  | succ b =>
    obtain ⟨scale', hs, hlt, hq⟩ := hblocks b (by omega)
    refine ⟨scale', hs, hlt, fun code hcode => ?_⟩
    have hshift (k : Nat) : 32 * (b + 1) + k = 32 + (32 * b + k) := by omega
    simp only [hshift] at hcode ⊢
    refine hq code fun k e hk he => hcode k e hk ?_
    rw [List.getElem?_append_right (by omega), hlen, Nat.add_sub_cancel_left, he]

section
variable {s : State} {f : Nat} {sat : Bool} {v : Nat → Num}

theorem quantBlocks_quantised : ∀ {n pos : Nat}, (∀ k, k < 32 * n → blockTraps s f sat (v (pos + k)) = false) →
    ∃ scales codes fl, quantBlocks s.user.oft sat f n pos ((List.range' pos (32 * n)).map v) = .ok (scales, codes, fl) ∧
      BlocksQuantised f sat (fun k => v (pos + k)) n scales codes
  | 0, _, _ => ⟨[], [], 0, rfl, rfl, rfl, fun _ hb => absurd hb (Nat.not_lt_zero _)⟩
  | n + 1, pos, h => by
    have hblock := quantBlock_codes (s := s) (f := f) (sat := sat) (x := fun k => v (pos + k)) fun k hk => h k (by omega)
    obtain ⟨scale, codes, fl, hok, -⟩ := id hblock
    obtain ⟨_, _, _, hq, hrest⟩ := quantBlocks_quantised (n := n) (pos := pos + 32) fun k hk => by
      rw [Nat.add_assoc]; exact h (32 + k) (by omega)
    simp only [Nat.add_assoc] at hrest
    exact ⟨_, _, _, quantBlocks_ok hok hq, hrest.cons hok hblock⟩

theorem quantBlocks_overflow : ∀ {n pos k : Nat}, k < 32 * n → blockTraps s f sat (v (pos + k)) = true →
    (∀ j, j < k → blockTraps s f sat (v (pos + j)) = false) →
    quantBlocks s.user.oft sat f n pos ((List.range' pos (32 * n)).map v) = .error (pos + k)
  | 0, _, _, hk, _, _ => absurd hk (Nat.not_lt_zero _)
  | n + 1, pos, k, hk, htrap, hbelow => by
    by_cases hfirst : k < 32
    · exact quantBlocks_trap (quantBlock_trap (x := fun k => v (pos + k)) hfirst htrap hbelow)
    · obtain ⟨j, rfl⟩ := Nat.exists_eq_add_of_le (not_lt.1 hfirst)
      obtain ⟨scale, codes, fl, hok, -⟩ := quantBlock_codes (s := s) (f := f) (sat := sat) (x := fun k => v (pos + k))
        fun i hi => hbelow i (by omega)
      rw [← Nat.add_assoc] at htrap ⊢
      refine quantBlocks_error hok (quantBlocks_overflow (by omega) htrap fun i hi => ?_)
      rw [Nat.add_assoc]
      exact hbelow (32 + i) (by omega)

end

/-! ## The operands of tcvt (R174, R179, R205) -/

theorem physTile_le {s : State} {f span : Nat} (h : tilesInCount s f span = true) (_ : 0 < span) :
    physTile s f + span ≤ 16 := by
  have hle : f + span ≤ usableTiles s := of_decide_eq_true h
  unfold usableTiles at hle
  unfold physTile
  split at hle
  next hp => rw [if_pos hp]; omega
  next hp => rw [if_neg hp]; exact hle

theorem destSpan_pos (a : VT) : 0 < destSpan a := Nat.two_pow_pos _

theorem withScales_pos (f : Nat) {span : Nat} (h : 0 < span) : 0 < withScales f span := by
  unfold withScales
  split <;> omega

/-- A valid shape fits its registers. -/
theorem Shape.valid_bits {h : Shape} {span : Nat} (hv : h.valid span = true) :
    h.rows * h.cols * fmtWidth h.fmt ≤ 65536 * span := by
  simp only [Shape.valid, Bool.and_eq_true, decide_eq_true_eq] at hv
  obtain ⟨⟨-, hrow⟩, hbytes⟩ := hv
  have hdvd : 8 ∣ h.rows * h.cols * fmtWidth h.fmt := by
    rw [Nat.mul_assoc]; exact Dvd.dvd.mul_left (Nat.dvd_of_mod_eq_zero hrow) _
  have heq := Nat.div_mul_cancel hdvd
  rw [Shape.bytes] at hbytes
  omega

/-- What the checks of tcvt leave: equal shapes, and a destination that holds its elements within the file. -/
structure CvtFits (s : State) (a : VT) : Prop where
  rows : (cvtSrc s a).rows = (cvtDst s a).rows
  cols : (cvtSrc s a).cols = (cvtDst s a).cols
  bits : (cvtDst s a).rows * (cvtDst s a).cols * fmtWidth (cvtDst s a).fmt ≤ 65536 * destSpan a
  inFile : physTile s a.d.toNat + withScales (cvtDst s a).fmt (destSpan a) ≤ 16
  blocks : isBlockFmt (cvtDst s a).fmt = true → destSpan a = 1 ∧ (cvtDst s a).cols % 32 = 0

theorem cvtFits {s : State} {a : VT} (hi : tcvtIllegal a s = false) (hb : tcvtBad a s = false) : CvtFits s a := by
  simp only [tcvtBad, Bool.or_eq_false_iff, Bool.not_eq_false', bne_eq_false_iff_eq] at hb
  obtain ⟨⟨⟨⟨⟨⟨⟨-, hcount⟩, -⟩, hvalid⟩, hrows⟩, hcols⟩, hblock⟩, -⟩ := hb
  have hfile := physTile_le hcount (withScales_pos _ (destSpan_pos a))
  refine ⟨hrows, hcols, Shape.valid_bits hvalid, hfile, fun hf => ⟨?_, by simpa [hf] using hblock⟩⟩
  have hexists : tileExists s a.d.toNat = true := by
    have := withScales_pos (cvtDst s a).fmt (destSpan_pos a)
    exact decide_eq_true (by omega)
  simp only [tcvtIllegal, Bool.or_eq_false_iff, hexists, hf, Bool.true_and] at hi
  have hw : a.w = 0 := by simpa using hi.2.2
  rw [destSpan, hw]
  rfl

/-! ## tcvt (R205) -/

/-- Value k of the source tile after the steps of MOD. -/
def tcvtValue (s : State) (a : VT) (k : Nat) : Num :=
  modSteps (effOf s).mods (decodeScaled (cvtSrc s a).fmt (getM s (physTile s (a.s1.toNat + 1))).val.toNat (cvtSrc s a).cols
    (k / (cvtSrc s a).cols) (k % (cvtSrc s a).cols) (elemAt (fmtWidth (cvtSrc s a).fmt) (tval s a.s1.toNat (cvtSrc s a).span) k))

/-- Element k of a `tcvt` to a format without scales. -/
def tcvtElem (s : State) (a : VT) (k : Nat) : Option (Nat × Flags) :=
  convertElem s.user.oft (effOf s).mods.sat (tcvtValue s a k) (cvtDst s a).fmt (effOf s).rm

/-- The elements of the destination. -/
def tcvtCount (s : State) (a : VT) : Nat := (cvtDst s a).rows * (cvtDst s a).cols

section
variable {a : VT} {s : State} (fits : CvtFits s a)
include fits

theorem cvtValues_eq : cvtValues s a = (List.range' 0 (tcvtCount s a)).map (tcvtValue s a) := by
  rw [cvtValues, tcvtCount, ← fits.rows, ← fits.cols, ← List.range_eq_range']
  rfl

theorem tcvtResult_plain (h : isBlockFmt (cvtDst s a).fmt = false) : tcvtResult a s =
    (partCodes (tcvtElem s a) (List.range (tcvtCount s a))).map fun r => (packElems (fmtWidth (cvtDst s a).fmt) r.1, 0, r.2) := by
  rw [tcvtResult, h, if_neg Bool.false_ne_true, cvtValues_eq fits, convertAll_eq_partCodes, List.range_eq_range']
  change _ = (partCodes (fun k => convertElem s.user.oft (effOf s).mods.sat (tcvtValue s a k) (cvtDst s a).fmt (effOf s).rm)
    (List.range' 0 (tcvtCount s a))).map _
  cases partCodes _ (List.range' 0 (tcvtCount s a)) <;> rfl

section
variable (h : isBlockFmt (cvtDst s a).fmt = true)
include h

theorem tcvtCount_blocks : 32 * (tcvtCount s a / 32) = tcvtCount s a :=
  Nat.mul_div_cancel' (Dvd.dvd.mul_left (Nat.dvd_of_mod_eq_zero (fits.blocks h).2) _)

theorem tcvtResult_blocks : tcvtResult a s =
    (quantBlocks s.user.oft (effOf s).mods.sat (cvtDst s a).fmt (tcvtCount s a / 32) 0
      ((List.range' 0 (32 * (tcvtCount s a / 32))).map (tcvtValue s a))).map fun q =>
        (packElems (fmtWidth (cvtDst s a).fmt) q.2.1, packElems (scaleWidth (cvtDst s a).fmt) q.1, q.2.2) := by
  rw [tcvtCount_blocks fits h, tcvtResult, h, if_pos rfl, cvtValues_eq fits]
  change _ = (quantBlocks _ _ _ ((cvtDst s a).rows * (cvtDst s a).cols / 32) 0 _).map _
  cases quantBlocks _ _ _ ((cvtDst s a).rows * (cvtDst s a).cols / 32) 0 _ <;> rfl

end
end

/-- The tile of a `tcvt` and, for a format with scales, its companion, written. -/
def cvtWrites (s : State) (a : VT) (tile scales : Nat) : State :=
  let u := writeTile (physTile s a.d.toNat) (destSpan a) tile s
  if isBlockFmt (cvtDst s a).fmt then writeTile (physTile s a.d.toNat + 1) 1 scales u else u

section
variable {a : VT} {s : State} (hp : prefixOk true (fun e => e.p.b == 31) s = true) (hi : tcvtIllegal a s = false)
  (hb : tcvtBad a s = false)
  (hr : readyWithPrefix s (tileRegs s a.s1.toNat (withScales (cvtSrc s a).fmt (cvtSrc s a).span)) [] = true)

include hr in
theorem tcvt_sources_ready :
    checkSources [mSource s a.s1.toNat (withScales (cvtSrc s a).fmt (cvtSrc s a).span) a.e1] s = none := by
  obtain ⟨he, hs, -⟩ := readyWithPrefix_iff.1 hr
  refine checkSources_none he fun src hsrc r hr => hs r ?_
  obtain rfl := List.mem_singleton.1 hsrc
  exact hr

theorem checkTileDest_none {f : State → List RegName} {base span : Nat} (hf : f s = mGroup base span)
    (h : tilesFree s base span = true) : checkTileDest f s = none := by
  rw [tilesFree, List.all_eq_true] at h
  refine if_neg ?_
  rw [hf, Bool.not_eq_true, List.any_eq_false]
  intro r hr
  have := h r hr
  cases r <;> simp_all

include hp hi hb hr

theorem tcvt_traps {k : Nat} (h : tcvtResult a s = .error k) : exec (.tcvt a) s = .next (trap 27 (BitVec.ofNat 64 k) s) := by
  apply instr_eq_stop
  rw [firstStop_cons_none (checkPrefix_none _ hp), firstStop_cons_none (c := illegalIf _ _) (stopIf_none hi),
    firstStop_cons_none (c := arrayIf _ _) (stopIf_none hb),
    firstStop_cons_none
      (c := fun s => checkSources [mSource s a.s1.toNat (withScales (cvtSrc s a).fmt (cvtSrc s a).span) a.e1] s)
      (tcvt_sources_ready hr)]
  exact firstStop_cons_some (checkConvert_error h)

variable (hfree : tilesFree s (physTile s a.d.toNat) (withScales (cvtDst s a).fmt (destSpan a)) = true)
include hfree

theorem tcvt_converts {tile scales : Nat} {fl : Flags} (h : tcvtResult a s = .ok (tile, scales, fl)) :
    exec (.tcvt a) s = .next (retire (raiseFlags fl (cvtWrites s a tile scales))) := by
  have e : exec (.tcvt a) s = execTcvt a s := rfl
  rw [e, execTcvt, instr_eq_next, h]
  · rfl
  · rw [firstStop_cons_none (checkPrefix_none _ hp), firstStop_cons_none (c := illegalIf _ _) (stopIf_none hi),
      firstStop_cons_none (c := arrayIf _ _) (stopIf_none hb),
      firstStop_cons_none
        (c := fun s => checkSources [mSource s a.s1.toNat (withScales (cvtSrc s a).fmt (cvtSrc s a).span) a.e1] s)
        (tcvt_sources_ready hr),
      firstStop_cons_none (checkConvert_ok h)]
    exact firstStop_cons_none (checkTileDest_none rfl hfree)

end

/-- What an instruction leaves that changes tile registers, raises flags and retires. -/
theorem retire_tiles {s u : State} (hu : u = { s with hart := { s.hart with m := u.hart.m } }) (fl : Flags) :
    let t := retire (raiseFlags fl u)
    (∀ n, getM t n = getM u n) ∧ (∀ base n, tileValue t base n = tileValue u base n) ∧
      SameMemory s t ∧ t.user.vflags = s.user.vflags ||| t.user.vflags ∧ fl ||| t.user.vflags = t.user.vflags ∧
      t = { s with
        hart := { retiredHart s with m := t.hart.m }, mach := retiredMach s
        user := { s.user with vflags := t.user.vflags } } := by
  have regs : ChangesRegs s (raiseFlags fl u) := by unfold ChangesRegs; rw [hu]; rfl
  have hv : (retire (raiseFlags fl u)).user.vflags = s.user.vflags ||| fl := by rw [retire_user, raiseFlags_vflags, hu]
  have hm : (retire (raiseFlags fl u)).hart.m = u.hart.m := retire_hart_m _
  refine ⟨getM_congr hm, tileValue_congr hm, fun k => ?memory, ?kept, ?raised, ?rest⟩
  case memory => rw [retire_mem, raiseFlags_mem, hu]
  case kept => rw [hv]; ext i; simp
  case raised => rw [hv]; exact or_or_eq_of_or_eq (BitVec.or_self) _
  case rest => rw [retire_of_changesRegs regs, hu]; rfl

theorem or_eq_trans {f g h : Flags} (hfg : f ||| g = g) (hgh : g ||| h = h) : f ||| h = h := by
  rw [← hgh, ← BitVec.or_assoc, hfg]

/-- A tile and its scale companion, written one after the other. -/
theorem writeTile_pair (s : State) {d tile scales : Nat} (hd : d + 2 ≤ 16) (htile : tile < 2 ^ 65536) :
    let u := writeTile (d + 1) 1 scales (writeTile d 1 tile s)
    tileValue u d 1 = tile ∧ getM u (d + 1) = { val := BitVec.ofNat 65536 scales, st := .full } ∧
      u = { s with hart := { s.hart with m := u.hart.m } } := by
  intro u
  have hother : getM u d = getM (writeTile d 1 tile s) d := by
    rw [getM_writeTile (d + 1) 1 scales _ d (by omega), if_neg (by omega)]
  refine ⟨?tile, ?companion, ?frame⟩
  case tile =>
    rw [← tileValue_writeTile s (base := d) (n := 1) (by omega) htile, tileValue_eq_runValue, tileValue_eq_runValue]
    simp only [runValue, hother]
  case companion =>
    rw [getM_writeTile (d + 1) 1 scales _ (d + 1) (by omega), if_pos ⟨le_rfl, by omega⟩, Nat.sub_self, Nat.mul_zero, pow_zero,
      Nat.div_one]
  case frame => rfl

theorem cvtWrites_plain {s : State} {a : VT} (h : isBlockFmt (cvtDst s a).fmt = false) (tile scales : Nat) :
    cvtWrites s a tile scales = writeTile (physTile s a.d.toNat) (destSpan a) tile s := by
  rw [cvtWrites, h]; rfl

section
variable {s : State} {a : VT} (fits : CvtFits s a) (h : isBlockFmt (cvtDst s a).fmt = true)
include fits h

theorem cvtWrites_blocks (tile scales : Nat) : cvtWrites s a tile scales =
    writeTile (physTile s a.d.toNat + 1) 1 scales (writeTile (physTile s a.d.toNat) 1 tile s) := by
  rw [cvtWrites, h, (fits.blocks h).1]; rfl

/-- The packed codes fit the tile, and the packed scales fit the companion. -/
theorem packed_blocks {sat : Bool} {v : Nat → Num} {scales codes : List Nat}
    (hq : BlocksQuantised (cvtDst s a).fmt sat v (tcvtCount s a / 32) scales codes) :
    packElems (fmtWidth (cvtDst s a).fmt) codes < 2 ^ (tcvtCount s a * fmtWidth (cvtDst s a).fmt) ∧
      packElems (fmtWidth (cvtDst s a).fmt) codes < 2 ^ 65536 ∧ packElems (scaleWidth (cvtDst s a).fmt) scales < 2 ^ 65536 := by
  obtain ⟨hscales, hcodes, -⟩ := hq
  have hbits : tcvtCount s a * fmtWidth (cvtDst s a).fmt ≤ 65536 := by
    have := fits.bits
    rwa [(fits.blocks h).1] at this
  have htile : packElems (fmtWidth (cvtDst s a).fmt) codes < 2 ^ (tcvtCount s a * fmtWidth (cvtDst s a).fmt) := by
    rw [← tcvtCount_blocks fits h, ← hcodes]; exact packElems_lt _ codes
  refine ⟨htile, htile.trans_le (Nat.pow_le_pow_right (by decide) hbits), (packElems_lt _ scales).trans_le ?_⟩
  refine Nat.pow_le_pow_right (by decide) ?_
  have hscale : scaleWidth (cvtDst s a).fmt ≤ 32 := by unfold scaleWidth; split <;> decide
  have hwidth : 4 ≤ fmtWidth (cvtDst s a).fmt := by
    have := fmtWidth_block h
    omega
  calc scales.length * scaleWidth (cvtDst s a).fmt ≤ tcvtCount s a / 32 * 32 := Nat.mul_le_mul hscales.le hscale
    _ ≤ tcvtCount s a * 4 := by omega
    _ ≤ 65536 := (Nat.mul_le_mul_left _ hwidth).trans hbits

end

section
variable {a : VT} {s : State} (hp : prefixOk true (fun e => e.p.b == 31) s = true) (hi : tcvtIllegal a s = false)
  (hb : tcvtBad a s = false)
  (hr : readyWithPrefix s (tileRegs s a.s1.toNat (withScales (cvtSrc s a).fmt (cvtSrc s a).span)) [] = true)
include hp hi hb hr

/-- Whether element k stops a `tcvt`. -/
theorem tcvt_overflows {k : Nat} (hk : k < tcvtCount s a)
    (hstop : (if isBlockFmt (cvtDst s a).fmt then blockTraps s (cvtDst s a).fmt (effOf s).mods.sat (tcvtValue s a k)
      else (tcvtElem s a k).isNone) = true)
    (hbelow : ∀ j, j < k → (if isBlockFmt (cvtDst s a).fmt then
      blockTraps s (cvtDst s a).fmt (effOf s).mods.sat (tcvtValue s a j) else (tcvtElem s a j).isNone) = false) :
    exec (.tcvt a) s = .next (trap 27 (BitVec.ofNat 64 k) s) := by
  have fits := cvtFits hi hb
  refine tcvt_traps hp hi hb hr ?_
  cases hblock : isBlockFmt (cvtDst s a).fmt with
  | true =>
    simp only [hblock, if_true] at hstop hbelow
    have hcount := tcvtCount_blocks fits hblock
    rw [tcvtResult_blocks fits hblock, quantBlocks_overflow (k := k) (by omega) (by rwa [Nat.zero_add])
      fun j hj => by rw [Nat.zero_add]; exact hbelow j hj]
    rw [Nat.zero_add]
    rfl
  | false =>
    simp only [hblock, Bool.false_eq_true, if_false] at hstop hbelow
    rw [tcvtResult_plain fits hblock, partCodes_range_error hk (Option.isNone_iff_eq_none.1 hstop)
      fun j hj => by simpa using hbelow j hj]
    rfl

variable (hfree : tilesFree s (physTile s a.d.toNat) (withScales (cvtDst s a).fmt (destSpan a)) = true)
include hfree

theorem tcvt_plain_retires (hplain : isBlockFmt (cvtDst s a).fmt = false)
    (h : ∀ k, k < tcvtCount s a → (tcvtElem s a k).isSome = true) :
    let w := fmtWidth (cvtDst s a).fmt
    let out (t : State) : Nat := tileValue t (physTile s a.d.toNat) (destSpan a)
    ∃ t, exec (.tcvt a) s = .next t ∧
      (SameMemory s t ∧ out t < 2 ^ (tcvtCount s a * w) ∧ t.user.vflags = s.user.vflags ||| t.user.vflags ∧
        t = { s with
          hart := { retiredHart s with m := t.hart.m }, mach := retiredMach s
          user := { s.user with vflags := t.user.vflags } }) ∧
      ∀ k q, k < tcvtCount s a → tcvtElem s a k = some q →
        elemAt w (out t) k = q.1 % 2 ^ w ∧ q.2 ||| t.user.vflags = t.user.vflags := by
  have fits := cvtFits hi hb
  have hfile := fits.inFile
  rw [withScales, hplain, if_neg Bool.false_ne_true] at hfile
  obtain ⟨codes, fl, hok, hlt, hcodes⟩ := packed_codes (fmtWidth (cvtDst s a).fmt) h
  have hres : tcvtResult a s = .ok (packElems (fmtWidth (cvtDst s a).fmt) codes, 0, fl) := by
    rw [tcvtResult_plain fits hplain, hok]; rfl
  have hexec := tcvt_converts hp hi hb hr hfree hres
  rw [cvtWrites_plain hplain] at hexec
  obtain ⟨-, htile, hmem, hkept, hraised, hrest⟩ := retire_tiles
    (writeTile_eq (physTile s a.d.toNat) (destSpan a) (packElems (fmtWidth (cvtDst s a).fmt) codes) s) fl
  have hvalue := (htile _ _).trans (tileValue_writeTile s hfile (hlt.trans_le (Nat.pow_le_pow_right (by decide) fits.bits)))
  refine ⟨_, hexec, ⟨hmem, hvalue.trans_lt hlt, hkept, hrest⟩, fun k q hk hq => ?_⟩
  obtain ⟨hcode, hflag⟩ := hcodes k q hk hq
  exact ⟨(congrArg (elemAt _ · k) hvalue).trans hcode, or_eq_trans hflag hraised⟩

theorem tcvt_blocks_retires (hblock : isBlockFmt (cvtDst s a).fmt = true)
    (h : ∀ k, k < tcvtCount s a → blockTraps s (cvtDst s a).fmt (effOf s).mods.sat (tcvtValue s a k) = false) :
    let f := (cvtDst s a).fmt
    let out (t : State) : Nat := tileValue t (physTile s a.d.toNat) (destSpan a)
    ∃ t, exec (.tcvt a) s = .next t ∧
      (SameMemory s t ∧ out t < 2 ^ (tcvtCount s a * fmtWidth f) ∧ t.user.vflags = s.user.vflags ||| t.user.vflags ∧
        t = { s with
          hart := { retiredHart s with m := t.hart.m }, mach := retiredMach s
          user := { s.user with vflags := t.user.vflags } }) ∧
      regState t (.m (physTile s a.d.toNat + 1)) = .full ∧ ∀ b, b < tcvtCount s a / 32 →
        Quantised f (effOf s).mods.sat (fun k => tcvtValue s a (32 * b + k))
          (elemAt (scaleWidth f) (getM t (physTile s a.d.toNat + 1)).val.toNat b)
          (fun k => elemAt (fmtWidth f) (out t) (32 * b + k)) := by
  have fits := cvtFits hi hb
  obtain ⟨hspan, -⟩ := fits.blocks hblock
  have hfile := fits.inFile
  rw [withScales, hblock, if_pos rfl] at hfile
  have hcount := tcvtCount_blocks fits hblock
  obtain ⟨scales, codes, fl, hok, hquant⟩ := quantBlocks_quantised (s := s) (f := (cvtDst s a).fmt)
    (sat := (effOf s).mods.sat) (v := tcvtValue s a) (n := tcvtCount s a / 32) (pos := 0) fun k hk => by
      rw [Nat.zero_add]; exact h k (by omega)
  obtain ⟨htile, htile', hcomp⟩ := packed_blocks fits hblock hquant
  obtain ⟨-, -, hquant⟩ := hquant
  simp only [Nat.zero_add] at hquant
  have hres : tcvtResult a s =
      .ok (packElems (fmtWidth (cvtDst s a).fmt) codes, packElems (scaleWidth (cvtDst s a).fmt) scales, fl) := by
    rw [tcvtResult_blocks fits hblock, hok]; rfl
  have hexec := tcvt_converts hp hi hb hr hfree hres
  rw [cvtWrites_blocks fits hblock] at hexec
  obtain ⟨htileReg, hcompReg, hu⟩ := writeTile_pair s hfile htile'
  obtain ⟨hreg, hvalue, hmem, hkept, -, hrest⟩ := retire_tiles hu fl
  have hout := (hvalue (physTile s a.d.toNat) 1).trans htileReg
  rw [hspan]
  refine ⟨_, hexec, ⟨hmem, hout.trans_lt htile, hkept, hrest⟩, ?full, fun b hb => ?block⟩
  case full => exact congrArg Reg.st ((hreg _).trans hcompReg)
  case block =>
    obtain ⟨scale, hscale, hlt, hblock⟩ := hquant b hb
    rw [hreg, hcompReg]
    dsimp only
    rw [hout, BitVec.toNat_ofNat, Nat.mod_eq_of_lt hcomp, elemAt_packElems _ hscale, Nat.mod_eq_of_lt hlt]
    exact hblock _ fun k e _ he => elemAt_packElems _ he

end

/-! ## Conversions (R169 to R171, R205) -/

/-- Settles O27: `vcvt`, `vdqblk`, `vqblk` and `tcvt`, each by what it leaves where every element has a result and by the
element at which it stops. -/
theorem conversionsRetireOrTrap : Obligations.ConversionsRetireOrTrap := by
  refine ⟨fun a s hwf hp => ?vcvt, fun a s hwf hp hr => ?vdqblk, fun a s _ hp hr => ?vqblk,
    fun a s hp hi hb hr hfree => ?tcvt⟩
  case vcvt =>
    intro e wa wd n nd conv hr
    have hna : cvtRegs a e wa = (n * wa + 511) / 512 := cvtRegs_eq a e wa
    have hnd : cvtRegs a e wd = nd := cvtRegs_eq a e wd
    rw [← hna, ← hnd] at hr
    have active {k : Nat} (h : activeAt s a wd k = true) : cvtElem s a e k = conv k := if_pos h
    have inactive {k : Nat} (h : activeAt s a wd k = false) : cvtElem s a e k = some (velem s a.d a wd k, 0) :=
      if_neg (by rw [h]; exact Bool.false_ne_true)
    have isSome {k : Nat} (h : activeAt s a wd k = true → (conv k).isSome = true) : (cvtElem s a e k).isSome = true := by
      cases hk : activeAt s a wd k with
      | true => rw [active hk]; exact h hk
      | false => rw [inactive hk]; rfl
    refine ⟨fun h => ?_, fun k hk hact hnone hbelow => ?_⟩
    · obtain ⟨t, hexec, hret, hlt, hcodes⟩ := vcvt_retires hp hr hwf fun k hk => isSome (h k hk)
      rw [← hnd]
      refine ⟨t, hexec, hret, hlt, fun k hk => ⟨fun hk' => ?_, fun q hk' hq => hcodes k q hk ((active hk').trans hq)⟩⟩
      exact (hcodes k _ hk (inactive hk')).1.trans (Nat.mod_eq_of_lt (elemAt_lt _ _ _))
    · exact vcvt_overflows hp hr hk ((active hact).trans hnone) fun j hj => isSome (hbelow j hj)
  case vdqblk => exact ⟨vdqblk_retires hp hr hwf, fun k => vdqblk_overflows hp hr⟩
  case vqblk => exact ⟨vqblk_retires hp hr, fun k => vqblk_overflows hp hr⟩
  case tcvt =>
    refine ⟨fun hplain h => ?plain, fun hblock h => ?blocks, fun k => tcvt_overflows hp hi hb hr⟩
    case plain =>
      exact tcvt_plain_retires hp hi hb hr hfree hplain fun k hk =>
        Option.isNone_eq_false_iff.1 ((if_neg (by rw [hplain]; decide)).symm.trans (h k hk))
    case blocks =>
      exact tcvt_blocks_retires hp hi hb hr hfree hblock fun k hk => (if_pos hblock).symm.trans (h k hk)

end Sys2Proof.Machine
end

section
/-!
PROOF. Returns from traps (R41, R100, R111, R154).
-/

namespace Sys2Proof.Machine

/-! ## What a return leaves -/

/-- The return tests the end of a loop at its instruction, and leaves memory and every register as they were. -/
def Returned (epc : Word) (s t : State) : Prop :=
  SameMemory s t ∧ t.hart.x = s.hart.x ∧ t.hart.v = s.hart.v ∧ t.hart.m = s.hart.m ∧
    t.hart.loop0 = (endTest epc s).2.hart.loop0 ∧ t.hart.loop1 = (endTest epc s).2.hart.loop1

theorem returned_endTest (epc : Word) (s : State) : Returned epc s (endTest epc s).2 := by
  rw [Returned, endTest_state]
  exact ⟨fun _ => rfl, rfl, rfl, rfl, rfl, rfl⟩

theorem checkPriv_none {s : State} {ok : State → Bool} (i : Instr) (h : ok s = true) : checkPriv i ok s = none :=
  stopIf_none (by simp [h])

/-! ## mret (R100, R111) -/

theorem exec_mret {s : State} (hp : prefixPending s = false) (hpriv : s.hart.priv = .machine) :
    exec .mret s = .next (returnM s) := by
  apply instr_eq_next
  rw [firstStop_cons_none (noPrefix_none .mret hp), firstStop_cons_none (checkPriv_none .mret (by simp [hpriv]))]
  rfl

theorem returnM_returned (s : State) : Returned s.mach.mepc s (returnM s) := by
  unfold returnM
  dsimp only
  split <;> exact returned_endTest s.mach.mepc s

/-- MPIE goes back to MIE, and the status bits of S-mode stay. -/
theorem returnM_status (s : State) :
    (returnM s).mach.status.mie = s.mach.status.mpie ∧ (returnM s).mach.status.mpie = true ∧
      (returnM s).mach.status.mpp = .user ∧ (returnM s).mach.status.sie = s.mach.status.sie ∧
      (returnM s).mach.status.spie = s.mach.status.spie ∧ (returnM s).mach.status.spp = s.mach.status.spp := by
  unfold returnM
  dsimp only
  split <;> exact ⟨rfl, rfl, rfl, rfl, rfl, rfl⟩

/-- MPRV stays set only where M-mode goes on. -/
theorem returnM_mprv {s : State} (h : s.mach.status.mpp ≠ .machine ∨ s.sup.mdfrom = true) :
    (returnM s).mach.status.mprv = false := by
  have value : (returnM s).mach.status.mprv = (s.mach.status.mprv && s.mach.status.mpp == .machine && !s.sup.mdfrom) := by
    unfold returnM
    dsimp only
    split <;> rfl
  rw [value]
  rcases h with hmpp | hmdfrom
  · simp [hmpp]
  · simp [hmdfrom]

/-- With MDFROM = 0 the machine goes on at mepc, or at the start of the loop that ends here, in the mode MPP. -/
theorem returnM_resumes {s : State} (h : s.sup.mdfrom = false) :
    (returnM s).hart.priv = s.mach.status.mpp ∧ (returnM s).hart.pc = (endTest s.mach.mepc s).1 ∧
      (returnM s).sup = { s.sup with dfrom := s.sup.dfrom && s.mach.status.mpp != .user } := by
  unfold returnM
  dsimp only
  rw [if_neg (by simp [h]), endTest_state]
  exact ⟨rfl, rfl, by simp [resume, h]⟩

/-- With MDFROM = 1 the dispatcher takes control. -/
theorem returnM_dispatches {s : State} (h : s.sup.mdfrom = true) :
    (returnM s).hart.disp = true ∧ (returnM s).hart.priv = .user ∧ (returnM s).sup = { s.sup with mdfrom := false } := by
  unfold returnM
  dsimp only
  rw [if_pos h, endTest_state]
  exact ⟨rfl, rfl, rfl⟩

/-! ## sret (R41, R100, R111) -/

theorem exec_sret {s : State} (hp : prefixPending s = false)
    (h : s.hart.priv = .machine ∨ (s.hart.priv = .supervisor ∧ s.mach.status.tsr = false)) :
    exec .sret s = .next (returnS s) := by
  have allowed : (s.hart.priv == .machine || s.hart.priv == .supervisor && !s.mach.status.tsr) = true := by
    rcases h with hm | ⟨hs, ht⟩
    · simp [hm]
    · simp [hs, ht]
  apply instr_eq_next
  rw [firstStop_cons_none (noPrefix_none .sret hp), firstStop_cons_none (checkPriv_none .sret allowed)]
  rfl

theorem returnS_returned (s : State) : Returned s.sup.sepc s (returnS s) := by
  unfold returnS
  dsimp only
  split <;> exact returned_endTest s.sup.sepc s

theorem returnS_status (s : State) : (returnS s).mach.status =
    { s.mach.status with sie := s.mach.status.spie, spie := true, spp := false, mprv := false } := by
  unfold returnS
  dsimp only
  split <;> rfl

/-- The saved FMT and MOD words are pending again, and are saved no more (R41). -/
theorem returnS_prefix (s : State) :
    (returnS s).hart.pend =
      { f := s.sup.spf, m := s.sup.spm, fv := s.sup.spfv, mv := s.sup.spmv
        first := firstPrefix s.sup.spfirst s.sup.sepc s.sup.spfv s.sup.spmv } ∧
      (returnS s).sup.spfv = false ∧ (returnS s).sup.spmv = false := by
  unfold returnS
  dsimp only
  split <;> exact ⟨rfl, rfl, rfl⟩

/-- With DSPGO = 0 the machine goes on at sepc, or at the start of the loop that ends here, in the mode SPP. -/
theorem returnS_resumes {s : State} (h : s.sup.dspgo = false) :
    (returnS s).hart.priv = (if s.mach.status.spp then .supervisor else .user) ∧
      (returnS s).hart.pc = (endTest s.sup.sepc s).1 ∧
      (s.mach.status.spp = false → (returnS s).sup.dfrom = false ∧ (returnS s).sup.mdfrom = false) := by
  unfold returnS
  dsimp only
  rw [if_neg (by simp [h])]
  exact ⟨rfl, rfl, fun hu => by simp [resume, hu]⟩

/-- With DSPGO = 1 the dispatcher takes control. -/
theorem returnS_dispatches {s : State} (h : s.sup.dspgo = true) :
    (returnS s).hart.disp = true ∧ (returnS s).hart.priv = .user ∧ (returnS s).sup.dspgo = false := by
  unfold returnS
  dsimp only
  rw [if_pos h]
  exact ⟨rfl, rfl, rfl⟩

/-- Settles O10: each return by what it leaves, what it gives back, and where the machine goes on. -/
theorem trapReturns : Obligations.TrapReturns := by
  refine ⟨fun s hp hpriv => ⟨returnM s, exec_mret hp hpriv, ?mret⟩,
    fun s hp hpriv => ⟨returnS s, exec_sret hp hpriv, ?sret⟩⟩
  case mret =>
    obtain ⟨hmem, hx, hv, hm, hloop0, hloop1⟩ := returnM_returned s
    obtain ⟨hmie, hmpie, hmpp, hsie, hspie, hspp⟩ := returnM_status s
    exact ⟨hmie, hmpie, hmpp, hsie, hspie, hspp, returnM_mprv, hmem, hx, hv, hm, hloop0, hloop1, returnM_resumes,
      returnM_dispatches⟩
  case sret =>
    obtain ⟨hmem, hx, hv, hm, hloop0, hloop1⟩ := returnS_returned s
    obtain ⟨hpend, hspfv, hspmv⟩ := returnS_prefix s
    have first (a : Word) (h : s.sup.spfirst = some (s.sup.sepc, a)) : (returnS s).hart.pend.first = a := by
      rw [hpend, h]
      exact if_pos rfl
    exact ⟨returnS_status s, hmem, hx, hv, hm, congrArg Pending.f hpend, congrArg Pending.m hpend, congrArg Pending.fv hpend,
      congrArg Pending.mv hpend, hspfv, hspmv, hloop0, hloop1, returnS_resumes, first, returnS_dispatches⟩

end Sys2Proof.Machine
end

section
/-!
PROOF. What shared operations leave: the table of actors, packets, and records of errors.
-/

namespace Sys2Proof.Machine

/-! ## Tables -/

/-- A put is seen at its own number alone: whether it replaces an entry, stands in front of one, or comes later. -/
theorem Tab.find?_put {α : Type} (n : Nat) (a : α) (k : Nat) :
    ∀ t : Tab α, Tab.find? (Tab.put t n a) k = if k = n then some a else Tab.find? t k
  | [] => by
    by_cases hk : k = n
    · simp [Tab.put, Tab.find?, hk]
    · simp [Tab.put, Tab.find?, hk, Ne.symm hk]
  | (j, v) :: rest => by
    have ih := Tab.find?_put n a k rest
    unfold Tab.put
    split
    next hreplaced => grind [Tab.find?]
    next hother =>
      split
      next hinserted => grind [Tab.find?]
      next hlater => grind [Tab.find?]

theorem actorAt_setActor (ix : Nat) (a : Actor) (s : State) (k : Nat) :
    actorAt (setActor ix a s) k = if k = ix then a else actorAt s k := by
  simp only [actorAt, setActor, Tab.getD, Tab.find?_put]
  split <;> rfl

theorem actorAt_updateActor_same (ix : Nat) (f : Actor → Actor) (s : State) :
    actorAt (updateActor ix f s) ix = f (actorAt s ix) := (actorAt_setActor _ _ _ _).trans (if_pos rfl)

theorem actorAt_updateActor_ne {ix k : Nat} (h : k ≠ ix) (f : Actor → Actor) (s : State) :
    actorAt (updateActor ix f s) k = actorAt s k := (actorAt_setActor _ _ _ _).trans (if_neg h)

theorem actorAt_congr {s t : State} (h : t.actors.table = s.actors.table) (ix : Nat) : actorAt t ix = actorAt s ix := by
  unfold actorAt; rw [h]

/-! ## Packets -/

/-- Only streams, ports and what is pending differ. -/
def OnlyPackets (s t : State) : Prop := t = { s with fab := t.fab, sched := t.sched }

theorem OnlyPackets.refl (s : State) : OnlyPackets s s := rfl

theorem OnlyPackets.trans {s t u : State} (h : OnlyPackets s t) (g : OnlyPackets t u) : OnlyPackets s u := by
  unfold OnlyPackets at *
  rw [h] at g
  exact g

theorem onlyPackets_foldl {α : Type} {f : State → α → State} (hf : ∀ s a, OnlyPackets s (f s a)) :
    ∀ (l : List α) (s : State), OnlyPackets s (l.foldl f s)
  | [], s => OnlyPackets.refl s
  | a :: l, s => (hf s a).trans (onlyPackets_foldl hf l (f s a))

theorem onlyPackets_enter (e : Entry) (s : State) : OnlyPackets s (enter e s) := rfl
theorem onlyPackets_setPort (k : Nat) (p : Port) (s : State) : OnlyPackets s (setPort k p s) := rfl
theorem onlyPackets_setOut (n : Nat) (ch : Channel) (st : Stream) (s : State) : OnlyPackets s (setOut n ch st s) := rfl
theorem onlyPackets_setInn (n : Nat) (ch : Channel) (st : Stream) (s : State) : OnlyPackets s (setInn n ch st s) := rfl

theorem onlyPackets_startTimer (n : Nat) (s : State) : OnlyPackets s (startTimer n s) := by
  unfold startTimer
  dsimp only
  split <;> rfl

theorem onlyPackets_pumpPort (k : Nat) (s : State) : OnlyPackets s (pumpPort k s) := by
  unfold pumpPort
  dsimp only
  split
  · exact OnlyPackets.refl s
  · exact ((onlyPackets_setPort _ _ _).trans
      (onlyPackets_foldl (fun t (g : Flit) => onlyPackets_startTimer (headerDst g.header) t) _ _)).trans (onlyPackets_enter _ _)

theorem onlyPackets_handFlits (a : Arrival) (ev : Instr) (k : Nat) (s : State) : OnlyPackets s (handFlits a ev k s) := by
  unfold handFlits
  dsimp only
  refine OnlyPackets.trans ?_ (onlyPackets_pumpPort _ _)
  rfl

theorem onlyPackets_leavePackets (pkg : Nat) (ch : Channel) : ∀ (n : Nat) (s : State), OnlyPackets s (leavePackets pkg ch n s)
  | 0, s => OnlyPackets.refl s
  | n + 1, s => by
    unfold leavePackets
    dsimp only
    split
    · exact OnlyPackets.refl s
    · split
      · exact OnlyPackets.refl s
      · split
        · exact OnlyPackets.refl s
        · exact ((onlyPackets_setOut _ _ _ _).trans (onlyPackets_handFlits _ _ _ _)).trans
            (onlyPackets_leavePackets pkg ch n _)

theorem onlyPackets_postOut (pkg : Nat) (ch : Channel) (kind : Nat) (pid : Pid) (ev : Instr) (x : Option (Channel × Nat))
    (y : Option PacketAnswer) (s : State) : OnlyPackets s (postOut pkg ch kind pid ev x y s) := by
  unfold postOut
  dsimp only
  exact ((onlyPackets_setOut _ _ _ _).trans (onlyPackets_enter _ _)).trans (onlyPackets_leavePackets _ _ _ _)

theorem onlyPackets_postIn (pkg : Nat) (ch : Channel) (kind : Nat) (pid : Pid) (ev : Instr) (x : Option (Channel × Nat))
    (y : Option PacketAnswer) (s : State) : OnlyPackets s (postIn pkg ch kind pid ev x y s) := by
  unfold postIn
  dsimp only
  exact (onlyPackets_setInn _ _ _ _).trans (onlyPackets_enter _ _)

/-- A step whose failure nobody is told of is handed to its agent, by packets or not at all. -/
theorem onlyPackets_postTo {ev : Instr} (h : ∀ d pkg s, failOutbound ev d pkg s = s) (pkg : Nat) (ch : Channel) (s : State) :
    OnlyPackets s (postTo pkg ch ev s) := by
  unfold postTo
  dsimp only
  split
  · exact onlyPackets_enter _ _
  · split
    · split
      · exact onlyPackets_postOut _ _ _ _ _ _ _ _
      · rw [h]
        exact OnlyPackets.refl s
    · split
      · exact onlyPackets_postIn _ _ _ _ _ _ _ _
      · exact onlyPackets_enter _ _

/-! ## Records of errors (R431) -/

/-- Only the host's side, the logs and the pending interrupts differ. -/
def OnlyHost (s t : State) : Prop := t = { s with mach := t.mach, host := t.host, ras := t.ras }

theorem OnlyHost.trans {s t u : State} (h : OnlyHost s t) (g : OnlyHost t u) : OnlyHost s u := by
  unfold OnlyHost at *
  rw [h] at g
  exact g

theorem onlyHost_logPackage (k l d n : Nat) (s : State) : OnlyHost s (logPackage k l d n s) := by
  unfold logPackage
  dsimp only
  split
  · rfl
  · split
    · split <;> split <;> rfl
    · rfl

theorem toNat_place (v lo : Nat) : (place v lo).toNat = v * 2 ^ lo % 2 ^ 64 := by
  rw [place, BitVec.toNat_ofNat, Nat.shiftLeft_eq]

/-- The kind of a record is in bits 63:56 (R431). -/
theorem logWord_kind {kind : Nat} (hk : kind < 256) (level detail location : Nat) :
    (logWord kind level detail location).toNat / 2 ^ 56 = kind := by
  have below (v lo : Nat) (h : v * 2 ^ lo < 2 ^ 56) : (place v lo).toNat >>> 56 = 0 := by
    rw [toNat_place, Nat.mod_eq_of_lt (by omega), Nat.shiftRight_eq_div_pow, Nat.div_eq_of_lt h]
  have top : (place (kind % 256) 56).toNat >>> 56 = kind := by
    rw [toNat_place, Nat.shiftRight_eq_div_pow]
    omega
  rw [← Nat.shiftRight_eq_div_pow]
  simp only [logWord, BitVec.toNat_or, Nat.shiftRight_or_distrib, top]
  rw [below (level % 8) 53 (by omega), below (detail % 65536) 32 (by omega), below (location % 2 ^ 32) 0 (by omega),
    Nat.or_zero, Nat.or_zero, Nat.or_zero]

/-- A record joins the log of a package that is this one and has room for it. -/
theorem logPackage_appends {s : State} {l : Nat} (hl : l ≠ 7) (hplace : s.sched.place = none)
    (hroom : s.ras.packageLog.length < 1024) (k d n : Nat) :
    (logPackage k l d n s).ras.packageLog = s.ras.packageLog ++ [newRecord s k l d n] := by
  unfold logPackage
  rw [if_neg (by simp [hplace]), if_pos hroom]
  dsimp only
  rw [if_neg hl]
  split <;> rfl

end Sys2Proof.Machine
end

section
/-!
PROOF. The end of a run on this hart (R102), and an actor that enters EXITING (R306, R379, R391).
-/

namespace Sys2Proof.Machine

/-! ## The steps of the end of a run -/

/-- What the end of a run leaves as it was: memory, the actors, the logs, and the CSRs of the supervisor. -/
def EndKeeps (s t : State) : Prop :=
  t.mem = s.mem ∧ t.actors = s.actors ∧ t.ras = s.ras ∧ t.sup = s.sup

theorem EndKeeps.trans {s t u : State} (h : EndKeeps s t) (g : EndKeeps t u) : EndKeeps s u := by
  obtain ⟨hmem, hactors, hras, hsup⟩ := h
  obtain ⟨gmem, gactors, gras, gsup⟩ := g
  exact ⟨gmem.trans hmem, gactors.trans hactors, gras.trans hras, gsup.trans hsup⟩

/-- A wait is withdrawn: the jobs of the hart stay, and so do the stores of its drain queue. -/
def Withdraws (s t : State) : Prop :=
  EndKeeps s t ∧ t.hart = s.hart ∧ t.off.jobs = s.off.jobs ∧ drainStores t = drainStores s

theorem Withdraws.refl (s : State) : Withdraws s s := ⟨⟨rfl, rfl, rfl, rfl⟩, rfl, rfl, rfl⟩

theorem Withdraws.trans {s t u : State} (h : Withdraws s t) (g : Withdraws t u) : Withdraws s u := by
  obtain ⟨hkeeps, hhart, hjobs, hstores⟩ := h
  obtain ⟨gkeeps, ghart, gjobs, gstores⟩ := g
  exact ⟨hkeeps.trans gkeeps, ghart.trans hhart, gjobs.trans hjobs, gstores.trans hstores⟩

theorem drainStores_cancelRequest (rto : ReplyTo) (s : State) : drainStores (cancelRequest rto s) = drainStores s := by
  simp only [drainStores, cancelRequest, List.filterMap_map]
  congr 1
  funext item
  cases item <;> rfl

theorem withdraws_cancelRequest (rto : ReplyTo) (s : State) : Withdraws s (cancelRequest rto s) :=
  ⟨⟨rfl, rfl, rfl, rfl⟩, rfl, rfl, drainStores_cancelRequest rto s⟩

theorem withdraws_cancelAll : ∀ (waits : List Job) (s : State),
    Withdraws s (waits.foldl (fun t j => cancelRequest (.job j.id 0) t) s)
  | [], s => Withdraws.refl s
  | j :: waits, s => (withdraws_cancelRequest (.job j.id 0) s).trans (withdraws_cancelAll waits _)

/-- The waits that can be withdrawn leave the list of jobs, and are withdrawn at their homes. -/
theorem withdraws_withdrawWaits (s : State) : Withdraws
    { s with off := { s.off with jobs := s.off.jobs.filter fun j => j.wait.isNone } } (withdrawWaits s) :=
  withdraws_cancelAll _ _

theorem dropUnretired_of_none {s : State} (h : s.hart.storesDone = 0) : dropUnretired s = s := if_pos h

theorem endKeeps_dropUnretired (s : State) : EndKeeps s (dropUnretired s) := by
  unfold dropUnretired
  split <;> exact ⟨rfl, rfl, rfl, rfl⟩

/-- The Array's part of the end of a run concerns no job, no store and no CSR of the hart. -/
theorem clearArray_eq (s : State) :
    clearArray s = { s with arr := (clearArray s).arr, sched := (clearArray s).sched } := by
  unfold clearArray releaseLease
  dsimp only
  split <;> rfl

theorem foldl_writeM_zero_eq (base : Nat) : ∀ (l : List Nat) (s : State),
    l.foldl (fun t i => writeM (base + i) 0 t) s =
      { s with hart := { s.hart with m := (l.foldl (fun t i => writeM (base + i) 0 t) s).hart.m } }
  | [], _ => rfl
  | i :: l, s => by
    rw [List.foldl_cons, foldl_writeM_zero_eq base l]
    rfl

theorem clearRegs_eq (s : State) : clearRegs s = { s with hart := (clearRegs s).hart, user := (clearRegs s).user } := by
  unfold clearRegs
  dsimp only
  rw [foldl_writeM_zero_eq]

/-- The run's registers, jobs, waits and Array commands are given up; its stores are left. -/
def giveUp (s : State) : State := clearRegs (clearArray (detachJobs (withdrawWaits s)))

theorem giveUp_off (s : State) :
    (giveUp s).off = { (withdrawWaits s).off with
      jobs := (withdrawWaits s).off.jobs.map fun j => { j with dest := .nothing } } := by
  rw [giveUp, clearRegs_eq, clearArray_eq]
  rfl

theorem drainStores_giveUp (s : State) : drainStores (giveUp s) = drainStores s := by
  obtain ⟨_, _, _, hstores⟩ := withdraws_withdrawWaits s
  refine Eq.trans ?_ hstores
  simp only [drainStores, giveUp_off]

theorem giveUp_jobs {s : State} : ∀ j ∈ (giveUp s).off.jobs, j.dest = .nothing ∧ j.wait = none := by
  intro j hj
  obtain ⟨_, _, hjobs, _⟩ := withdraws_withdrawWaits s
  rw [giveUp_off, hjobs] at hj
  obtain ⟨i, hi, rfl⟩ := List.mem_map.1 hj
  exact ⟨rfl, Option.isNone_iff_eq_none.1 (List.mem_filter.1 hi).2⟩

theorem endKeeps_giveUp (s : State) : EndKeeps s (giveUp s) := by
  obtain ⟨hkeeps, _⟩ := withdraws_withdrawWaits s
  refine EndKeeps.trans hkeeps ?_
  rw [giveUp, clearRegs_eq, clearArray_eq]
  exact ⟨rfl, rfl, rfl, rfl⟩

theorem giveUp_x (s : State) : (giveUp s).hart.x = Vector.replicate 32 (Reg.zero 64) := rfl
theorem giveUp_v (s : State) : (giveUp s).hart.v = Vector.replicate 32 (Reg.zero 512) := rfl

theorem drainStores_discardStores (s : State) : drainStores (discardStores s) = [] := by
  simp only [drainStores, discardStores, List.filterMap_eq_nil_iff, List.mem_filter]
  rintro item ⟨_, hkept⟩
  cases item with
  | store e => exact absurd hkept Bool.false_ne_true
  | _ => rfl

/-- A registration that a `colset` waits for is withdrawn. -/
def withdrawRegistration (s : State) : State := if s.hart.wait = .registration then cancelRequest .hart s else s

theorem withdraws_withdrawRegistration (s : State) : Withdraws s (withdrawRegistration s) := by
  unfold withdrawRegistration
  split
  · exact withdraws_cancelRequest .hart s
  · exact Withdraws.refl s

/-- The state in which the stores that are held are looked at. -/
def beforeDiscard (s : State) : State := giveUp (dropUnretired (withdrawRegistration s))

theorem endKeeps_beforeDiscard (s : State) : EndKeeps s (beforeDiscard s) := by
  obtain ⟨hkeeps, _⟩ := withdraws_withdrawRegistration s
  exact (hkeeps.trans (endKeeps_dropUnretired _)).trans (endKeeps_giveUp _)

theorem drainStores_beforeDiscard {s : State} (h : s.hart.storesDone = 0) : drainStores (beforeDiscard s) = drainStores s := by
  obtain ⟨_, hhart, _, hstores⟩ := withdraws_withdrawRegistration s
  rw [beforeDiscard, drainStores_giveUp, dropUnretired_of_none (by rw [hhart]; exact h), hstores]

/-- The dispatcher has control, and the hart waits for what is left of the run. -/
def awaitEnd (name : Word) (s : State) : State :=
  { s with
    act := ActCsrs.zero
    hart := { s.hart with disp := true, priv := .user, wait := .runEnd name, answer := .none, storesDone := 0
                          again := false, resv := none } }

theorem endRun_eq (s : State) : endRun s = awaitEnd s.act.name
    (if (beforeDiscard s).sup.dheld then discardStores (beforeDiscard s) else beforeDiscard s) := by
  unfold endRun awaitEnd beforeDiscard giveUp withdrawRegistration
  rfl

/-! ## The end of a run -/

theorem endsRun_endRun (s : State) : EndsRun s (endRun s) := by
  obtain ⟨_, _, _, hsup⟩ := endKeeps_beforeDiscard s
  have hjobs : ∀ j ∈ (beforeDiscard s).off.jobs, j.dest = .nothing ∧ j.wait = none := giveUp_jobs
  have hx : (beforeDiscard s).hart.x = Vector.replicate 32 (Reg.zero 64) := giveUp_x _
  have hv : (beforeDiscard s).hart.v = Vector.replicate 32 (Reg.zero 512) := giveUp_v _
  have hstores : s.hart.storesDone = 0 → drainStores (beforeDiscard s) = drainStores s := drainStores_beforeDiscard
  rw [endRun_eq, hsup]
  generalize beforeDiscard s = u at *
  cases hheld : s.sup.dheld with
  | true =>
    exact ⟨rfl, rfl, rfl, hx, hv, rfl, rfl, fun _ => drainStores_discardStores u,
      fun hnot => absurd (hheld.symm.trans hnot) (by decide), hjobs⟩
  | false =>
    exact ⟨rfl, rfl, rfl, hx, hv, rfl, (congrArg SupCsrs.dheld hsup).trans hheld,
      fun hyes => absurd (hheld.symm.trans hyes) (by decide), fun _ => hstores, hjobs⟩

theorem endRun_keeps (s : State) : (endRun s).mem = s.mem ∧ (endRun s).actors = s.actors ∧ (endRun s).ras = s.ras := by
  obtain ⟨hmem, hactors, hras, _⟩ := endKeeps_beforeDiscard s
  rw [endRun_eq]
  generalize beforeDiscard s = u at *
  split <;> exact ⟨hmem, hactors, hras⟩

/-- A later step that concerns neither the hart nor its off-core operations keeps the end of the run. -/
theorem endsRun_of_same_hart {s t u : State} (h : EndsRun s t) (hhart : u.hart = t.hart) (hact : u.act = t.act)
    (hsup : u.sup = t.sup) (hoff : u.off = t.off) : EndsRun s u := by
  unfold EndsRun drainStores at *
  rw [hhart, hact, hsup, hoff]
  exact h

/-! ## Supervisor records -/

/-- Only actors' records, streams, ports and what is pending differ. -/
def OnlyActors (s t : State) : Prop := t = { s with actors := t.actors, fab := t.fab, sched := t.sched }

theorem OnlyPackets.onlyActors {s t : State} (h : OnlyPackets s t) : OnlyActors s t := by
  unfold OnlyPackets OnlyActors at *
  rw [h]

theorem OnlyActors.trans {s t u : State} (h : OnlyActors s t) (g : OnlyActors t u) : OnlyActors s u := by
  unfold OnlyActors at *
  rw [h] at g
  exact g

theorem onlyActors_updateActor (ix : Nat) (f : Actor → Actor) (s : State) : OnlyActors s (updateActor ix f s) := rfl

theorem onlyPackets_refuseChild (sup : Word) (pid : Pid) (i : Nat) (child : Word) (s : State) :
    OnlyPackets s (refuseChild sup pid i child s) := onlyPackets_postTo (fun _ _ _ => rfl) _ _ s

theorem addEntry_keeps (kind : LinkKind) (owner named : Word) (s : State) :
    OnlyActors s (addEntry kind owner named s) ∧ (addEntry kind owner named s).actors.table = s.actors.table := by
  unfold addEntry
  split <;> exact ⟨rfl, rfl⟩

/-- A child that stays installed is linked or refused; the table of actors stays. -/
theorem keepInstalled_keeps (u : Sup) (s : State) :
    OnlyActors s (keepInstalled u s) ∧ (keepInstalled u s).actors.table = s.actors.table := by
  unfold keepInstalled
  split
  · unfold addIfRoom
    split
    · rw [Option.getD_none]
      have h := onlyPackets_refuseChild
      exact ⟨(h _ _ _ _ s).onlyActors, by rw [h]⟩
    · exact addEntry_keeps _ _ _ s
  · exact ⟨rfl, rfl⟩

/-- The record of a supervisor is FREE. -/
def withoutSup (name : Word) (s : State) : State :=
  { s with actors := { s.actors with sups := s.actors.sups.filter fun v => v.name != name } }

theorem onlyActors_withoutSup (name : Word) (s : State) : OnlyActors s (withoutSup name s) := rfl

theorem onlyActors_dropSup (name : Word) (s : State) : OnlyActors s (dropSup name s) := by
  unfold dropSup
  split
  · rfl
  next u _ =>
    have h : OnlyActors s (keepInstalled u (withoutSup name s)) :=
      OnlyActors.trans (onlyActors_withoutSup name s) (keepInstalled_keeps u _).1
    dsimp only
    split
    · split
      · exact h.trans (onlyActors_updateActor _ _ _)
      · exact h
    · exact h

/-- The slot that becomes FREE is RESTARTING; every other one stays. -/
theorem actorAt_dropSup {s : State} {ix : Nat} (hix : (actorAt s ix).st ≠ .restarting) (name : Word) :
    actorAt (dropSup name s) ix = actorAt s ix := by
  unfold dropSup
  split
  · rfl
  next u _ =>
    have kept (k : Nat) : actorAt (keepInstalled u (withoutSup name s)) k = actorAt s k :=
      actorAt_congr (keepInstalled_keeps u (withoutSup name s)).2 k
    dsimp only
    split
    next freed _ =>
      split
      next hfreed =>
        have hne : ix ≠ freed := by
          rintro rfl
          exact hix ((congrArg Actor.st (kept ix)).symm.trans hfreed)
        rw [actorAt_updateActor_ne hne]
        exact kept ix
      next => exact kept ix
    next => exact kept ix

/-! ## Host queues of the actor (R340) -/

theorem onlyHost_stopQueues (name : Word) (s : State) : OnlyHost s (stopQueues name s) := by
  unfold stopQueues
  generalize s.host.queues = queues
  induction queues generalizing s with
  | nil => rfl
  | cons x queues ih =>
    rw [List.foldl_cons]
    refine OnlyHost.trans ?_ (ih _)
    dsimp only
    split
    · refine OnlyHost.trans ?_ (onlyHost_logPackage _ _ _ _ _)
      rfl
    · rfl

/-! ## Entering EXITING -/

/-- The actor is EXITING with its death fixed; its supervisor record and its host queues are as they were. -/
def markExiting (name : Word) (d : Death) (s : State) : State :=
  updateActor (actorIx s name) (fun a => { a with st := .exiting, death := some d, held := none }) s

theorem enterExiting_steps (name : Word) (d : Death) (s : State) :
    enterExiting name d s = post (.exitWalk name) (stopQueues name (dropSup name (markExiting name d s))) := rfl

theorem actorAt_markExiting (name : Word) (d : Death) (s : State) : actorAt (markExiting name d s) (actorIx s name) =
    { actorAt s (actorIx s name) with st := .exiting, death := some d, held := none } := actorAt_updateActor_same _ _ s

/-- The hart, its off-core operations and memory stay. -/
theorem enterExiting_eq (name : Word) (d : Death) (s : State) : enterExiting name d s =
    { s with
      mach := (enterExiting name d s).mach, actors := (enterExiting name d s).actors, sched := (enterExiting name d s).sched
      host := (enterExiting name d s).host, fab := (enterExiting name d s).fab, ras := (enterExiting name d s).ras } := by
  have hmark := onlyActors_updateActor (actorIx s name) (fun a => { a with st := .exiting, death := some d, held := none }) s
  have hdrop := hmark.trans (onlyActors_dropSup name (markExiting name d s))
  rw [enterExiting_steps, onlyHost_stopQueues, hdrop]
  rfl

/-- The actor's death is fixed, and its exit walk is pending. -/
theorem exits_enterExiting (name : Word) (d : Death) (s : State) : Exits s (enterExiting name d s) name d := by
  have hmark := actorAt_markExiting name d s
  have hdrop := actorAt_dropSup (by rw [hmark]; exact ActorSt.noConfusion) name
  have hstop : actorAt (enterExiting name d s) (actorIx s name) =
      actorAt (dropSup name (markExiting name d s)) (actorIx s name) :=
    actorAt_congr (by rw [enterExiting_steps, post_actors, onlyHost_stopQueues]) _
  rw [Exits, hstop, hdrop, hmark]
  exact ⟨rfl, rfl, _, List.mem_append_right _ (List.mem_singleton_self _), rfl, rfl⟩

end Sys2Proof.Machine
end

section
/-!
PROOF. The dispatcher and budgets (R100, R101, R113, R308 to R310).
-/

namespace Sys2Proof.Machine

/-! ## The start of a handler (R308 to R310) -/

theorem scratchKey_zero (core : Nat) : scratchKey core 0 = core * 0x80000 := by rw [scratchKey, scratchBytes, Nat.add_zero]

theorem dirPoisoned_own (s : State) : dirPoisoned s (ownCore s) = poisoned s (s.coreid.toNat * 0x80000) 0x100 := by
  rw [dirPoisoned, scratchKey_zero, ownCore]

theorem exec_dispatch {s : State} (hd : s.hart.disp = true) (hb : boundedOutstanding s = false) (hr : runEnding s = false) :
    exec .dispatch s = .next (dispatchLoop 8 s) :=
  congrArg Host.Outcome.next (if_pos (by simp [hd, hb, hr]))

theorem dispatchLoop_none {s : State} (h : headActor s = none) (n : Nat) : dispatchLoop n s = s := by
  cases n with
  | zero => rfl
  | succ n => simp [dispatchLoop, h]

theorem dispatchLoop_starts {s : State} {ix w tb : Nat} {a : Actor} {e : Placement} (hhead : headActor s = some (ix, a))
    (hdir : dirPoisoned s (ownCore s) = false) (hrec : poisoned s (headRecord s (ownCore s) a) 16 = false)
    (hhold : holding s (ownCore s) a = true) (hskip : headIsSkip s (ownCore s) a = false)
    (hplace : placement s (ownCore s) s.sup.pid = some e) (hallot : allotment s (ownCore s) e a = some (w, tb)) (n : Nat) :
    dispatchLoop (n + 1) s = setupRun ix a w tb s := by
  simp [dispatchLoop, hhead, hdir, hrec, hhold, hskip, hplace, hallot]

theorem dispatchLoop_fails {s : State} (hhead : headActor s ≠ none) (hdir : dirPoisoned s (ownCore s) = true) (n : Nat) :
    dispatchLoop (n + 1) s = dispatchFails s := by
  obtain ⟨x, hx⟩ := Option.ne_none_iff_exists'.1 hhead
  simp [dispatchLoop, hx, hdir]

theorem getX_of_zero {s : State} (h : s.hart.x = Vector.replicate 32 (Reg.zero 64)) (n : Nat) : getX s n = Reg.zero 64 := by
  unfold getX
  rw [h]
  by_cases hn : n < 32
  · simp [Vector.getD, hn]
  · simp [Vector.getD, hn]

section
variable (ix : Nat) (a : Actor) (w tb : Nat) (s : State)

/-- The record in a0 to a2, the state and working ranges in a3, a4 and sp, and zero in every other register (R310). -/
theorem getX_setupRun (n : Nat) : getX (setupRun ix a w tb s) n =
    let key := headRecord s (ownCore s) a
    if n = 10 then { val := BitVec.ofNat 64 (key - s.coreid.toNat * 0x80000), st := .full }
    else if n = 11 then { val := BitVec.ofNat 64 (recordLen s key), st := .full }
    else if n = 12 then { val := BitVec.ofNat 64 (recordKind s key), st := .full }
    else if n = 13 then { val := BitVec.ofNat 64 a.sbase, st := .full }
    else if n = 14 then { val := BitVec.ofNat 64 w, st := .full }
    else if n = 2 then { val := BitVec.ofNat 64 (w + a.snap.work), st := .full }
    else Reg.zero 64 := by
  unfold setupRun
  dsimp only
  simp only [writeX, getX_putX, scratchKey_zero, place_zero]
  rw [getX_of_zero rfl]
  simp [ownCore]

theorem setupRun_hart : (setupRun ix a w tb s).hart.pc = a.snap.handler ∧ (setupRun ix a w tb s).hart.priv = .user ∧
    (setupRun ix a w tb s).hart.disp = false ∧ (setupRun ix a w tb s).hart.v = s.hart.v := by
  simp [setupRun, writeX, updateActor, setActor]

theorem setupRun_user : (setupRun ix a w tb s).user.aweight = 1 ∧ (setupRun ix a w tb s).user.oft = true := by
  simp [setupRun]

theorem setupRun_sup : (setupRun ix a w tb s).sup =
    { s.sup with hrem := budgetClocks a.snap, dfrom := false, mdfrom := false } := by
  simp [setupRun, updateActor, setActor]

theorem setupRun_act_name : (setupRun ix a w tb s).act.name = nameAt s (ownCore s) (ix % 1024) := by
  simp [setupRun]

theorem setupRun_strand : (setupRun ix a w tb s).stn.strand = [] := by
  simp [setupRun, updateActor, setActor, invalidateStrand]

theorem setupRun_mem : (setupRun ix a w tb s).mem = s.mem := by
  simp [setupRun, updateActor, setActor]

theorem setupRun_running : (actorAt (setupRun ix a w tb s) ix).st = .running := by
  have table : (setupRun ix a w tb s).actors =
      (updateActor ix (fun b => { b with st := .running, wbase := w, tbase := tb }) (invalidateStrand s)).actors := by
    simp [setupRun]
  rw [actorAt_congr (congrArg Actors.table table), actorAt_updateActor_same]

end

theorem budgetClocks_eq (t : TypeSnap) :
    budgetClocks t = if t.budget = 0 then BitVec.allOnes 64 else BitVec.ofNat 64 (2 ^ t.budget) := by
  rw [budgetClocks, place, Nat.one_shiftLeft]

/-! ## A device error of the dispatcher (R113) -/

theorem dispatchFails_logs {s : State} (hplace : s.sched.place = none) (hroom : s.ras.packageLog.length < 1024) :
    ∃ r : LogRecord, (dispatchFails s).ras.packageLog = s.ras.packageLog ++ [r] ∧ r.word0.toNat / 2 ^ 56 = 11 :=
  ⟨_, logPackage_appends (by decide) hplace hroom 11 25 _, logWord_kind (by decide) 0 25 _⟩

theorem dispatchFails_leaves (s : State) : (dispatchFails s).hart.disp = s.hart.disp ∧ (dispatchFails s).hart.x = s.hart.x ∧
    (dispatchFails s).mem = s.mem ∧ (dispatchFails s).actors = s.actors := by
  have h : OnlyHost s (logDevice 25 s) := onlyHost_logPackage _ _ _ _ s
  rw [dispatchFails, h]
  exact ⟨rfl, rfl, rfl, rfl⟩

/-! ## A spent budget (R101) -/

/-- The death of an actor whose handler this hart runs at a boundary ends the run. -/
theorem killActor_running {s : State} {a : Actor} (hrun : RunsHandler s a) (hwait : s.hart.wait ≠ .response)
    (hdone : s.hart.storesDone = 0) (d : Death) : killActor s.act.name d s = enterExiting s.act.name d (endRun s) := by
  obtain ⟨huser, _, hdisp, hlive, hrunning, hcore⟩ := hrun
  have here : (runsHere s s.act.name && hartAtBoundary s) = true := by
    simp [runsHere, hartAtBoundary, huser, hdisp, hwait, hdone]
  unfold killActor
  rw [hlive]
  dsimp only
  rw [if_pos ⟨hrunning, hcore⟩, if_pos here]

theorem exec_budgetExpiry_spent {s : State} {a : Actor} (hrun : RunsHandler s a) (hrem : s.sup.hrem = 0)
    (hwait : s.hart.wait ≠ .response) (hdone : s.hart.storesDone = 0) : exec .budgetExpiry s =
      .next (enterExiting s.act.name (deathOf s.act.name 0x03 0) (endRun s)) := by
  rw [← killActor_running hrun hwait hdone]
  obtain ⟨huser, hname, hdisp, hlive, _⟩ := hrun
  have named : (s.act.name != 0) = true := bne_iff_ne.2 hname
  have spent : budgetOut s = true := by
    rw [budgetOut, named]
    simp [hartAtBoundary, huser, hdisp, hrem, hwait, hdone]
  exact congrArg Host.Outcome.next ((if_pos spent).trans (if_pos (by simp [isLive, hlive])))

theorem exec_budgetExpiry_left {s : State} (hrem : s.sup.hrem ≠ 0) : exec .budgetExpiry s = .next s :=
  have left : (s.sup.hrem == 0) = false := beq_false_of_ne hrem
  congrArg Host.Outcome.next (if_neg (by rw [budgetOut, left, Bool.and_false, Bool.false_and]; exact Bool.false_ne_true))

/-- A death that ends the run: the run has ended, memory is as before, and the actor is EXITING. -/
theorem enterExiting_endRun (name : Word) (d : Death) (s : State) :
    EndsRun s (enterExiting name d (endRun s)) ∧ SameMemory s (enterExiting name d (endRun s)) ∧
      Exits s (enterExiting name d (endRun s)) name d := by
  obtain ⟨hmem, _, hras⟩ := endRun_keeps s
  have hexit := enterExiting_eq name d (endRun s)
  have index : actorIx (endRun s) name = actorIx s name := by simp only [actorIx, coreIndex, hras]
  have exits := exits_enterExiting name d (endRun s)
  rw [Exits, index] at exits
  have ends := endsRun_endRun s
  generalize enterExiting name d (endRun s) = t at *
  refine ⟨endsRun_of_same_hart ends ?_ ?_ ?_ ?_, fun k => ?_, exits⟩
  all_goals rw [hexit]
  rw [hmem]

/-- Settles O47: the dispatcher by the branches of its choice, and a spent budget by the end of the run and the death. -/
theorem dispatchAndBudget : Obligations.DispatchAndBudget := by
  intro s
  refine ⟨fun ix a e w tb hdisp hbounded hending hhead hhold hskip hplace hallot hdir hrec => ?starts,
    fun hdisp hhead => ?idle, fun hending => ?ending, fun hdisp hbounded hending hhead hdir hplace hroom => ?fails,
    fun a hrun hrem hwait hdone => ⟨_, exec_budgetExpiry_spent hrun hrem hwait hdone, enterExiting_endRun _ _ s⟩,
    exec_budgetExpiry_left⟩
  case starts =>
    have hloop := dispatchLoop_starts hhead ((dirPoisoned_own s).trans hdir) hrec hhold hskip hplace hallot 7
    have hexec : exec .dispatch s = .next (setupRun ix a w tb s) :=
      (exec_dispatch hdisp hbounded hending).trans (congrArg Host.Outcome.next hloop)
    obtain ⟨hpc, hpriv, hdisp', hv⟩ := setupRun_hart ix a w tb s
    obtain ⟨haweight, hoft⟩ := setupRun_user ix a w tb s
    have hsup := setupRun_sup ix a w tb s
    have reg := getX_setupRun ix a w tb s
    refine ⟨_, hexec, hpc, hpriv, hdisp', congrArg SupCsrs.dfrom hsup, congrArg SupCsrs.mdfrom hsup,
      fun k => by rw [setupRun_mem], hv, setupRun_strand ix a w tb s, setupRun_running ix a w tb s,
      setupRun_act_name ix a w tb s, haweight, hoft, (congrArg SupCsrs.hrem hsup).trans (budgetClocks_eq _),
      reg 10, reg 11, reg 12, reg 13, reg 14, reg 2, fun n _ hn => ?_⟩
    simp only [List.mem_cons, List.not_mem_nil, or_false, not_or] at hn
    obtain ⟨h2, h10, h11, h12, h13, h14⟩ := hn
    rw [reg n]
    simp only [h2, h10, h11, h12, h13, h14, if_false]
  case idle =>
    by_cases hgo : (s.hart.disp && !boundedOutstanding s && !runEnding s) = true
    · exact congrArg Host.Outcome.next ((if_pos hgo).trans (dispatchLoop_none hhead 8))
    · exact congrArg Host.Outcome.next (if_neg hgo)
  case ending => exact congrArg Host.Outcome.next (if_neg (by simp [hending]))
  case fails =>
    obtain ⟨r, hlog, hkind⟩ := dispatchFails_logs hplace hroom
    obtain ⟨hdisp', hx, hmem, hactors⟩ := dispatchFails_leaves s
    have hloop := dispatchLoop_fails hhead ((dirPoisoned_own s).trans hdir) 7
    have hexec : exec .dispatch s = .next (dispatchFails s) :=
      (exec_dispatch hdisp hbounded hending).trans (congrArg Host.Outcome.next hloop)
    exact ⟨_, r, hexec, hdisp'.trans hdisp, hx, fun k => by rw [hmem], hactors, hlog, hkind⟩

end Sys2Proof.Machine
end

section
/-!
PROOF. Hardware loops: `loop` and the end test (R153, R154).
-/

namespace Sys2Proof.Machine

/-! ## The end test by its levels (R154) -/

/-- The instruction at the pc is the last of the body of a loop that runs. -/
def AtEnd (s : State) (l : Loop) : Prop := l.count ≠ 0 ∧ s.hart.pc = l.last

/-- Level 0 has one turn less to run. -/
def countDown0 (s : State) : State :=
  { s with hart := { s.hart with loop0 := { s.hart.loop0 with count := s.hart.loop0.count - 1 } } }

/-- Level 1 has one turn less to run. -/
def countDown1 (s : State) : State :=
  { s with hart := { s.hart with loop1 := { s.hart.loop1 with count := s.hart.loop1.count - 1 } } }

theorem atLoopEnd_eq_false_iff {s : State} :
    atLoopEnd s = false ↔ ¬ AtEnd s s.hart.loop0 ∧ ¬ AtEnd s s.hart.loop1 := by
  simp [atLoopEnd, AtEnd]

theorem toNat_sub_one {c : Word} (h : c ≠ 0) : (c - 1).toNat = c.toNat - 1 := by bv_omega

theorem sub_one_ne_zero_iff {c : Word} (h : c ≠ 0) : c - 1 ≠ 0 ↔ 1 < c.toNat := by
  constructor <;> intro <;> bv_omega

section
variable {s : State}

/-- At no loop's end the next address and the counts stay. -/
theorem endTest_outside (next : Word) (h0 : ¬ AtEnd s s.hart.loop0) (h1 : ¬ AtEnd s s.hart.loop1) :
    endTest next s = (next, s) :=
  (if_neg h0).trans (if_neg h1)

/-- Level 0 goes on: level 1 is not tested. -/
theorem endTest_again0 (next : Word) (h0 : AtEnd s s.hart.loop0) (hc : 1 < s.hart.loop0.count.toNat) :
    endTest next s = (s.hart.loop0.start, countDown0 s) :=
  (if_pos h0).trans (if_pos ((sub_one_ne_zero_iff h0.1).2 hc))

/-- After the last turn of level 0 that level runs no more. -/
theorem countDown0_outside (hc : s.hart.loop0.count = 1) : ¬ AtEnd (countDown0 s) (countDown0 s).hart.loop0 :=
  fun h => h.1 (by simp [countDown0, hc])

/-- After the last turn of level 0 level 1 is tested. -/
theorem endTest_last0 (next : Word) (h0 : AtEnd s s.hart.loop0) (hc : s.hart.loop0.count = 1) :
    endTest next s = endTest next (countDown0 s) := by
  have hlast : ¬ s.hart.loop0.count - 1 ≠ 0 := by simp [hc]
  exact ((if_pos h0).trans (if_neg hlast)).trans (if_neg (countDown0_outside hc)).symm

/-- At the end of level 1 alone its count falls, and it goes on unless that was its last turn. -/
theorem endTest_end1 (next : Word) (h0 : ¬ AtEnd s s.hart.loop0) (h1 : AtEnd s s.hart.loop1) :
    endTest next s = (if 1 < s.hart.loop1.count.toNat then s.hart.loop1.start else next, countDown1 s) := by
  rw [← if_congr (sub_one_ne_zero_iff h1.1) rfl rfl]
  exact (if_neg h0).trans (if_pos h1)

/-- Where level 0 does not end, level 1 alone is tested. -/
theorem endTest_level1 (next : Word) (h0 : ¬ AtEnd s s.hart.loop0) :
    (endTest next s).2.hart.loop0 = s.hart.loop0 ∧
    (AtEnd s s.hart.loop1 → (endTest next s).2.hart.loop1.count.toNat = s.hart.loop1.count.toNat - 1 ∧
      (endTest next s).1 = if 1 < s.hart.loop1.count.toNat then s.hart.loop1.start else next) ∧
    (¬ AtEnd s s.hart.loop1 → (endTest next s).1 = next ∧ (endTest next s).2.hart.loop1 = s.hart.loop1) := by
  by_cases h1 : AtEnd s s.hart.loop1
  · rw [endTest_end1 next h0 h1]
    exact ⟨rfl, fun _ => ⟨toNat_sub_one h1.1, rfl⟩, fun h => absurd h1 h⟩
  · rw [endTest_outside next h0 h1]
    exact ⟨rfl, fun h => absurd h h1, fun _ => ⟨rfl, rfl⟩⟩

end

/-! ## loop (R153) -/

/-- What `loop` puts into its level. -/
def newLoop (s : State) (rs1 : RegIdx) (len : BitVec 12) : Loop :=
  { start := s.hart.pc + 4, last := s.hart.pc + BitVec.ofNat 64 (4 * len.toNat), count := xval s rs1 }

/-- The state with the registers of a level replaced. -/
def setLoop (level : Bool) (l : Loop) (s : State) : State :=
  { s with hart := if level then { s.hart with loop1 := l } else { s.hart with loop0 := l } }

/-- Where `loop` goes: past the body where the count is 0. -/
def loopNext (s : State) (rs1 : RegIdx) (len : BitVec 12) : Word :=
  if xval s rs1 = 0 then (newLoop s rs1 len).last + 4 else s.hart.pc + 4

theorem exec_loop {level : Bool} {rs1 : RegIdx} {len : BitVec 12} {s : State} (hr : ready s (xs [rs1]) [] = true)
    (hend : atLoopEnd s = false) :
    exec (.loop level rs1 len) s = .next (retireTo (loopNext s rs1 len) (setLoop level (newLoop s rs1 len) s)) := by
  obtain ⟨hp, he, hs, -⟩ := ready_iff.1 hr
  have hplace : place (4 * len.toNat) 0 = BitVec.ofNat 64 (4 * len.toNat) := place_zero _
  have e : exec (.loop level rs1 len) s = execLoop level rs1 len s := rfl
  rw [e, execLoop, instr_eq_next, hplace]
  · rfl
  · rw [firstStop_cons_none (noPrefix_none _ hp), firstStop_cons_none (stopIf_none hend)]
    exact firstStop_cons_none (checkSources_srcX he hs fun _ => false)

/-- Retirement changes the hart's place and loops, and counts one instruction. -/
theorem retireTo_leaves (next : Word) (s : State) : SameMemory s (retireTo next s) ∧ (retireTo next s).hart.x = s.hart.x ∧
    (retireTo next s).hart.v = s.hart.v ∧ (retireTo next s).hart.m = s.hart.m ∧ (retireTo next s).user = s.user ∧
    (retireTo next s).mach = retiredMach s := by
  rw [retireTo, endTest_state]
  exact ⟨fun _ => rfl, rfl, rfl, rfl, rfl, rfl⟩

/-- A level that has just been set does not end here unless its body ends here, and the other one did not before. -/
theorem setLoop_outside {level : Bool} {l : Loop} {s : State} (hend : atLoopEnd s = false) (hl : l.last ≠ s.hart.pc) :
    ¬ AtEnd (setLoop level l s) (setLoop level l s).hart.loop0 ∧
      ¬ AtEnd (setLoop level l s) (setLoop level l s).hart.loop1 := by
  obtain ⟨h0, h1⟩ := atLoopEnd_eq_false_iff.1 hend
  cases level
  · exact ⟨fun h => hl h.2.symm, h1⟩
  · exact ⟨h0, fun h => hl h.2.symm⟩

theorem setLoop_regs (level : Bool) (l : Loop) (s : State) : (setLoop level l s).hart.x = s.hart.x ∧
    (setLoop level l s).hart.v = s.hart.v ∧ (setLoop level l s).hart.m = s.hart.m := by
  cases level <;> exact ⟨rfl, rfl, rfl⟩

/-- Settles O7: `loop` as one update of its level, and the end test by the levels that end at the pc. -/
theorem loopInstruction : Obligations.LoopInstruction := by
  refine ⟨fun level rs1 len s hr hend => ⟨_, exec_loop hr hend, ?loop⟩, fun next s => ?endTest⟩
  case loop =>
    obtain ⟨hmem, hx, hv, hm, huser, hmach⟩ :=
      retireTo_leaves (loopNext s rs1 len) (setLoop level (newLoop s rs1 len) s)
    obtain ⟨hx', hv', hm'⟩ := setLoop_regs level (newLoop s rs1 len) s
    refine ⟨hmem, hx.trans hx', hv.trans hv', hm.trans hm', huser, hmach, fun hlast => ?_⟩
    obtain ⟨h0, h1⟩ := setLoop_outside (level := level) (l := newLoop s rs1 len) hend hlast
    rw [retireTo, endTest_outside _ h0 h1]
    cases level <;> exact ⟨rfl, rfl, rfl⟩
  case endTest =>
    intro h at0 at1 r
    by_cases h0 : AtEnd s s.hart.loop0
    · by_cases hc : s.hart.loop0.count = 1
      · obtain ⟨hloop0, hat1, hnot1⟩ := endTest_level1 next (countDown0_outside hc)
        rw [← endTest_last0 next h0 hc] at hloop0 hat1 hnot1
        refine ⟨fun _ => ?_, fun hn => absurd h0 hn, fun _ hlt => absurd hlt (by simp [h, hc]), fun _ => hat1,
          fun _ => hnot1⟩
        rw [hloop0]
        exact toNat_sub_one h0.1
      · have hlt : 1 < s.hart.loop0.count.toNat := by have := h0.1; bv_omega
        have hmore : ¬ (¬ at0 ∨ h.loop0.count = 1) := not_or.2 ⟨not_not.2 h0, hc⟩
        have hr : r = (s.hart.loop0.start, countDown0 s) := endTest_again0 next h0 hlt
        rw [hr]
        exact ⟨fun _ => toNat_sub_one h0.1, fun hn => absurd h0 hn, fun _ _ => ⟨rfl, rfl⟩, fun hor => absurd hor hmore,
          fun hor => absurd hor hmore⟩
    · obtain ⟨hloop0, hat1, hnot1⟩ := endTest_level1 next h0
      exact ⟨fun h => absurd h h0, fun _ => hloop0, fun h => absurd h h0, fun _ => hat1, fun _ => hnot1⟩

end Sys2Proof.Machine
end

section
/-!
PROOF. Custom-0 instructions: the group that they fill, element by element (R26, R141).
-/

namespace Sys2Proof.Machine

/-! ## What a custom-0 instruction leaves (R141) -/

theorem vtRule_custom0_d {op : Nat} {r : VTRule} (h : vtRule .custom0 op = some r) : r.d = .v := by
  unfold vtRule at h
  dsimp only at h
  split_ifs at h <;> (obtain rfl := Option.some.inj h; rfl)

/-- The destination group of a custom-0 instruction lies within the file (R26). -/
theorem custom0_wf_d {i : Instr} {op : BitVec 5} {a : VT} (hvt : i.vt = some (.custom0, op, a)) (hwf : i.wf = true) :
    a.d.toNat + 2 ^ a.w.toNat ≤ 32 := by
  apply group_le
  unfold Instr.wf at hwf
  rw [hvt] at hwf
  dsimp only at hwf
  cases hr : vtRule .custom0 op.toNat with
  | none => simp [hr] at hwf
  | some r =>
    rw [hr] at hwf
    unfold vtOk at hwf
    simp only [vtRule_custom0_d hr, fieldOk, Bool.and_eq_true, beq_iff_eq] at hwf
    obtain ⟨⟨⟨⟨⟨⟨-, hd⟩, -⟩, -⟩, -⟩, -⟩, -⟩ := hwf
    exact hd

theorem vecReady_iff {i : Instr} {h : VecShape} {s : State} (hs : vecShape i = some h) : vecReady i s = true ↔
    i.wf = true ∧ prefixOk h.mods h.legal s = true ∧ readyWithPrefix s h.reads (vRegs h.a.d h.a) = true := by
  simp [vecReady, hs, and_assoc]

theorem vecReady_wf {i : Instr} {h : VecShape} {s : State} (hs : vecShape i = some h) (hr : vecReady i s = true) :
    i.wf = true :=
  ((vecReady_iff hs).1 hr).1

theorem vecReady_legal {i : Instr} {h : VecShape} {s : State} (hs : vecShape i = some h) (hr : vecReady i s = true) :
    h.legal (effOf s) = true :=
  prefixOk_legal ((vecReady_iff hs).1 hr).2.1

/-- The state that a custom-0 instruction with this result for its destination group leaves. -/
def fillGroup (a : VT) (r : Nat × Flags) (s : State) : State :=
  retire (raiseFlags r.2 (writeGroup a.d.toNat (groupRegs a.w) r.1 s))

theorem vecInstr_fills {i : Instr} {h : VecShape} {s : State} (hs : vecShape i = some h) (hr : vecReady i s = true)
    (f : State → Eff → Nat × Flags) :
    vecInstr i h.a h.mods h.legal h.srcs f s = .next (fillGroup h.a (f s (effOf s)) s) := by
  obtain ⟨-, hp, hready⟩ := (vecReady_iff hs).1 hr
  obtain ⟨he, hsrc, hd⟩ := readyWithPrefix_iff.1 hready
  apply instr_eq_next
  rw [firstStop_cons_none (checkPrefix_none i hp), firstStop_cons_none (checkSources_none he fun src hm r hin =>
    hsrc r (List.mem_flatMap.2 ⟨src, hm, hin⟩))]
  exact firstStop_cons_none (checkDest_none hd)

section
variable {a : VT} {r : Nat × Flags} {s : State}

theorem fillGroup_flags : r.2 ||| (fillGroup a r s).user.vflags = (fillGroup a r s).user.vflags := by
  rw [fillGroup, retire_user, raiseFlags_vflags]
  exact or_or_eq_of_or_eq (BitVec.or_self) _

theorem vval_fillGroup : vval (fillGroup a r s) a.d a.w =
    groupValue (writeGroup a.d.toNat (groupRegs a.w) r.1 s) a.d.toNat (groupRegs a.w) :=
  groupValue_congr (by simp [fillGroup]) _ _

variable (hd : a.d.toNat + 2 ^ a.w.toNat ≤ 32)
include hd

theorem velem_fillGroup (hv : r.1 < 2 ^ (512 * 2 ^ a.w.toNat)) (w k : Nat) :
    velem (fillGroup a r s) a.d a w k = elemAt w r.1 k := by
  rw [velem, vval_fillGroup]
  exact congrArg (elemAt w · k) (groupValue_writeGroup s hd hv)

/-- Element 0 of a group filled from any number. -/
theorem velem_fillGroup_zero {w : Nat} (hw : w ≤ 512) : velem (fillGroup a r s) a.d a w 0 = r.1 % 2 ^ w := by
  have hpos : 0 < 2 ^ a.w.toNat := by positivity
  obtain ⟨n, hn⟩ : ∃ n, groupRegs a.w = n + 1 := ⟨2 ^ a.w.toNat - 1, by rw [groupRegs]; omega⟩
  have hin : a.d.toNat ≤ a.d.toNat ∧ a.d.toNat < a.d.toNat + (n + 1) := by omega
  have hdvd : 2 ^ w ∣ 2 ^ 512 := pow_dvd_pow 2 hw
  rw [velem, vval_fillGroup, hn, groupValue, getV_writeGroup _ _ _ _ _ (by rw [← hn]; exact hd), if_pos hin, elemAt_eq,
    Nat.sub_self, Nat.mul_zero, Nat.zero_mul, pow_zero, Nat.div_one, Nat.div_one, BitVec.toNat_ofNat, Nat.add_mod,
    Nat.mod_eq_zero_of_dvd (hdvd.mul_right _), Nat.add_zero, Nat.mod_mod, Nat.mod_mod_of_dvd _ hdvd]

end

/-! ## Element-wise results (R141) -/

section
variable (s : State) (a : VT) (w : Nat) (elem : Nat → Nat × Flags)

theorem elementwise_eq : (elementwise s a w elem).1 = packElems w ((List.range (groupElems a w)).map fun k =>
    (if activeAt s a w k then elem k else (velem s a.d a w k, 0)).1) := by
  rw [elementwise, zip_activeBits, List.map_map, List.map_map]
  rfl

theorem elementwise_lt : (elementwise s a w elem).1 < 2 ^ (512 * 2 ^ a.w.toNat) := by
  rw [elementwise_eq]
  refine (packElems_lt w _).trans_le (Nat.pow_le_pow_right (by decide) ?_)
  rw [List.length_map, List.length_range, groupElems, groupRegs, Nat.mul_comm 512]
  exact Nat.div_mul_le_self _ _

variable {k : Nat}

theorem elemAt_elementwise (hk : k < groupElems a w) : elemAt w (elementwise s a w elem).1 k =
    if activeAt s a w k then (elem k).1 % 2 ^ w else velem s a.d a w k := by
  rw [elementwise_eq, elemAt_packElems w (by rw [List.getElem?_map, List.getElem?_range hk]; rfl)]
  dsimp only
  split
  · rfl
  · exact Nat.mod_eq_of_lt (elemAt_lt w _ k)

end

end Sys2Proof.Machine
end

section
/-!
PROOF. The tree of a reduction, and sums, products and comparisons of integers (R70, R79, R89, R91).
-/

namespace Sys2Proof.Machine

/-! ## The tree of a reduction (R91) -/

/-- A property of the present codes, in their order, that holds on when a node takes the place of two neighbours. -/
def KeptByNodes (op : RedOp) (f : Nat) (rm : Rm) (P : List Nat → Prop) : Prop :=
  ∀ pre x y post, P (pre ++ x :: y :: post) → P (pre ++ (node op f rm Mods.none x y).1 :: post)

theorem length_reduceLevel (op : RedOp) (f : Nat) (rm : Rm) (md : Mods) : ∀ l : List (Option Nat),
    (reduceLevel op f rm md l).1.length = (l.length + 1) / 2
  | [] => rfl
  | [_] => by simp [reduceLevel]
  | a :: b :: rest => by
    have ih := length_reduceLevel op f rm md rest
    cases a <;> cases b <;> simp only [reduceLevel, List.length_cons, ih] <;> omega

theorem length_reduceTo2 (op : RedOp) (f : Nat) (rm : Rm) : ∀ (n : Nat) (l : List (Option Nat)), l.length ≤ 2 ^ (n + 1) →
    (reduceTo2 op f rm n l).1.length ≤ 2
  | 0, _, h => h
  | n + 1, l, h => by
    rw [reduceTo2]
    split
    · assumption
    · refine length_reduceTo2 op f rm n _ ?_
      rw [length_reduceLevel]
      rw [pow_succ] at h
      omega

section
variable {op : RedOp} {f : Nat} {rm : Rm} {P : List Nat → Prop} (hP : KeptByNodes op f rm P)
include hP

theorem reduceLevel_keeps : ∀ (pre : List Nat) (l : List (Option Nat)), P (pre ++ l.reduceOption) →
    P (pre ++ (reduceLevel op f rm Mods.none l).1.reduceOption)
  | _, [], h => h
  | _, [_], h => h
  | pre, some x :: some y :: rest, h => by
    have ih := reduceLevel_keeps (pre ++ [(node op f rm Mods.none x y).1]) rest
    simp only [List.append_assoc, List.singleton_append] at ih
    exact ih (hP pre x y _ h)
  | pre, some x :: none :: rest, h => by
    have ih := reduceLevel_keeps (pre ++ [x]) rest
    simp only [List.append_assoc, List.singleton_append] at ih
    exact ih h
  | pre, none :: some y :: rest, h => by
    have ih := reduceLevel_keeps (pre ++ [y]) rest
    simp only [List.append_assoc, List.singleton_append] at ih
    exact ih h
  | pre, none :: none :: rest, h => reduceLevel_keeps pre rest h

theorem reduceTo2_keeps : ∀ (n : Nat) (l : List (Option Nat)), P l.reduceOption → P (reduceTo2 op f rm n l).1.reduceOption
  | 0, _, h => h
  | n + 1, l, h => by
    rw [reduceTo2]
    split
    · exact h
    · exact reduceTo2_keeps n _ (reduceLevel_keeps hP [] l h)

end

/-- The code at the root, before a NaN becomes the canonical one, where no MOD is pending. -/
def rootCode (op : RedOp) (f : Nat) (rm : Rm) : List (Option Nat) → Nat
  | [some a, some b] => (node op f rm Mods.none a b).1
  | [some a, none] | [none, some a] | [some a] => a
  | _ => identityOf op f

theorem treeReduce_code {op : RedOp} (hop : op = .sum ∨ op = .max ∨ op = .min) (f : Nat) (rm : Rm)
    (leaves : List (Option Nat)) : (treeReduce op f rm Mods.none leaves).1 =
      canonicalise f (rootCode op f rm (reduceTo2 op f rm 16 leaves).1) := by
  have e : (treeReduce op f rm Mods.none leaves).1 = canonicalise f (match (reduceTo2 op f rm 16 leaves).1 with
      | [some a, some b] => node op f rm Mods.none a b
      | [some a, none] | [none, some a] | [some a] => (a, 0)
      | _ => (identityOf op f, 0)).1 := by rcases hop with rfl | rfl | rfl <;> rfl
  rw [e]
  unfold rootCode
  split <;> rfl

theorem rootCode_keeps {op : RedOp} {f : Nat} {rm : Rm} {P : List Nat → Prop} (hP : KeptByNodes op f rm P) :
    ∀ {l : List (Option Nat)}, l.length ≤ 2 → P l.reduceOption →
      P [rootCode op f rm l] ∨ P [] ∧ rootCode op f rm l = identityOf op f
  | [], _, h => .inr ⟨h, rfl⟩
  | [none], _, h => .inr ⟨h, rfl⟩
  | [some _], _, h => .inl h
  | [none, none], _, h => .inr ⟨h, rfl⟩
  | [some _, none], _, h => .inl h
  | [none, some _], _, h => .inl h
  | [some a, some b], _, h => .inl (hP [] a b [] h)
  | _ :: _ :: _ :: _, hlen, _ => by simp at hlen

/-- What the nodes keep of the present codes holds of the result alone; or it holds of no code, and the result is the
identity. -/
theorem treeReduce_keeps {op : RedOp} {f : Nat} {rm : Rm} {P : List Nat → Prop} (hP : KeptByNodes op f rm P)
    (hop : op = .sum ∨ op = .max ∨ op = .min) {leaves : List (Option Nat)} (hlen : leaves.length ≤ 2 ^ 17)
    (h : P leaves.reduceOption) : ∃ v, (treeReduce op f rm Mods.none leaves).1 = canonicalise f v ∧
      (P [v] ∨ P [] ∧ v = identityOf op f) :=
  ⟨_, treeReduce_code hop f rm leaves, rootCode_keeps hP (length_reduceTo2 op f rm 16 leaves hlen)
    (reduceTo2_keeps hP 16 leaves h)⟩

/-! ## Integer values under sums, products and comparisons (R70, R79, R89) -/

/-- A finite value with exponent 0: that of a code of an integer format, and what sums and products make of such. -/
def Num.Whole (v : Num) : Prop := ∃ n m, v = .fin n m 0

theorem toInt_whole (n : Bool) (m : Nat) : (Num.fin n m 0).toInt = if n then -(m : Int) else m := by
  simp [Num.toInt]

theorem whole_decodeElem {f : Nat} (h : isFloatFmt f = false) (c : Nat) : (decodeElem f c).Whole := by
  rw [decodeElem, h, if_neg Bool.false_ne_true]
  split
  · exact ⟨_, _, rfl⟩
  · exact ⟨_, _, rfl⟩

theorem whole_mulNum {v w : Num} (hv : v.Whole) (hw : w.Whole) :
    (mulNum v w).1.Whole ∧ (mulNum v w).1.toInt = v.toInt * w.toInt := by
  obtain ⟨n, m, rfl⟩ := hv
  obtain ⟨n', m', rfl⟩ := hw
  refine ⟨⟨_, _, rfl⟩, ?_⟩
  have e : (mulNum (.fin n m 0) (.fin n' m' 0)).1 = .fin (n != n') (m * m') 0 := rfl
  rw [e, toInt_whole, toInt_whole, toInt_whole]
  cases n <;> cases n' <;> simp

theorem minExp_zero : ∀ {l : List Num}, (∀ v ∈ l, v.Whole) → minExp l 0 = 0
  | [], _ => rfl
  | v :: l, h => by
    obtain ⟨n, m, rfl⟩ := h v (by simp)
    rw [minExp, min_self, ite_self]
    exact minExp_zero fun v hv => h v (by simp [hv])

/-- The common exponent of whole values is 0, unless all of them are zero. -/
theorem minExp_whole {q : Int} (hq : 0 ≤ q) : ∀ {l : List Num}, (∀ v ∈ l, v.Whole) →
    minExp l q = 0 ∨ ∀ v ∈ l, ∃ n, v = .fin n 0 0
  | [], _ => .inr (by simp)
  | v :: l, h => by
    obtain ⟨n, m, rfl⟩ := h v (by simp)
    have hl : ∀ v ∈ l, v.Whole := fun v hv => h v (by simp [hv])
    by_cases hm : m = 0
    · subst hm
      exact (minExp_whole hq hl).imp_right fun hzero => List.forall_mem_cons.2 ⟨⟨n, rfl⟩, hzero⟩
    · left
      rw [minExp, if_neg hm, min_eq_left hq, minExp_zero hl]

theorem scaledInt_whole {v : Num} (h : v.Whole) : v.scaledInt 0 = v.toInt := by
  obtain ⟨n, m, rfl⟩ := h
  rw [toInt_whole, Num.scaledInt, alignTo_self]
  split
  next h0 => simp [h0]
  next => rfl

theorem exactSum_whole {l : List Num} (h : ∀ v ∈ l, v.Whole) :
    (exactSum l).1.Whole ∧ (exactSum l).1.toInt = (l.map Num.toInt).sum := by
  have hnan : l.any Num.isNaN = false := by
    rw [List.any_eq_false]; intro v hv; obtain ⟨n, m, rfl⟩ := h v hv; simp [Num.isNaN]
  have hinf (b : Bool) : (l.any fun v => v == .inf b) = false := by
    rw [List.any_eq_false]; intro v hv; obtain ⟨n, m, rfl⟩ := h v hv; simp
  have hexp := minExp_whole (q := 4096) (by decide) h
  have hsum : (l.map (Num.scaledInt (minExp l 4096))).sum = (l.map Num.toInt).sum := by
    refine congrArg List.sum (List.map_congr_left fun v hv => ?_)
    rcases hexp with h0 | hzero
    · rw [h0, scaledInt_whole (h v hv)]
    · obtain ⟨n, rfl⟩ := hzero v hv
      simp [Num.scaledInt, toInt_whole]
  unfold exactSum
  simp only [hnan, hinf, Bool.false_eq_true, if_false, Bool.and_self, ← List.sum_eq_foldl, hsum]
  split
  next h0 => exact ⟨⟨_, _, rfl⟩, by simp [toInt_whole, h0]⟩
  next h0 =>
    have hq : minExp l 4096 = 0 := hexp.resolve_right fun hzero => h0 (List.sum_eq_zero fun x hx => by
      obtain ⟨v, hv, rfl⟩ := List.mem_map.1 hx
      obtain ⟨n, rfl⟩ := hzero v hv
      simp [toInt_whole])
    rw [hq]
    refine ⟨⟨_, _, rfl⟩, ?_⟩
    rw [toInt_whole]
    simp only [decide_eq_true_eq]
    split <;> omega

theorem modSteps_none (v : Num) : modSteps Mods.none v = v := by
  cases v <;> simp [modSteps, Mods.none]

theorem roundTo_whole {f : Nat} (hf : isFloatFmt f = false) (rm : Rm) (n : Bool) (m : Nat) :
    roundTo (.fin n m 0) f rm = .fin n m 0 := by
  rw [roundTo]
  split
  next h0 => rw [h0]
  next => simp [lastPlace, hf, roundMag, alignTo_self]

/-- A whole value goes to an integer format modulo the width. -/
theorem finishElem_whole {f : Nat} (hf : isFloatFmt f = false) {v : Num} (hv : v.Whole) (rm : Rm) :
    ((finishElem Mods.none v f rm).1 : Int) = v.toInt % 2 ^ fmtWidth f := by
  obtain ⟨n, m, rfl⟩ := hv
  have e : (finishElem Mods.none (.fin n m 0) f rm).1 = encodeElem f (.fin n m 0) := by
    rw [finishElem, hf, if_neg Bool.false_ne_true, finishInt, modSteps_none, roundTo_whole hf]
    rfl
  rw [e, encodeElem, hf, if_neg Bool.false_ne_true, wrapInt, BitVec.toNat_ofInt,
    Int.toNat_of_nonneg (Int.emod_nonneg _ (by positivity))]
  norm_cast

theorem lt_whole {v w : Num} (hv : v.Whole) (hw : w.Whole) : v.lt w = decide (v.toInt < w.toInt) := by
  obtain ⟨n, m, rfl⟩ := hv
  obtain ⟨n', m', rfl⟩ := hw
  rw [toInt_whole, toInt_whole, Num.lt]
  simp only [magLt, min_self, alignTo_self]
  rw [Bool.eq_iff_iff]
  cases n <;> cases n' <;> simp <;> omega

/-! ## Codes of integer formats (R70) -/

theorem intCodeValue_emod (f c : Nat) : intCodeValue f c % 2 ^ fmtWidth f = (c : Int) % 2 ^ fmtWidth f := by
  unfold intCodeValue
  split
  · rw [toSigned, BitVec.toInt_ofNat']
    exact_mod_cast Int.bmod_emod (x := c) (m := 2 ^ fmtWidth f)
  · exact_mod_cast Nat.mod_mod _ _

/-- No two codes of an integer format stand for one integer. -/
theorem intCodeValue_inj {f c c' : Nat} (hc : c < 2 ^ fmtWidth f) (hc' : c' < 2 ^ fmtWidth f)
    (h : intCodeValue f c = intCodeValue f c') : c = c' := by
  have e := intCodeValue_emod f c
  rw [h, intCodeValue_emod] at e
  have e' : c' % 2 ^ fmtWidth f = c % 2 ^ fmtWidth f := by exact_mod_cast e
  rw [Nat.mod_eq_of_lt hc, Nat.mod_eq_of_lt hc'] at e'
  exact e'.symm

section
variable {f : Nat} (hf : isFloatFmt f = false) (rm : Rm)
include hf

theorem node_sum_integer (a b : Nat) : (node .sum f rm Mods.none a b).1 = (a + b) % 2 ^ fmtWidth f := by
  have hwhole : ∀ v ∈ [decodeElem f a, decodeElem f b], v.Whole := by simp [whole_decodeElem hf]
  obtain ⟨hsum, hvalue⟩ := exactSum_whole hwhole
  have e := finishElem_whole hf hsum rm
  rw [hvalue] at e
  simp only [List.map_cons, List.map_nil, List.sum_cons, List.sum_nil, add_zero, toInt_decodeElem hf] at e
  rw [Int.add_emod, intCodeValue_emod, intCodeValue_emod, ← Int.add_emod] at e
  exact_mod_cast e

theorem node_max_integer (a b : Nat) :
    (node .max f rm Mods.none a b).1 = if intCodeValue f a < intCodeValue f b then b else a := by
  simp [node, hf, lt_whole (whole_decodeElem hf _) (whole_decodeElem hf _), toInt_decodeElem hf]

theorem node_min_integer (a b : Nat) :
    (node .min f rm Mods.none a b).1 = if intCodeValue f b < intCodeValue f a then b else a := by
  simp [node, hf, lt_whole (whole_decodeElem hf _) (whole_decodeElem hf _), toInt_decodeElem hf]

end

end Sys2Proof.Machine
end

section
/-!
PROOF. Reductions and the four-way dot product (R150, R151).
-/

namespace Sys2Proof.Machine

/-! ## What a reduction of integers comes to (R150) -/

theorem isFloatFmt_of_isIntFmt {f : Nat} (h : isIntFmt f = true) : isFloatFmt f = false := by
  have hrange : 8 ≤ f ∧ f ≤ 16 := by simpa [isIntFmt] using h
  exact decide_eq_false (by omega)

theorem canonicalise_integer {f : Nat} (h : isFloatFmt f = false) (v : Nat) : canonicalise f v = v := by
  simp [canonicalise, h]

/-- Codes of a format whose sum is `total` modulo the width. -/
def SumsTo (f total : Nat) (l : List Nat) : Prop := (∀ x ∈ l, x < 2 ^ fmtWidth f) ∧ l.sum % 2 ^ fmtWidth f = total

/-- Codes of a format of which `m` has the greatest key. -/
def HasGreatest (f : Nat) (key : Nat → Int) (m : Nat) (l : List Nat) : Prop :=
  (∀ x ∈ l, x < 2 ^ fmtWidth f ∧ key x ≤ key m) ∧ m ∈ l

theorem keptByNodes_nil (op : RedOp) (f : Nat) (rm : Rm) : KeptByNodes op f rm (· = []) := by
  intro pre x y post h
  simp at h

theorem keptByNodes_sumsTo {f : Nat} (hf : isFloatFmt f = false) (rm : Rm) (total : Nat) :
    KeptByNodes .sum f rm (SumsTo f total) := by
  intro pre x y post ⟨hcodes, hsum⟩
  rw [node_sum_integer hf]
  refine ⟨fun z hz => ?_, ?_⟩
  · rcases List.mem_append.1 hz with hz | hz
    · exact hcodes z (by simp [hz])
    · rcases List.mem_cons.1 hz with rfl | hz
      · exact Nat.mod_lt _ (by positivity)
      · exact hcodes z (by simp [hz])
  · rw [← hsum]
    simp only [List.sum_append, List.sum_cons, ← Nat.add_assoc x y]
    exact ((Nat.mod_modEq (x + y) _).add_right post.sum).add_left pre.sum

theorem keptByNodes_hasGreatest {op : RedOp} {f : Nat} {rm : Rm} {key : Nat → Int}
    (hinj : ∀ x y, x < 2 ^ fmtWidth f → y < 2 ^ fmtWidth f → key x = key y → x = y)
    (hnode : ∀ x y, (node op f rm Mods.none x y).1 = if key x < key y then y else x) (m : Nat) :
    KeptByNodes op f rm (HasGreatest f key m) := by
  intro pre x y post ⟨hall, hm⟩
  obtain ⟨hx, hxm⟩ := hall x (by simp)
  obtain ⟨hy, hym⟩ := hall y (by simp)
  rw [hnode]
  split
  next hlt =>
    refine ⟨fun z hz => hall z (by simp at hz ⊢; tauto), ?_⟩
    have hne : m ≠ x := by rintro rfl; omega
    simpa [hne] using hm
  next hle =>
    refine ⟨fun z hz => hall z (by simp at hz ⊢; tauto), ?_⟩
    have heq : m = y → m = x := by rintro rfl; exact (hinj x _ hx hy (by omega)).symm
    simp at hm ⊢
    tauto

section
variable {f : Nat} {leaves : List (Option Nat)} (rm : Rm) (hlen : leaves.length ≤ 2 ^ 17)
include hlen

/-- With no element present the value is the identity. -/
theorem treeReduce_empty {op : RedOp} (hop : op = .sum ∨ op = .max ∨ op = .min) (h : leaves.reduceOption = []) :
    (treeReduce op f rm Mods.none leaves).1 = canonicalise f (identityOf op f) := by
  obtain ⟨v, hv, hsome | ⟨-, hid⟩⟩ := treeReduce_keeps (keptByNodes_nil op f rm) hop hlen h
  · cases hsome
  · rw [hv, hid]

variable (hf : isFloatFmt f = false) (hcodes : ∀ x ∈ leaves.reduceOption, x < 2 ^ fmtWidth f)
include hf hcodes

theorem treeReduce_sum : (treeReduce .sum f rm Mods.none leaves).1 = leaves.reduceOption.sum % 2 ^ fmtWidth f := by
  obtain ⟨v, hv, ⟨hlt, hsum⟩ | ⟨⟨-, hsum⟩, hid⟩⟩ :=
    treeReduce_keeps (keptByNodes_sumsTo hf rm (leaves.reduceOption.sum % 2 ^ fmtWidth f)) (.inl rfl) hlen ⟨hcodes, rfl⟩
  · rw [hv, canonicalise_integer hf, ← hsum, List.sum_singleton, Nat.mod_eq_of_lt (hlt v (by simp))]
  · rw [hv, canonicalise_integer hf, ← hsum, hid, identityOf, hf, List.sum_nil, Nat.zero_mod]
    rfl

theorem treeReduce_greatest {op : RedOp} {key : Nat → Int} {m : Nat} (hop : op = .sum ∨ op = .max ∨ op = .min)
    (hinj : ∀ x y, x < 2 ^ fmtWidth f → y < 2 ^ fmtWidth f → key x = key y → x = y)
    (hnode : ∀ x y, (node op f rm Mods.none x y).1 = if key x < key y then y else x)
    (hm : m ∈ leaves.reduceOption) (hmax : ∀ x ∈ leaves.reduceOption, key x ≤ key m) :
    (treeReduce op f rm Mods.none leaves).1 = m := by
  obtain ⟨v, hv, ⟨-, hin⟩ | ⟨⟨-, hin⟩, -⟩⟩ := treeReduce_keeps (keptByNodes_hasGreatest hinj hnode m) hop hlen
    ⟨fun x hx => ⟨hcodes x hx, hmax x hx⟩, hm⟩
  · rw [hv, canonicalise_integer hf, List.mem_singleton.1 hin]
  · cases hin

theorem treeReduce_max {m : Nat} (hm : m ∈ leaves.reduceOption)
    (hmax : ∀ x ∈ leaves.reduceOption, intCodeValue f x ≤ intCodeValue f m) :
    (treeReduce .max f rm Mods.none leaves).1 = m :=
  treeReduce_greatest rm hlen hf hcodes (.inr (.inl rfl)) (fun _ _ => intCodeValue_inj) (node_max_integer hf rm) hm hmax

theorem treeReduce_min {m : Nat} (hm : m ∈ leaves.reduceOption)
    (hmin : ∀ x ∈ leaves.reduceOption, intCodeValue f m ≤ intCodeValue f x) :
    (treeReduce .min f rm Mods.none leaves).1 = m := by
  refine treeReduce_greatest (key := fun x => -intCodeValue f x) rm hlen hf hcodes (.inr (.inr rfl))
    (fun _ _ hx hy h => intCodeValue_inj hx hy (Int.neg_inj.1 h)) (fun x y => ?_) hm fun x hx => Int.neg_le_neg (hmin x hx)
  rw [node_min_integer hf]
  exact if_congr Int.neg_lt_neg_iff.symm rfl rfl

end

/-- The identity of a reduction in a format of R143 is a code of that format, and no NaN. -/
theorem identityOf_code {op : RedOp} {f : Nat} (hop : op = .sum ∨ op = .max ∨ op = .min) (hf : vecFmt f = true) :
    canonicalise f (identityOf op f) = identityOf op f ∧ identityOf op f < 2 ^ fmtWidth f := by
  have hrange : f ≤ 2 ∨ 8 ≤ f ∧ f ≤ 15 := by simpa [vecFmt] using hf
  rcases hrange with h | ⟨h, h'⟩
  · interval_cases f <;> rcases hop with rfl | rfl | rfl <;> decide
  · interval_cases f <;> rcases hop with rfl | rfl | rfl <;> decide

/-! ## vredsum, vredmax and vredmin (R150) -/

/-- The leaves of a reduction: the active source elements. -/
def redLeaves (s : State) (a : VT) (w : Nat) : List (Option Nat) :=
  (List.range (groupElems a w)).map fun k => if activeAt s a w k then some (velem s a.s1 a w k) else none

theorem reduceOption_map_ite (p : Nat → Bool) (g : Nat → Nat) : ∀ l : List Nat,
    (l.map fun k => if p k then some (g k) else none).reduceOption = (l.filter p).map g
  | [] => rfl
  | k :: l => by
    have ih := reduceOption_map_ite p g l
    by_cases h : p k <;> simp [h, ih]

theorem redLeaves_present (s : State) (a : VT) (w : Nat) : (redLeaves s a w).reduceOption = presentElems s a w :=
  reduceOption_map_ite _ _ _

theorem length_redLeaves_le (s : State) (a : VT) (w : Nat) : (redLeaves s a w).length ≤ 2 ^ 17 := by
  have hw : 2 ^ a.w.toNat ≤ 2 ^ 3 := Nat.pow_le_pow_right (by decide) (Nat.le_of_lt_succ a.w.isLt)
  have hdiv := Nat.div_le_self (groupRegs a.w * 512) w
  rw [redLeaves, List.length_map, List.length_range, groupElems]
  rw [groupRegs] at *
  omega

theorem presentElems_lt {s : State} {a : VT} {w : Nat} : ∀ x ∈ presentElems s a w, x < 2 ^ w := by
  intro x hx
  obtain ⟨k, -, rfl⟩ := List.mem_map.1 hx
  exact elemAt_lt w _ k

/-- The value and the flags of a reduction. -/
def reduction (op : RedOp) (a : VT) (s : State) : Nat × Flags :=
  treeReduce op (effOf s).d (effOf s).rm (effOf s).mods (redLeaves s a (fmtWidth (effOf s).d))

/-- The three reductions with their operations. -/
def reductions (a : VT) : List (Instr × RedOp) := [(.vredsum a, .sum), (.vredmax a, .max), (.vredmin a, .min)]

theorem redInstr_fills {i : Instr} {a : VT} {op : RedOp} {mods : Bool} {s : State}
    (hs : vecShape i = some ⟨a, mods, fun e => unaryFmts e && (mods || noRounding e), vOp1 a :: maskOps a false⟩)
    (hr : vecReady i s = true) : redInstr i a op mods s = .next (fillGroup a (reduction op a s) s) := by
  have hf (s : State) (e : Eff) : treeReduce op e.d e.rm e.mods (((List.range (groupElems a (fmtWidth e.d))).zip
      (activeBits s a (fmtWidth e.d) (groupElems a (fmtWidth e.d)))).map fun x =>
        if x.2 then some (elemAt (fmtWidth e.d) (vval s a.s1 a.w) x.1) else none) =
      treeReduce op e.d e.rm e.mods (redLeaves s a (fmtWidth e.d)) := by
    rw [zip_activeBits, List.map_map]
    rfl
  refine (vecInstr_fills hs hr _).trans ?_
  rw [hf]
  rfl

theorem reductions_shape {a : VT} {p : Instr × RedOp} (hp : p ∈ reductions a) : ∃ mods op,
    (∀ s, exec p.1 s = redInstr p.1 a p.2 mods s) ∧ p.1.vt = some (.custom0, op, a) ∧
      vecShape p.1 = some ⟨a, mods, fun e => unaryFmts e && (mods || noRounding e), vOp1 a :: maskOps a false⟩ := by
  simp only [reductions, List.mem_cons, List.not_mem_nil, or_false] at hp
  rcases hp with rfl | rfl | rfl
  · exact ⟨true, 25, fun _ => rfl, rfl, by simp [vecShape]⟩
  · exact ⟨false, 26, fun _ => rfl, rfl, rfl⟩
  · exact ⟨false, 27, fun _ => rfl, rfl, rfl⟩

theorem reductions_op {a : VT} {p : Instr × RedOp} (hp : p ∈ reductions a) : p.2 = .sum ∨ p.2 = .max ∨ p.2 = .min := by
  simp only [reductions, List.mem_cons, List.not_mem_nil, or_false] at hp
  exact hp.imp (congrArg Prod.snd) (Or.imp (congrArg Prod.snd) (congrArg Prod.snd))

theorem fmtWidth_le (f : Nat) : fmtWidth f ≤ 64 := by unfold fmtWidth; split_ifs <;> decide

section
variable {a : VT} {s : State} {p : Instr × RedOp} (hp : p ∈ reductions a) (hr : vecReady p.1 s = true)
include hp hr

theorem reduction_executes : exec p.1 s = .next (fillGroup a (reduction p.2 a s) s) := by
  obtain ⟨mods, op, hexec, -, hs⟩ := reductions_shape hp
  rw [hexec, redInstr_fills hs hr]

theorem reduction_group : a.d.toNat + 2 ^ a.w.toNat ≤ 32 := by
  obtain ⟨mods, op, -, hvt, hs⟩ := reductions_shape hp
  exact custom0_wf_d hvt (vecReady_wf hs hr)

theorem reduction_legal : vecFmt (effOf s).d = true := by
  obtain ⟨mods, op, -, -, hs⟩ := reductions_shape hp
  have hlegal : (unaryFmts (effOf s) && (mods || noRounding (effOf s))) = true :=
    vecReady_legal hs hr
  simp only [unaryFmts, Bool.and_eq_true] at hlegal
  obtain ⟨⟨⟨hfmt, -⟩, -⟩, -⟩ := hlegal
  exact hfmt

/-- Element 0 takes the value of the tree, cut to the width, and the flags of its nodes are raised. -/
theorem reduction_value : ∃ t, exec p.1 s = .next t ∧
    velem t a.d a (fmtWidth (effOf s).d) 0 = (reduction p.2 a s).1 % 2 ^ fmtWidth (effOf s).d ∧
    (reduction p.2 a s).2 ||| t.user.vflags = t.user.vflags :=
  ⟨_, reduction_executes hp hr, velem_fillGroup_zero (reduction_group hp hr) ((fmtWidth_le _).trans (by decide)),
    fillGroup_flags⟩

/-- A value that is a code of the format stands in element 0, with zero in every other. -/
theorem reduction_code {v : Nat} (hval : (reduction p.2 a s).1 = v) (hv : v < 2 ^ fmtWidth (effOf s).d) :
    ∃ t, exec p.1 s = .next t ∧ velem t a.d a (fmtWidth (effOf s).d) 0 = v ∧
      ∀ k, 0 < k → k < 2 ^ a.w.toNat * 512 / fmtWidth (effOf s).d → velem t a.d a (fmtWidth (effOf s).d) k = 0 := by
  have hw := fmtWidth_le (effOf s).d
  have hpos : 0 < 2 ^ a.w.toNat := by positivity
  have hgroup : fmtWidth (effOf s).d ≤ 512 * 2 ^ a.w.toNat := by omega
  have hlt : (reduction p.2 a s).1 < 2 ^ (512 * 2 ^ a.w.toNat) := by
    rw [hval]
    exact hv.trans_le (Nat.pow_le_pow_right (by decide) hgroup)
  refine ⟨_, reduction_executes hp hr, ?zero, fun k hk _ => ?others⟩
  case zero => rw [velem_fillGroup (reduction_group hp hr) hlt, hval, elemAt_eq, Nat.zero_mul, pow_zero, Nat.div_one,
    Nat.mod_eq_of_lt hv]
  case others =>
    have hbelow : v < 2 ^ (k * fmtWidth (effOf s).d) :=
      hv.trans_le (Nat.pow_le_pow_right (by decide) (Nat.le_mul_of_pos_left _ hk))
    rw [velem_fillGroup (reduction_group hp hr) hlt, hval, elemAt_eq, Nat.div_eq_of_lt hbelow, Nat.zero_mod]

end

/-! ## vdot4 (R151) -/

/-- Element j where it is active: with 16-bit sources only the lower half of the group has source elements. -/
def dotOrKept (s : State) (a : VT) (j : Nat) : Nat × Flags :=
  if j < groupElems a (fmtWidth (effOf s).a) / 4 then dot4Elem s a (effOf s) j else (elemAt 32 (vval s a.d a.w) j, 0)

section
variable {a : VT} {s : State} (hr : vecReady (.vdot4 a) s = true)
include hr

theorem vdot4_legal : dotFmts (effOf s) = true := vecReady_legal (i := .vdot4 a) rfl hr

theorem vdot4_executes : exec (.vdot4 a) s = .next (fillGroup a (elementwise s a 32 (dotOrKept s a)) s) :=
  vecInstr_fills (h := ⟨a, true, dotFmts, [vOp1 a, vOp2 a, dOp a] ++ maskOps a false⟩) rfl hr fun s e =>
    elementwise s a 32 fun j =>
      if j < groupElems a (fmtWidth e.a) / 4 then dot4Elem s a e j else (elemAt 32 (vval s a.d a.w) j, 0)

/-- Element j of the destination: the dot product where it is active and has source elements, else as it was. -/
theorem vdot4_element {j : Nat} (hj : j < 2 ^ a.w.toNat * 16) : ∃ t, exec (.vdot4 a) s = .next t ∧ velem t a.d a 32 j =
    if activeAt s a 32 j && decide (j < groupElems a (fmtWidth (effOf s).a) / 4) then
      (dot4Elem s a (effOf s) j).1 % 2 ^ 32
    else velem s a.d a 32 j := by
  have hk : j < groupElems a 32 := by rw [groupElems, groupRegs]; omega
  refine ⟨_, vdot4_executes hr, ?_⟩
  rw [velem_fillGroup (custom0_wf_d rfl (vecReady_wf rfl hr)) (elementwise_lt s a 32 _), elemAt_elementwise s a 32 _ hk,
    dotOrKept]
  by_cases hin : j < groupElems a (fmtWidth (effOf s).a) / 4
  · rw [if_pos hin, decide_eq_true hin, Bool.and_true]
  · rw [if_neg hin, decide_eq_false hin, Bool.and_false, if_neg Bool.false_ne_true]
    dsimp only
    rw [Nat.mod_eq_of_lt (elemAt_lt 32 _ j)]
    exact ite_self _

end

/-- The value of an element of a vector operand of the dot product. -/
def dotTerm (s : State) (a : VT) (f : Nat) (b : RegIdx) (k : Nat) : Num := decodeElem f (velem s b a (fmtWidth f) k)

/-- Product k of the four that element j gains. -/
def dotProduct (s : State) (a : VT) (e : Eff) (j k : Nat) : Num :=
  (mulNum (dotTerm s a e.a a.s1 (4 * j + k)) (dotTerm s a e.b a.s2 (4 * j + k))).1

theorem dot4Elem_code (s : State) (a : VT) (e : Eff) (j : Nat) : (dot4Elem s a e j).1 = (finishElem e.mods
    (exactSum [dotTerm s a e.d a.d j, dotProduct s a e j 0, dotProduct s a e j 1, dotProduct s a e j 2,
      dotProduct s a e j 3]).1 e.d e.rm).1 := rfl

/-- With integer formats the products are those of the codes' integers, and the sum is taken modulo the width. -/
theorem dot4Elem_integer {s : State} {a : VT} {e : Eff} (hd : isFloatFmt e.d = false) (ha : isFloatFmt e.a = false)
    (hb : isFloatFmt e.b = false) (hm : e.mods = Mods.none) (j : Nat) :
    let p (k : Nat) : Int := intCodeValue e.a (velem s a.s1 a (fmtWidth e.a) (4 * j + k)) *
      intCodeValue e.b (velem s a.s2 a (fmtWidth e.b) (4 * j + k))
    ((dot4Elem s a e j).1 : Int) = ((velem s a.d a (fmtWidth e.d) j : Int) + (p 0 + p 1 + p 2 + p 3)) % 2 ^ fmtWidth e.d := by
  intro p
  have term {f : Nat} (hf : isFloatFmt f = false) (b : RegIdx) (k : Nat) : (dotTerm s a f b k).Whole ∧
      (dotTerm s a f b k).toInt = intCodeValue f (velem s b a (fmtWidth f) k) :=
    ⟨whole_decodeElem hf _, toInt_decodeElem hf _⟩
  have product (k : Nat) : (dotProduct s a e j k).Whole ∧ (dotProduct s a e j k).toInt = p k := by
    obtain ⟨hx, hxv⟩ := term ha a.s1 (4 * j + k)
    obtain ⟨hy, hyv⟩ := term hb a.s2 (4 * j + k)
    obtain ⟨hw, hv⟩ := whole_mulNum hx hy
    exact ⟨hw, by rw [dotProduct, hv, hxv, hyv]⟩
  obtain ⟨hsum, hvalue⟩ := exactSum_whole (l := [dotTerm s a e.d a.d j, dotProduct s a e j 0, dotProduct s a e j 1,
    dotProduct s a e j 2, dotProduct s a e j 3]) (by simp [(term hd a.d j).1, (product _).1])
  simp only [List.map_cons, List.map_nil, List.sum_cons, List.sum_nil, (term hd a.d j).2, (product _).2] at hvalue
  rw [dot4Elem_code, hm, finishElem_whole hd hsum, hvalue, Int.add_emod, intCodeValue_emod, ← Int.add_emod]
  congr 2
  ring

/-- Settles O19: the reductions by their tree, whose nodes keep the sum and the greatest and least code, and `vdot4` by
its element. -/
theorem vectorReductions : Obligations.VectorReductions := by
  refine ⟨fun a s => ?single, fun a s => ?tree, fun a s j hr hd hj => ?floatDot, fun a s j hr hd hm hj => ?intDot⟩
  case single =>
    intro f w l red
    have value {p : Instr × RedOp} {v : Nat} (hp : p ∈ reductions a) (hv : v < 2 ^ w)
        (h : (treeReduce p.2 f (effOf s).rm Mods.none (redLeaves s a w)).1 = v) : red p.1 v := fun hr hm =>
      reduction_code hp hr (by rw [reduction, hm]; exact h) hv
    have hsumIn : (Instr.vredsum a, RedOp.sum) ∈ reductions a := by simp [reductions]
    have hmaxIn : (Instr.vredmax a, RedOp.max) ∈ reductions a := by simp [reductions]
    have hminIn : (Instr.vredmin a, RedOp.min) ∈ reductions a := by simp [reductions]
    have hlen := length_redLeaves_le s a w
    have hpresent : (redLeaves s a w).reduceOption = l := redLeaves_present s a w
    refine ⟨fun hl => ?empty, fun hf _ => ?integer⟩
    case empty =>
      have identity {p : Instr × RedOp} (hp : p ∈ reductions a) : red p.1 (identityOf p.2 f) := by
        intro hr hm
        have hop := reductions_op hp
        obtain ⟨hcanon, hlt⟩ := identityOf_code hop (reduction_legal hp hr)
        exact value hp hlt ((treeReduce_empty _ hlen hop (hpresent.trans hl)).trans hcanon) hr hm
      exact ⟨identity hsumIn, identity hmaxIn, identity hminIn⟩
    case integer =>
      have hfloat := isFloatFmt_of_isIntFmt hf
      have hcodes : ∀ x ∈ l, x < 2 ^ w := presentElems_lt
      have hsum := treeReduce_sum (effOf s).rm hlen hfloat (hpresent ▸ hcodes)
      have hmax {m : Nat} := treeReduce_max (m := m) (effOf s).rm hlen hfloat (hpresent ▸ hcodes)
      have hmin {m : Nat} := treeReduce_min (m := m) (effOf s).rm hlen hfloat (hpresent ▸ hcodes)
      rw [hpresent] at hsum
      simp only [hpresent] at hmax hmin
      rw [← List.sum_eq_foldl]
      exact ⟨value hsumIn (Nat.mod_lt _ (by positivity)) hsum, fun m hm h => value hmaxIn (hcodes m hm) (hmax hm h),
        fun m hm h => value hminIn (hcodes m hm) (hmin hm h)⟩
  case tree => exact fun p hp hr => reduction_value hp hr
  case floatDot =>
    have hlegal := vdot4_legal hr
    obtain ⟨t, ht, hval⟩ := vdot4_element hr hj
    have hhalf : groupElems a (fmtWidth (effOf s).a) / 4 = 2 ^ a.w.toNat * 8 := by
      have ha : (effOf s).a = 1 ∨ (effOf s).a = 2 := by simp [dotFmts, hd] at hlegal; exact hlegal.1
      have hw : fmtWidth (effOf s).a = 16 := by rcases ha with h | h <;> rw [h] <;> rfl
      rw [hw, groupElems, groupRegs]
      omega
    rw [hhalf, dot4Elem_code, hd] at hval
    exact ⟨t, ht, hval⟩
  case intDot =>
    have hlegal := vdot4_legal hr
    obtain ⟨t, ht, hval⟩ := vdot4_element hr hj
    obtain ⟨ha, hb⟩ : ((effOf s).a = 8 ∨ (effOf s).a = 9) ∧ ((effOf s).b = 8 ∨ (effOf s).b = 9) := by
      simpa [dotFmts, hd] using hlegal
    have hwa : fmtWidth (effOf s).a = 8 := by rcases ha with h | h <;> rw [h] <;> rfl
    have hwb : fmtWidth (effOf s).b = 8 := by rcases hb with h | h <;> rw [h] <;> rfl
    have hall : j < groupElems a (fmtWidth (effOf s).a) / 4 := by rw [hwa, groupElems, groupRegs]; omega
    have hfa : isFloatFmt (effOf s).a = false := by rcases ha with h | h <;> rw [h] <;> rfl
    have hfb : isFloatFmt (effOf s).b = false := by rcases hb with h | h <;> rw [h] <;> rfl
    have hdot := dot4Elem_integer (s := s) (a := a) (e := effOf s) (by rw [hd]; rfl) hfa hfb hm j
    have h32 : fmtWidth (effOf s).d = 32 := by rw [hd]; rfl
    simp only [hwa, hwb, h32] at hdot
    refine ⟨t, ht, ?_⟩
    rw [hval, decide_eq_true hall, Bool.and_true]
    split
    · rw [Int.natCast_mod, hdot]
      exact Int.emod_emod_of_dvd _ dvd_rfl
    · rfl

end Sys2Proof.Machine
end

section
/-!
PROOF. Slides, the permute and the select (R146, R168): what moves elements and raises no flag.
-/

namespace Sys2Proof.Machine

/-! ## The destination group of a custom-1 instruction (R26) -/

theorem vtRule_custom1_d : ∀ op : BitVec 5, (vtRule .custom1 op.toNat).all (fun r => r.d == .v) = true := by decide

theorem vtOk_of_wf {i : Instr} {sp : Space} {op : BitVec 5} {a : VT} (hvt : i.vt = some (sp, op, a)) (hwf : i.wf = true) :
    ∃ r, vtRule sp op.toNat = some r ∧ vtOk sp r a = true := by
  unfold Instr.wf at hwf
  rw [hvt] at hwf
  cases hr : vtRule sp op.toNat with
  | none => simp [hr] at hwf
  | some r => exact ⟨r, rfl, by simpa [hr] using hwf⟩

theorem custom1_wf_d {i : Instr} {op : BitVec 5} {a : VT} (hvt : i.vt = some (.custom1, op, a)) (hwf : i.wf = true) :
    a.d.toNat + 2 ^ a.w.toNat ≤ 32 := by
  obtain ⟨r, hr, hok⟩ := vtOk_of_wf hvt hwf
  have hd := vtRule_custom1_d op
  rw [hr] at hd
  exact vtOk_custom1_d (by simpa using hd) hok

/-! ## Moved elements raise no flag -/

theorem or_no_flags (f : Flags) : f ||| 0 = f := BitVec.or_zero

theorem joinFlags_zeros : ∀ {l : List Flags}, (∀ f ∈ l, f = 0) → joinFlags l = 0
  | [], _ => rfl
  | f :: l, h => by rw [joinFlags, h f (by simp), joinFlags_zeros fun g hg => h g (by simp [hg]), or_no_flags]

theorem elementwise_moves_flags (s : State) (a : VT) (w : Nat) (elem : Nat → Nat) :
    (elementwise s a w fun k => (elem k, 0)).2 = 0 := by
  apply joinFlags_zeros
  simp only [List.map_map, List.mem_map, Function.comp_apply, forall_exists_index, and_imp]
  rintro f x - rfl
  split <;> rfl

theorem fillGroup_user {a : VT} {r : Nat × Flags} {s : State} (h : r.2 = 0) : (fillGroup a r s).user = s.user := by
  rw [fillGroup, h, retire_user, raiseFlags, or_no_flags, writeGroup_eq]

/-! ## vsel (R146) -/

/-- Element `k` of the operand that the mask picks. -/
def selected (s : State) (a : VT) (w k : Nat) : Nat :=
  if velem s 0 a w k % 2 = 1 then velem s a.s1 a w k else velem s a.s2 a w k

/-- The elements of a `vsel`, packed. -/
def selection (s : State) (a : VT) (w : Nat) : Nat := packElems w ((List.range (groupElems a w)).map (selected s a w))

theorem selection_eq (s : State) (a : VT) (w : Nat) :
    packElems w (((List.range (groupElems a w)).zip (activeBits s { a with m := true } w (groupElems a w))).map fun x =>
      elemAt w (vval s (if x.2 then a.s1 else a.s2) a.w) x.1) = selection s a w := by
  rw [zip_activeBits, List.map_map, selection]
  refine congrArg (packElems w) (List.map_congr_left fun k _ => ?_)
  simp only [Function.comp_apply, selected, activeAt, velem, Bool.not_true, Bool.false_or, beq_iff_eq]
  exact apply_ite (fun r => elemAt w (vval s r a.w) k) _ _ _

theorem selection_lt (s : State) (a : VT) (w : Nat) : selection s a w < 2 ^ (512 * 2 ^ a.w.toNat) := by
  refine (packElems_lt w _).trans_le (Nat.pow_le_pow_right (by decide) ?_)
  rw [List.length_map, List.length_range, groupElems, groupRegs, Nat.mul_comm 512]
  exact Nat.div_mul_le_self _ _

theorem elemAt_selection {s : State} {a : VT} {w k : Nat} (hk : k < groupElems a w) :
    elemAt w (selection s a w) k = selected s a w k := by
  rw [selection, elemAt_packElems w (by rw [List.getElem?_map, List.getElem?_range hk]; rfl), selected]
  split <;> exact Nat.mod_eq_of_lt (elemAt_lt w _ k)

theorem vsel_executes {a : VT} {s : State} (hr : vecReady (.vsel a) s = true) :
    exec (.vsel a) s = .next (fillGroup a (selection s a (fmtWidth (effOf s).d), 0) s) := by
  have e : exec (.vsel a) s = execVsel a s := rfl
  rw [e, execVsel]
  simp only [selection_eq]
  exact vecInstr_fills (i := .vsel a)
    (h := ⟨a, false, fun e => sameFmts e && noRounding e, [vOp1 a, vOp2 a, (vRegs 0 a, false)]⟩) rfl hr
    fun s e => (selection s a (fmtWidth e.d), 0)

theorem vsel_element {a : VT} {s : State} {k : Nat} (hr : vecReady (.vsel a) s = true)
    (hk : k < groupElems a (fmtWidth (effOf s).d)) : ∃ t, exec (.vsel a) s = .next t ∧ t.user = s.user ∧
      velem t a.d a (fmtWidth (effOf s).d) k = selected s a (fmtWidth (effOf s).d) k := by
  refine ⟨_, vsel_executes hr, fillGroup_user rfl, ?_⟩
  rw [velem_fillGroup (custom0_wf_d rfl (vecReady_wf (i := .vsel a) rfl hr)) (selection_lt _ _ _)]
  exact elemAt_selection hk

/-! ## vslup, vsldn and vperm (R168) -/

/-- Element `j` of the source, or zero where there is none. -/
def sourceOrZero (s : State) (a : VT) (w : Nat) (j : Option Nat) : Nat := (j.map (velem s a.s1 a w)).getD 0

theorem sourceOrZero_lt (s : State) (a : VT) (w : Nat) (j : Option Nat) : sourceOrZero s a w j < 2 ^ w := by
  cases j with
  | none => exact Nat.two_pow_pos w
  | some j => exact elemAt_lt w _ j

theorem sourceOrZero_ite (s : State) (a : VT) (w : Nat) (p : Prop) [Decidable p] (j : Nat) :
    sourceOrZero s a w (if p then some j else none) = if p then velem s a.s1 a w j else 0 := by
  split <;> rfl

/-- A slide or a permute puts into each active element the source element that it names, or zero. -/
theorem moveElems_element {i : Instr} {op : BitVec 5} {a : VT} {legal : Eff → Bool} {src2 : Operand} {s : State} {k : Nat}
    (hvt : i.vt = some (.custom1, op, a))
    (hs : vecShape i = some ⟨a, false, fun e => movableFmt e.d && (e.p.a == 31 || e.p.a == e.d) && noRounding e && legal e,
      [vOp1 a, src2] ++ maskOps a true⟩)
    (from_ : State → Eff → Nat → Nat → Option Nat) (hexec : exec i s = moveElems i a legal src2 from_ s)
    (hr : vecReady i s = true) (hk : k < groupElems a (fmtWidth (effOf s).d)) :
    let w := fmtWidth (effOf s).d
    ∃ t, exec i s = .next t ∧ t.user = s.user ∧ velem t a.d a w k =
      if activeAt s a w k then sourceOrZero s a w (from_ s (effOf s) (groupElems a w) k) else velem s a.d a w k := by
  intro w
  refine ⟨_, hexec.trans (vecInstr_fills hs hr _), fillGroup_user (elementwise_moves_flags _ _ _ _), ?_⟩
  rw [velem_fillGroup (custom1_wf_d hvt (vecReady_wf hs hr)) (elementwise_lt s a w _), elemAt_elementwise s a w _ hk]
  split
  next => exact Nat.mod_eq_of_lt (sourceOrZero_lt s a w _)
  next => rfl

section
variable {a : VT} {s : State} {k : Nat} (hk : k < groupElems a (fmtWidth (effOf s).d))
include hk

theorem vslup_element (hr : vecReady (.vslup a) s = true) :
    let w := fmtWidth (effOf s).d
    let amount := (xval s a.s2).toNat
    ∃ t, exec (.vslup a) s = .next t ∧ t.user = s.user ∧ velem t a.d a w k =
      if activeAt s a w k then (if amount ≤ k then velem s a.s1 a w (k - amount) else 0) else velem s a.d a w k := by
  simpa only [sourceOrZero_ite] using moveElems_element (i := .vslup a) (op := 7) rfl rfl _
    (show exec (.vslup a) s = execVslup a s from rfl) hr hk

theorem vsldn_element (hr : vecReady (.vsldn a) s = true) :
    let w := fmtWidth (effOf s).d
    let amount := (xval s a.s2).toNat
    ∃ t, exec (.vsldn a) s = .next t ∧ t.user = s.user ∧ velem t a.d a w k =
      if activeAt s a w k then (if k + amount < groupElems a w then velem s a.s1 a w (k + amount) else 0)
      else velem s a.d a w k := by
  simpa only [sourceOrZero_ite] using moveElems_element (i := .vsldn a) (op := 8) rfl rfl _
    (show exec (.vsldn a) s = execVsldn a s from rfl) hr hk

theorem vperm_element (hr : vecReady (.vperm a) s = true) :
    let w := fmtWidth (effOf s).d
    let j := velem s a.s2 a w k
    ∃ t, exec (.vperm a) s = .next t ∧ t.user = s.user ∧ velem t a.d a w k =
      if activeAt s a w k then (if j < groupElems a w then velem s a.s1 a w j else 0) else velem s a.d a w k := by
  simpa only [sourceOrZero_ite] using moveElems_element (i := .vperm a) (op := 9) rfl rfl
    (fun s e n k => if velem s a.s2 a (fmtWidth e.d) k < n then some (velem s a.s2 a (fmtWidth e.d) k) else none)
    (show exec (.vperm a) s = execVperm a s from rfl) hr hk

end

/-- Settles O18: `vsel` by the elements that it packs, slides and the permute by the source element of each. -/
theorem vectorMovesElements : Obligations.VectorMovesElements :=
  ⟨fun _ _ _ hr => vsel_element hr, fun _ _ _ hk => ⟨vslup_element hk, vsldn_element hk, vperm_element hk⟩⟩

end Sys2Proof.Machine
end

section
/-!
PROOF. The start of an off-core operation with vector or tile registers, and the issue of its requests (R44, R47, R120).
-/

namespace Sys2Proof.Machine

/-! ## Registers marked EMPTY (R53) -/

theorem foldl_setRegState_eq (st : RegState) : ∀ (regs : List RegName) (s : State), (∀ n, .x n ∉ regs) →
    let t := regs.foldl (fun t r => setRegState r st t) s
    t = { s with hart := { s.hart with v := t.hart.v, m := t.hart.m } }
  | [], _, _ => rfl
  | .x n :: _, _, h => absurd (by simp) (h n)
  | .v n :: regs, s, h => foldl_setRegState_eq st regs (setRegState (.v n) st s) fun k hk => h k (by simp [hk])
  | .m n :: regs, s, h => foldl_setRegState_eq st regs (setRegState (.m n) st s) fun k hk => h k (by simp [hk])

/-- Marking a vector or tile destination changes v and tile registers alone. -/
theorem setEmpty_eq {d : Dest} (hd : ∀ n, d ≠ .x n) (pc : Word) (s : State) : setEmpty d pc s =
    { s with hart := { s.hart with v := (setEmpty d pc s).hart.v, m := (setEmpty d pc s).hart.m } } := by
  refine foldl_setRegState_eq _ _ s fun n hn => ?_
  cases d with
  | nothing => simp [Dest.regs] at hn
  | x k => exact hd k rfl
  | v base count => simp [Dest.regs, vGroup] at hn
  | m base count => simp [Dest.regs, mGroup] at hn

theorem setEmpty_v_succ (base n : Nat) (pc : Word) (s : State) :
    setEmpty (.v base (n + 1)) pc s = setRegState (.v (base + n)) (.empty pc) (setEmpty (.v base n) pc s) := by
  simp [setEmpty, Dest.regs, vGroup, List.range_succ]

theorem setEmpty_m_succ (base n : Nat) (pc : Word) (s : State) :
    setEmpty (.m base (n + 1)) pc s = setRegState (.m (base + n)) (.empty pc) (setEmpty (.m base n) pc s) := by
  simp [setEmpty, Dest.regs, mGroup, List.range_succ]

theorem getV_setEmpty {base : Nat} (pc : Word) (s : State) (k : Nat) : ∀ {n : Nat}, base + n ≤ 32 →
    getV (setEmpty (.v base n) pc s) k =
      if base ≤ k ∧ k < base + n then { getV s k with st := .empty pc } else getV s k
  | 0, _ => by rw [if_neg (by omega)]; rfl
  | n + 1, h => by
    have ih (k : Nat) := getV_setEmpty pc s k (base := base) (n := n) (by omega)
    rw [setEmpty_v_succ, setRegState, getV_putV, ih, ih]
    by_cases hk : k = base + n
    · subst hk
      rw [if_pos ⟨rfl, by omega⟩, if_neg (by omega), if_pos (by omega)]
    · rw [if_neg (by tauto)]
      exact if_congr (by omega) rfl rfl

theorem getM_setEmpty {base : Nat} (pc : Word) (s : State) (k : Nat) : ∀ {n : Nat}, base + n ≤ 16 →
    getM (setEmpty (.m base n) pc s) k =
      if base ≤ k ∧ k < base + n then { getM s k with st := .empty pc } else getM s k
  | 0, _ => by rw [if_neg (by omega)]; rfl
  | n + 1, h => by
    have ih (k : Nat) := getM_setEmpty pc s k (base := base) (n := n) (by omega)
    rw [setEmpty_m_succ, setRegState, getM_putM, ih, ih]
    by_cases hk : k = base + n
    · subst hk
      rw [if_pos ⟨rfl, by omega⟩, if_neg (by omega), if_pos (by omega)]
    · rw [if_neg (by tauto)]
      exact if_congr (by omega) rfl rfl

/-- A new operation with a vector or tile destination, as one update. -/
theorem startJob_eq {j : Job} (hd : ∀ n, j.dest ≠ .x n) (next : Word) (s : State) : startJob j next s =
    { s with
      hart := { s.hart with v := (setEmpty j.dest j.pc s).hart.v, m := (setEmpty j.dest j.pc s).hart.m }
      off := { s.off with jobs := s.off.jobs ++ [j], nextId := s.off.nextId + 1 } } := by
  have e := setEmpty_eq hd j.pc s
  have hs : startJob j next s = { setEmpty j.dest j.pc s with
      off := { (setEmpty j.dest j.pc s).off with
        jobs := (setEmpty j.dest j.pc s).off.jobs ++ [j], nextId := (setEmpty j.dest j.pc s).off.nextId + 1 } } := by
    unfold startJob
    split
    next h => exact absurd h (hd 0)
    all_goals rfl
  rw [hs, e]

/-! ## The issue of requests (R120) -/

/-- What an operation keeps while its requests are issued. -/
def jobIdentity (j : Job) : Nat × Dest × Word × BitVec 8 := (j.id, j.dest, j.pc, j.cls)

/-- What the issue of requests changes: the station's translations with their A and D bits, what is pending, and the requests
of the operations. -/
def Issues (s t : State) : Prop :=
  t = { s with
    mem := t.mem, stn := t.stn, hart := { s.hart with resv := t.hart.resv }
    ras := { s.ras with poison := t.ras.poison }, off := { s.off with jobs := t.off.jobs }, fab := t.fab, sched := t.sched } ∧
  t.off.jobs.map jobIdentity = s.off.jobs.map jobIdentity

theorem Issues.refl (s : State) : Issues s s := ⟨rfl, rfl⟩

theorem Issues.trans {s t u : State} (h : Issues s t) (g : Issues t u) : Issues s u := by
  obtain ⟨h, hj⟩ := h
  obtain ⟨g, gj⟩ := g
  refine ⟨?_, gj.trans hj⟩
  rw [h] at g
  exact g

theorem OnlyPackets.issues {s t : State} (h : OnlyPackets s t) : Issues s t := by
  unfold OnlyPackets at h
  rw [h]
  exact ⟨rfl, rfl⟩

theorem issues_translate (s : State) (st : Nat) (pid : Pid) (va : Word) (kind : AccessKind) :
    Issues s (translate s st pid va kind).1 := by
  have e := translate_state s st pid va kind
  dsimp only at e
  rw [e]
  exact ⟨rfl, rfl⟩

theorem map_updateFirst {α β : Type} {f : α → α} {g : α → β} (hf : ∀ a, g (f a) = g a) (p : α → Bool) :
    ∀ l : List α, (updateFirst p f l).map g = l.map g
  | [] => rfl
  | a :: l => by
    rw [updateFirst]
    split
    · simp [hf]
    · simp [map_updateFirst hf p l]

theorem issues_updateJob {f : Job → Job} (hf : ∀ j, jobIdentity (f j) = jobIdentity j) (id : Nat) (s : State) :
    Issues s (updateJob id f s) :=
  ⟨rfl, map_updateFirst hf _ _⟩

theorem onlyPackets_reply_job (id no : Nat) (r : Response) (s : State) : OnlyPackets s (reply (.job id no) r s) := rfl

/-- A read for an operation is handed to its home, or its failure is answered. -/
theorem onlyPackets_postTo_homeRead (pkg : Nat) (ch : Channel) (key len id no : Nat) (s : State) :
    OnlyPackets s (postTo pkg ch (.homeRead key len (.job id no)) s) := by
  unfold postTo
  dsimp only
  split
  · exact onlyPackets_enter _ _
  · split
    · split
      · exact onlyPackets_postOut _ _ _ _ _ _ _ _
      · exact onlyPackets_reply_job _ _ _ _
    · split
      · exact onlyPackets_postIn _ _ _ _ _ _ _ _
      · exact onlyPackets_enter _ _

theorem issues_issueTranslated (id : Nat) (p : Part) (s : State) : Issues s (issueTranslated id p s) := by
  have htrans := issues_translate s (stationOf (ownCore s)) p.pid p.va .load
  unfold issueTranslated
  cases hx : translate s (stationOf (ownCore s)) p.pid p.va .load with
  | mk u r =>
    rw [hx] at htrans
    have htaken (f : Job → Job) (hf : ∀ j, jobIdentity (f j) = jobIdentity j) : Issues s (updateJob id f u) :=
      htrans.trans (issues_updateJob hf id u)
    cases r with
    | error d => exact (htaken _ fun _ => by rfl).trans (onlyPackets_reply_job _ _ _ _).issues
    | ok x =>
      dsimp only
      generalize (if (leafOrd x.leaf || leafNrb x.leaf || x.aperture == 2) = true then none
        else some (strandTag p.pid p.va, u.off.epoch)) = fill
      split
      · exact (htaken _ fun _ => by rfl).trans (onlyPackets_reply_job _ _ _ _).issues
      · generalize (if (leafOrd x.leaf || leafNrb x.leaf || x.aperture == 2) = true then none else Tab.find? _ _) = line
        split
        · exact (htaken _ fun _ => by rfl).trans (onlyPackets_reply_job _ _ _ _).issues
        · exact (htaken _ fun _ => by rfl).trans (onlyPackets_postTo_homeRead _ _ _ _ _ _ _).issues

theorem onlyPackets_postAll (evs : List Instr) (s : State) : OnlyPackets s (postAll evs s) :=
  onlyPackets_foldl (fun _ _ => onlyPackets_enter _ _) evs s

theorem issues_issueGroup (id : Nat) (p : Part) (s : State) : Issues s (issueGroup id p s) :=
  (issues_updateJob (fun _ => by rfl) id s).trans (onlyPackets_postAll _ _).issues

theorem issues_issueLoad (id : Nat) (p : Part) (s : State) : Issues s (issueLoad id p s) := by
  unfold issueLoad
  split
  · exact issues_issueGroup id p s
  · exact issues_issueTranslated id p s

theorem issues_pump : ∀ (n : Nat) (s : State), Issues s (pump n s)
  | 0, s => Issues.refl s
  | n + 1, s => by
    rw [pump]
    split
    · exact Issues.refl s
    · split
      · exact Issues.refl s
      · split
        · exact ((issues_updateJob (fun _ => by rfl) _ s).trans (issues_issueLoad _ _ _)).trans (issues_pump n _)
        · exact Issues.refl s

/-! ## Requests to group space (R292) -/

/-- Every request that still waits to issue is one to group space. -/
def WaitsForGroup (s : State) : Prop := ∀ j ∈ s.off.jobs, ∀ p ∈ j.waiting, classOf p.va = .group

theorem forall_mem_updateFirst {α : Type} {P : α → Prop} {p : α → Bool} {f : α → α} (hf : ∀ a, P a → P (f a)) :
    ∀ {l : List α}, (∀ a ∈ l, P a) → ∀ a ∈ updateFirst p f l, P a
  | [], _ => by simp [updateFirst]
  | a :: l, h => by
    obtain ⟨ha, hl⟩ := List.forall_mem_cons.1 h
    rw [updateFirst]
    split
    · exact List.forall_mem_cons.2 ⟨hf a ha, hl⟩
    · exact List.forall_mem_cons.2 ⟨ha, forall_mem_updateFirst hf hl⟩

theorem issueGroup_mem (id : Nat) (p : Part) (s : State) : (issueGroup id p s).mem = s.mem := by
  rw [issueGroup, onlyPackets_postAll]
  rfl

theorem waitsForGroup_issueGroup {s : State} (h : WaitsForGroup s) (id : Nat) (p : Part) :
    WaitsForGroup (issueGroup id p s) := by
  unfold WaitsForGroup
  rw [issueGroup, onlyPackets_postAll]
  exact forall_mem_updateFirst (P := fun j : Job => ∀ p ∈ j.waiting, classOf p.va = .group) (fun _ hj => by exact hj) h

/-- Requests to group space change no memory when they issue. -/
theorem pump_mem_of_waitsForGroup : ∀ (n : Nat) {s : State}, WaitsForGroup s → (pump n s).mem = s.mem
  | 0, _, _ => rfl
  | n + 1, s, h => by
    rw [pump]
    split
    · rfl
    next j hj =>
      split
      · rfl
      next p rest hp =>
        have hwait := h j (List.mem_of_find?_eq_some hj)
        rw [hp] at hwait
        obtain ⟨hgroup, hrest⟩ := List.forall_mem_cons.1 hwait
        have htaken : WaitsForGroup (updateJob j.id (fun k => { k with waiting := rest }) s) :=
          forall_mem_updateFirst (P := fun j : Job => ∀ p ∈ j.waiting, classOf p.va = .group) (fun _ _ => by exact hrest) h
        split
        · rw [issueLoad, if_pos hgroup, pump_mem_of_waitsForGroup n (waitsForGroup_issueGroup htaken _ _), issueGroup_mem]
          rfl
        · rfl

/-! ## What the instruction leaves -/

/-- The hart has gone on behind a new operation, with its destination marked EMPTY. -/
structure StartsJob (s t : State) (j : Job) : Prop where
  pc : t.hart.pc = (retiredHart s).pc
  x : t.hart.x = s.hart.x
  v : t.hart.v = (setEmpty j.dest j.pc s).hart.v
  m : t.hart.m = (setEmpty j.dest j.pc s).hart.m
  mach : t.mach = retiredMach s
  nextId : t.off.nextId = s.off.nextId + 1
  jobs : ∃ k, t.off.jobs = [k] ∧ jobIdentity k = jobIdentity j

/-- An operation that starts with nothing else outstanding, and some requests issued. -/
theorem startsJob_retire {s u : State} {j : Job} (hd : ∀ n, j.dest ≠ .x n) (hjobs : s.off.jobs = []) {next : Word}
    (h : Issues (startJob j next s) u) : StartsJob s (retire u) j := by
  obtain ⟨hu, hids⟩ := h
  rw [startJob_eq hd, hjobs] at hu hids
  obtain ⟨k, hk, hkj⟩ : ∃ k, u.off.jobs = [k] ∧ jobIdentity k = jobIdentity j := by
    simpa [List.map_eq_singleton_iff] using hids
  have hpc : u.hart.pc = s.hart.pc := by rw [hu]
  obtain ⟨hend, -, -⟩ := endTest_congr (s.hart.pc + 4) hpc (by rw [hu]) (by rw [hu])
  rw [retire_eq]
  refine ⟨?pc, ?x, ?v, ?m, ?mach, ?nextId, k, hk, hkj⟩
  case pc => simp only [retiredHart, hpc, hend]
  case mach => simp only [retiredMach]; rw [hu]
  case nextId => dsimp only; rw [hu]
  all_goals simp only [retiredHart]; rw [hu]

theorem setEmpty_v_tiles (base : Nat) (pc : Word) (s : State) : ∀ n, (setEmpty (.v base n) pc s).hart.m = s.hart.m
  | 0 => rfl
  | n + 1 => by rw [setEmpty_v_succ, ← setEmpty_v_tiles base pc s n]; rfl

theorem setEmpty_m_vectors (base : Nat) (pc : Word) (s : State) : ∀ n, (setEmpty (.m base n) pc s).hart.v = s.hart.v
  | 0 => rfl
  | n + 1 => by rw [setEmpty_m_succ, ← setEmpty_m_vectors base pc s n]; rfl

theorem StartsJob.emptiesGroup {s t : State} {j : Job} {base n : Nat} (h : StartsJob s t j) (hj : j.dest = .v base n)
    (hn : base + n ≤ 32) : (∀ r, base ≤ r → r < base + n → regState t (.v r) = .empty j.pc) ∧
      (∀ r, r < base ∨ base + n ≤ r → getV t r = getV s r) ∧ t.hart.x = s.hart.x ∧ t.hart.m = s.hart.m := by
  have hv (r : Nat) : getV t r = getV (setEmpty (.v base n) j.pc s) r := getV_congr (by rw [h.v, hj]) r
  refine ⟨fun r hr hr' => ?_, fun r hr => ?_, h.x, by rw [h.m, hj, setEmpty_v_tiles]⟩
  · rw [regState, hv, getV_setEmpty _ _ _ hn, if_pos ⟨hr, hr'⟩]
  · rw [hv, getV_setEmpty _ _ _ hn, if_neg (by omega)]

theorem StartsJob.emptiesTiles {s t : State} {j : Job} {base n : Nat} (h : StartsJob s t j) (hj : j.dest = .m base n)
    (hpc : j.pc = s.hart.pc) (hn : base + n ≤ 16) : EmptiesTiles s t base n := by
  have hm (r : Nat) : getM t r = getM (setEmpty (.m base n) j.pc s) r := getM_congr (by rw [h.m, hj]) r
  refine ⟨fun r hr hr' => ?_, fun r hr => ?_, h.x, by rw [h.v, hj, setEmpty_m_vectors]⟩
  · rw [regState, hm, getM_setEmpty _ _ _ hn, if_pos ⟨hr, hr'⟩, hpc]
  · rw [hm, getM_setEmpty _ _ _ hn, if_neg (by omega)]

/-! ## Checks with nothing outstanding (R49, R220, R227) -/

theorem quiet_iff {s : State} : quiet s = true ↔
    s.off.jobs = [] ∧ s.off.drain = [] ∧ s.sup.dheld = false ∧ s.hart.storesDone = 0 := by
  simp [quiet, and_assoc]

section
variable {s : State} (hq : quiet s = true)
include hq

theorem checkAccess_quiet : checkAccess s = none := by
  obtain ⟨hjobs, hdrain, -, -⟩ := quiet_iff.1 hq
  exact stopIf_none (by simp [accessBlocked, acquirePending, ordPending, drainStores, hjobs, hdrain])

theorem slotsUsed_quiet : slotsUsed s ≤ 1 := by
  obtain ⟨hjobs, -, -, -⟩ := quiet_iff.1 hq
  rw [slotsUsed, hjobs, responseOut]
  split <;> decide

theorem canIssue_quiet : canIssue s = true := by
  have hslots := slotsUsed_quiet hq
  obtain ⟨hjobs, hdrain, -, -⟩ := quiet_iff.1 hq
  have hops : opsUsed s ≤ 1 := by
    rw [opsUsed, issuedParts, drainStores, hjobs, hdrain, responseOut]
    split <;> decide
  simp only [canIssue, hjobs, List.all_nil, Bool.and_true, Bool.and_eq_true, decide_eq_true_eq]
  omega

theorem hitsAtomic_quiet (ea : Word) (len : Nat) : hitsAtomic s ea len = false := by
  obtain ⟨hjobs, -, -, -⟩ := quiet_iff.1 hq
  rw [hitsAtomic, hjobs]
  rfl

end

end Sys2Proof.Machine
end

section
/-!
PROOF. Group loads, tile loads, and the traps of tile addresses (R162, R167, R198, R292).
-/

namespace Sys2Proof.Machine

/-! ## Checks in their order (R55) -/

theorem firstStop_none {s : State} : ∀ {l : List Check}, (∀ c ∈ l, c s = none) → firstStop l s = none
  | [], _ => rfl
  | c :: l, h => by
    obtain ⟨hc, hl⟩ := List.forall_mem_cons.1 h
    rw [firstStop_cons_none hc, firstStop_none hl]

theorem firstStop_append_none {s : State} {l : List Check} (h : ∀ c ∈ l, c s = none) (r : List Check) :
    firstStop (l ++ r) s = firstStop r s := by
  induction l with
  | nil => rfl
  | cons c l ih =>
    obtain ⟨hc, hl⟩ := List.forall_mem_cons.1 h
    rw [List.cons_append, firstStop_cons_none hc, ih hl]

theorem firstStop_append_some {s t : State} (r : List Check) : ∀ {l : List Check}, firstStop l s = some t →
    firstStop (l ++ r) s = some t
  | [], h => by simp [firstStop] at h
  | c :: l, h => by
    cases hc : c s with
    | some u => rw [List.cons_append, firstStop_cons_some hc, ← h, firstStop_cons_some hc]
    | none =>
      rw [firstStop_cons_none hc] at h
      rw [List.cons_append, firstStop_cons_none hc, firstStop_append_some r h]

/-! ## vgld (R167, R292) -/

/-- The operation that a `vgld` starts. -/
def vgldJob (s : State) (a : VT) : Job :=
  loadJob s (.v a.d.toNat (vgldRegs a (xval s a.s1))) 5 .image (List.replicate (64 * vgldRegs a (xval s a.s1)) 0)
    (vgldParts s a (xval s a.s1))

theorem checkGroupIssue_quiet {s : State} (hq : quiet s = true) (ea : State → Word) : checkGroupIssue ea s = none := by
  have hslots := slotsUsed_quiet hq
  refine if_pos ?_
  rw [canIssue_quiet hq, Bool.true_and, decide_eq_true_eq]
  split <;> omega

/-- What `vgld` accepts of an address: a group of group space with its elements within the clearing (R167, R294). -/
theorem vgldOk_iff {a : VT} {ea : Word} : vgldOk a ea = true ↔ classOf ea = .group ∧ groupAddrOk ea = true ∧
    groupOffset ea % groupBytes ea = 0 ∧ groupOffset ea + vgldElems a ea * groupBytes ea ≤ 2 ^ 19 ∧
    (groupIsSkip ea = true → a.w = 0 ∧ a.d.toNat % 2 = 0) := by
  cases h : groupIsSkip ea <;> simp [vgldOk, h, and_assoc]

/-- The elements of a `vgld` that does not skip fill its registers. -/
theorem vgldElems_bytes {a : VT} {ea : Word} (hskip : groupIsSkip ea = false) :
    vgldElems a ea * groupBytes ea = 64 * groupRegs a.w := by
  have hw : fmtWidth (groupFmt (groupType ea)) ∈ [16, 32, 64] := by
    unfold groupFmt
    split_ifs with h
    · generalize groupType ea = t at h
      interval_cases t <;> decide
    all_goals decide
  rw [vgldElems, hskip, if_neg Bool.false_ne_true, groupBytes, groupElems]
  simp only [List.mem_cons, List.not_mem_nil, or_false] at hw
  rcases hw with h | h | h <;> rw [h] <;> omega

/-- Within a clearing an address of group space stays one. -/
theorem classOf_group_add {ea : Word} {k : Nat} (h : classOf ea = .group) (hk : groupOffset ea + k < 2 ^ 19) :
    classOf (ea + place k 0) = .group := by
  have hea : 0xFFF0000000000000 ≤ ea.toNat := by
    by_contra hlt
    simp only [classOf, if_pos (not_le.1 hlt)] at h
    split_ifs at h
  have hoff : groupOffset ea = ea.toNat % 2 ^ 19 := by rw [groupOffset, field, Nat.shiftRight_zero]
  have hsum : (ea + place k 0).toNat = ea.toNat + k := by
    rw [place_zero, BitVec.toNat_add, BitVec.toNat_ofNat]
    have := ea.isLt
    omega
  rw [classOf, hsum, if_neg (by omega), if_neg (by omega), if_neg (by omega)]

theorem vgldParts_group {s : State} {a : VT} {ea : Word} (hok : vgldOk a ea = true) :
    ∀ p ∈ vgldParts s a ea, classOf p.va = .group := by
  obtain ⟨hclass, -, -, hfit, -⟩ := vgldOk_iff.1 hok
  intro p hp
  unfold vgldParts at hp
  split at hp
  next =>
    obtain rfl := List.mem_singleton.1 hp
    exact hclass
  next hskip =>
    obtain ⟨i, hi, rfl⟩ := List.mem_map.1 hp
    rw [vgldElems_bytes (by simpa using hskip)] at hfit
    exact classOf_group_add hclass (by have := List.mem_range.1 hi; omega)

section
variable {a : VT} {s : State} (hp : prefixOk false (fun e => e.p.a == 31 && e.p.b == 31 && noRounding e) s = true)
  (hok : vgldOk a (xval s a.s1) = true) (hfmt : vgldFmtBad s (xval s a.s1) = false)
  (hr : readyWithPrefix s (xs [a.s1]) (vGroup a.d.toNat (vgldRegs a (xval s a.s1))) = true) (hq : quiet s = true)
include hp hok hfmt hr hq

theorem vgld_executes : exec (.vgld a) s = .next (retire (pump 64 (startJob (vgldJob s a) (nextPc s) s))) := by
  obtain ⟨he, hs, hd⟩ := readyWithPrefix_iff.1 hr
  have e : exec (.vgld a) s = execVgld a s := rfl
  rw [e, execVgld, instr_eq_next]
  · rfl
  · refine firstStop_none ?_
    simp only [List.forall_mem_cons]
    exact ⟨checkPrefix_none _ hp, checkSources_srcX (l := [a.s1]) he hs fun _ => a.e1, stopIf_none hfmt, if_pos hok,
      checkDest_none hd, checkAccess_quiet hq, checkGroupIssue_quiet hq _, by simp⟩

omit hp hfmt hr hq in
theorem vgld_group (hwf : (Instr.vgld a).wf = true) : a.d.toNat + vgldRegs a (xval s a.s1) ≤ 32 := by
  obtain ⟨-, -, -, -, hskip⟩ := vgldOk_iff.1 hok
  unfold vgldRegs
  split
  next h =>
    have := (hskip h).2
    have := reg_lt a.d
    omega
  next => exact custom1_wf_d (op := 6) rfl hwf

omit hp hfmt hr in
/-- The requests of a `vgld` change no memory. -/
theorem vgld_memory : (pump 64 (startJob (vgldJob s a) (nextPc s) s)).mem = s.mem := by
  obtain ⟨hjobs, -, -, -⟩ := quiet_iff.1 hq
  have hd (n : Nat) : (vgldJob s a).dest ≠ .x n := by simp [vgldJob, loadJob]
  rw [pump_mem_of_waitsForGroup 64, startJob_eq hd]
  rw [WaitsForGroup, startJob_eq hd, hjobs]
  simp only [List.nil_append, List.mem_singleton, forall_eq]
  exact vgldParts_group hok

end

theorem vgld_startsJob {a : VT} {s : State} (hq : quiet s = true) :
    StartsJob s (retire (pump 64 (startJob (vgldJob s a) (nextPc s) s))) (vgldJob s a) := by
  obtain ⟨hjobs, -, -, -⟩ := quiet_iff.1 hq
  exact startsJob_retire (by simp [vgldJob, loadJob]) hjobs (issues_pump 64 _)

/-! ## The checks of tld and tst (R176, R198) -/

/-- Prefixes, format and shape are accepted. -/
def TileMoveOk (s : State) (a : VT) : Prop :=
  prefixOk false tileMoveFmts s = true ∧ tilesInCount s a.d.toNat (destSpan a) = true ∧
    tileFmt (moveShape s a).fmt = true ∧ (moveShape s a).valid (destSpan a) = true

section
variable {s : State} {a : VT} (hok : TileMoveOk s a)
include hok

theorem tileMoveStatic_none (i : Instr) : ∀ c ∈ tileMoveStatic i a, c s = none := by
  obtain ⟨hp, -, hf, -⟩ := hok
  unfold tileMoveStatic
  simp only [List.forall_mem_cons]
  exact ⟨checkPrefix_none i hp, stopIf_none (by simp [badFmt, hf]), by simp⟩

theorem tileMoveShape_none (i : Instr) : tileMoveShape i a s = none := by
  obtain ⟨-, hcount, -, hvalid⟩ := hok
  unfold tileMoveShape arrayIf
  exact stopIf_none (by simp [hcount, hvalid])

end

theorem checkTileAlign_none {s : State} {a : VT} {cause : Nat} (h1 : (xval s a.s1).toNat % 16 = 0)
    (h2 : (xval s a.s2).toNat % 16 = 0) : checkTileAlign cause a s = none :=
  stopIf_none (by simp [h1, h2])

theorem checkTileAlign_some {s : State} {a : VT} {cause : Nat}
    (h : (xval s a.s1).toNat % 16 ≠ 0 ∨ (xval s a.s2).toNat % 16 ≠ 0) :
    checkTileAlign cause a s = some (trap cause (xval s a.s1) s) :=
  stopIf_some (by simpa using h)

/-- The x operands of `tld` and `tst` are among the registers read. -/
theorem xOperands_full {s : State} {a : VT} {regs : List RegName} (hs : ∀ r ∈ xs [a.s1, a.s2] ++ regs, regState s r = .full) :
    ∀ src ∈ [xs1 a, xs2 a], ∀ r ∈ src.1, regState s r = .full := by
  simp only [List.forall_mem_cons]
  refine ⟨fun r hr => hs r ?_, fun r hr => hs r ?_, by simp⟩
  · have := mem_xs_of_mem_srcX hr
    simp_all [xs]
  · have := mem_xs_of_mem_srcX hr
    simp_all [xs]

/-! ## tld (R198) -/

/-- The state with the requests of a `tld` issued; without any request its completion is at once pending. -/
def tldIssued (s : State) (a : VT) : State :=
  let s1 := startJob (tldJob s a) (nextPc s) s
  if (tldJob s a).waiting.isEmpty then post (.producerCompletion (tldJob s a).id 0 (.bytes [])) s1 else pump 64 s1

section
variable {s : State} {a : VT} (hok : TileMoveOk s a) (hr : readyWithPrefix s (xs [a.s1, a.s2]) [] = true)
include hok hr

theorem tld_executes (h1 : (xval s a.s1).toNat % 16 = 0) (h2 : (xval s a.s2).toNat % 16 = 0)
    (hacc : ∀ x ∈ tileElems s a, elemOk s x.2 (moveShape s a).step = true)
    (hfree : tilesFree s (physTile s a.d.toNat) (destSpan a) = true) (hq : quiet s = true) :
    exec (.tld a) s = .next (retire (tldIssued s a)) := by
  obtain ⟨he, hs, -⟩ := readyWithPrefix_iff.1 hr
  have e : exec (.tld a) s = execTld a s := rfl
  have haccess : checkTileAccess 5 a s = none := by
    rw [checkTileAccess, List.find?_eq_none.2 fun x hx => by simp [hacc x hx]]
    rfl
  have hissue : checkTileIssue a s = none := stopIf_none (by simp [canIssue_quiet hq, hitsAtomic_quiet hq])
  rw [e, execTld, instr_eq_next]
  · rfl
  · refine firstStop_none (List.forall_mem_append.2 ⟨tileMoveStatic_none hok _, ?_⟩)
    simp only [List.forall_mem_cons]
    exact ⟨tileMoveShape_none hok _, checkSources_none he (xOperands_full (regs := []) (by simpa using hs)),
      checkTileAlign_none h1 h2, haccess, checkTileDest_none rfl hfree, checkAccess_quiet hq, hissue, by simp⟩

end

theorem tldJob_dest (s : State) (a : VT) (n : Nat) : (tldJob s a).dest ≠ .x n := by simp [tldJob, loadJob]

theorem issues_tldIssued (s : State) (a : VT) : Issues (startJob (tldJob s a) (nextPc s) s) (tldIssued s a) := by
  unfold tldIssued
  dsimp only
  split
  · exact (onlyPackets_enter _ _).issues
  · exact issues_pump 64 _

theorem tld_startsJob {s : State} {a : VT} (hq : quiet s = true) : StartsJob s (retire (tldIssued s a)) (tldJob s a) := by
  obtain ⟨hjobs, -, -, -⟩ := quiet_iff.1 hq
  exact startsJob_retire (tldJob_dest s a) hjobs (issues_tldIssued s a)

/-- A wholly local `tld` makes no request. -/
theorem tldIssued_local {s : State} {a : VT} (h : farCuts s a = []) : tldIssued s a =
    post (.producerCompletion s.off.nextId 0 (.bytes [])) (startJob (tldJob s a) (nextPc s) s) := by
  have hparts : tileParts s a = [] := by rw [tileParts, h]; rfl
  exact if_pos (by simp [tldJob, loadJob, hparts])

theorem tld_local {s : State} {a : VT} (h : farCuts s a = []) : SameMemory s (retire (tldIssued s a)) ∧
    pending (retire (tldIssued s a)) (.producerCompletion s.off.nextId 0 (.bytes [])) := by
  rw [tldIssued_local h, startJob_eq (tldJob_dest s a)]
  refine ⟨fun k => by rw [retire_mem]; rfl, ?_⟩
  rw [retire_eq]
  exact ⟨_, List.mem_append_right _ (List.mem_singleton_self _), rfl, rfl⟩

/-! ## The traps of tile addresses (R162, R198) -/

theorem elemOk_eq_accessOk (s : State) (ea : Word) (n : Nat) : elemOk s ea n = accessOk s ea n := by
  unfold elemOk classOf accessOk
  split_ifs <;> simp_all

/-- The address of the element at byte q × step of row r. -/
theorem rowAddr_add (s : State) (a : VT) (r q step : Nat) : rowAddr s a r + place (q * step) 0 =
    BitVec.ofInt 64 ((xval s a.s1).toInt + r * (xval s a.s2).toInt + q * step) := by
  rw [rowAddr, place_zero, place_zero, BitVec.ofInt_add, BitVec.ofInt_add, BitVec.ofInt_mul, BitVec.ofInt_toInt,
    BitVec.ofInt_toInt, ← Int.natCast_mul, BitVec.ofInt_natCast, BitVec.ofInt_natCast]

/-- Element q of row r, with its address. -/
def rowElem (s : State) (a : VT) (r q : Nat) : Nat × Word :=
  (r * ((moveShape s a).rowBytes / (moveShape s a).step) + q, rowAddr s a r + place (q * (moveShape s a).step) 0)

/-- The first `n` elements of row r. -/
def rowElems (s : State) (a : VT) (n r : Nat) : List (Nat × Word) := (List.range n).map (rowElem s a r)

/-- In front of an element stand the rows above it and the elements before it in its row. -/
theorem tileElems_split {s : State} {a : VT} {r q : Nat} (hr : r < (moveShape s a).rows)
    (hq : q < (moveShape s a).rowBytes / (moveShape s a).step) : ∃ post, tileElems s a =
      ((List.range r).flatMap (rowElems s a ((moveShape s a).rowBytes / (moveShape s a).step)) ++ rowElems s a q r) ++
        rowElem s a r q :: post := by
  obtain ⟨rows, hrows⟩ := range_split hr
  obtain ⟨elems, helems⟩ := range_split hq
  have e : tileElems s a =
      (List.range (moveShape s a).rows).flatMap (rowElems s a ((moveShape s a).rowBytes / (moveShape s a).step)) := rfl
  rw [e, hrows, List.flatMap_append, List.flatMap_cons, rowElems, helems, List.map_append, List.map_cons]
  simp only [List.append_assoc, List.cons_append]
  exact ⟨_, rfl⟩

/-- The lowest element whose access is not accepted. -/
theorem checkTileAccess_some {s : State} {a : VT} {cause r q : Nat} :
    let h := moveShape s a
    let ok (r q : Nat) : Prop := elemOk s (rowElem s a r q).2 h.step = true
    r < h.rows → q < h.rowBytes / h.step → ¬ ok r q → (∀ q', q' < q → ok r q') →
      (∀ r' q', r' < r → q' < h.rowBytes / h.step → ok r' q') →
      checkTileAccess cause a s = some (trap cause (rowElem s a r q).2 s) := by
  intro h ok hr hq hbad hrow habove
  obtain ⟨post, hsplit⟩ := tileElems_split hr hq
  have hpre : ∀ x ∈ (List.range r).flatMap (rowElems s a (h.rowBytes / h.step)) ++ rowElems s a q r,
      ¬ (!elemOk s x.2 h.step) = true := by
    intro x hx
    rcases List.mem_append.1 hx with hx | hx
    · obtain ⟨r', hr', hx⟩ := List.mem_flatMap.1 hx
      obtain ⟨q', hq', rfl⟩ := List.mem_map.1 hx
      simpa using habove r' q' (List.mem_range.1 hr') (List.mem_range.1 hq')
    · obtain ⟨q', hq', rfl⟩ := List.mem_map.1 hx
      simpa using hrow q' (List.mem_range.1 hq')
  rw [checkTileAccess, hsplit, List.find?_append, List.find?_eq_none.2 hpre, Option.none_or,
    List.find?_cons_of_pos (by simpa [ok] using hbad)]
  rfl

/-- The traps of a tile's addresses: alignment before access, and the lowest element (R162). -/
theorem tileAddress_stops (s : State) (a : VT) (misaligned refused : Nat) :
    let h := moveShape s a
    let ea (r q : Nat) : Word := BitVec.ofInt 64 ((xval s a.s1).toInt + r * (xval s a.s2).toInt + q * h.step)
    let ok (r q : Nat) : Prop := accessOk s (ea r q) h.step = true
    let stops := firstStop [checkTileAlign misaligned a, checkTileAccess refused a] s
    ((xval s a.s1).toNat % 16 ≠ 0 ∨ (xval s a.s2).toNat % 16 ≠ 0 → stops = some (trap misaligned (xval s a.s1) s)) ∧
    (∀ r q, (xval s a.s1).toNat % 16 = 0 → (xval s a.s2).toNat % 16 = 0 → r < h.rows → q < h.rowBytes / h.step →
      ¬ ok r q → (∀ q', q' < q → ok r q') → (∀ r' q', r' < r → q' < h.rowBytes / h.step → ok r' q') →
      stops = some (trap refused (ea r q) s)) := by
  intro h ea ok stops
  refine ⟨fun hbase => firstStop_cons_some (checkTileAlign_some hbase), fun r q h1 h2 hr hq hbad hrow habove => ?_⟩
  have hea (r q : Nat) : (rowElem s a r q).2 = ea r q := rowAddr_add s a r q h.step
  simp only [ok, ← hea, ← elemOk_eq_accessOk] at hbad hrow habove
  have haccess := checkTileAccess_some (cause := refused) hr hq hbad hrow habove
  rw [hea] at haccess
  exact (firstStop_cons_none (checkTileAlign_none h1 h2)).trans (firstStop_cons_some haccess)

theorem onceBefore_first {s : State} (h : s.hart.storesDone = 0) (c : Check) : onceBefore c s = c s := if_pos h

theorem checkStoreHeld_none {s : State} (h : s.sup.dheld = false) : checkStoreHeld s = none := stopIf_none (by simp [h])

section
variable {s t : State} {a : VT} (hok : TileMoveOk s a)
include hok

theorem tld_stops (hr : readyWithPrefix s (xs [a.s1, a.s2]) [] = true)
    (h : firstStop [checkTileAlign 4 a, checkTileAccess 5 a] s = some t) : exec (.tld a) s = .next t := by
  obtain ⟨he, hs, -⟩ := readyWithPrefix_iff.1 hr
  have e : exec (.tld a) s = execTld a s := rfl
  rw [e, execTld, instr_eq_stop]
  rw [firstStop_append_none (tileMoveStatic_none hok _), firstStop_cons_none (tileMoveShape_none hok _),
    firstStop_cons_none (checkSources_none he (xOperands_full (regs := []) (by simpa using hs)))]
  exact firstStop_append_some [_, _, _] h

theorem tst_stops (hdone : s.hart.storesDone = 0) (hheld : s.sup.dheld = false)
    (hr : readyWithPrefix s (xs [a.s1, a.s2] ++ tileRegs s a.d.toNat (destSpan a)) [] = true)
    (h : firstStop [checkTileAlign 6 a, checkTileAccess 7 a] s = some t) : exec (.tst a) s = .next t := by
  obtain ⟨he, hs, -⟩ := readyWithPrefix_iff.1 hr
  have e : exec (.tst a) s = execTst a s := rfl
  have hsources : checkSources ([xs1 a, xs2 a] ++ [mSource s a.d.toNat (destSpan a) false]) s = none :=
    checkSources_none he <| List.forall_mem_append.2 ⟨xOperands_full hs,
      List.forall_mem_singleton.2 fun r hr => hs r (List.mem_append_right _ hr)⟩
  rw [e, execTst, instr_eq_stop]
  rw [firstStop_append_none (tileMoveStatic_none hok _),
    firstStop_cons_none ((onceBefore_first hdone _).trans (checkStoreHeld_none hheld)),
    firstStop_cons_none (tileMoveShape_none hok _)]
  refine (firstStop_cons_none ((onceBefore_first hdone _).trans hsources)).trans (firstStop_append_some (l := [_, _]) [_] ?_)
  rw [← h]
  simp only [firstStop, onceBefore_first hdone]

end

/-- Settles O25: `vgld` and `tld` by the operation that they start, and the traps of a tile's addresses by the first check
that stops. -/
theorem groupAndTileLoadsStart : Obligations.GroupAndTileLoadsStart := by
  refine ⟨fun a s hwf hp hok hfmt hr hq => ?vgld, fun a s hp hcount hf hvalid hr h1 h2 hacc hfree hq => ?tld,
    fun i a s h => ?traps⟩
  case vgld =>
    have hstart := vgld_startsJob (a := a) hq
    obtain ⟨hempty, hothers, hx, hm⟩ := hstart.emptiesGroup rfl (vgld_group hok hwf)
    obtain ⟨k, hk, hid⟩ := hstart.jobs
    simp only [jobIdentity, Prod.mk.injEq] at hid
    obtain ⟨hid, hdest, -, hcls⟩ := hid
    exact ⟨_, vgld_executes hp hok hfmt hr hq, fun k => by rw [retire_mem, vgld_memory hok hq], hx, hm, hempty, hothers,
      hstart.pc, hstart.nextId, k, hk, hid, hdest, hcls⟩
  case tld =>
    have hok : TileMoveOk s a := ⟨hp, hcount, hf, hvalid⟩
    have hstart := tld_startsJob (a := a) hq
    obtain ⟨k, hk, hid⟩ := hstart.jobs
    simp only [jobIdentity, Prod.mk.injEq] at hid
    obtain ⟨hid, hdest, -, hcls⟩ := hid
    exact ⟨_, tld_executes hok hr h1 h2 hacc hfree hq,
      hstart.emptiesTiles rfl rfl (physTile_le hcount (destSpan_pos a)), hstart.pc, ⟨k, hk, hid, hdest, hcls⟩, tld_local⟩
  case traps =>
    intro store sh ea ok hp hcount hf hvalid
    have hok : TileMoveOk s a := ⟨hp, hcount, hf, hvalid⟩
    rcases h with ⟨rfl, hr⟩ | ⟨rfl, hdone, hheld, hr⟩
    · obtain ⟨halign, haccess⟩ := tileAddress_stops s a 4 5
      exact ⟨fun h => tld_stops hok hr (halign h), fun r q h1 h2 hr' hq hbad hrow habove =>
        tld_stops hok hr (haccess r q h1 h2 hr' hq hbad hrow habove)⟩
    · obtain ⟨halign, haccess⟩ := tileAddress_stops s a 6 7
      exact ⟨fun h => tst_stops hok hdone hheld hr (halign h), fun r q h1 h2 hr' hq hbad hrow habove =>
        tst_stops hok hdone hheld hr (haccess r q h1 h2 hr' hq hbad hrow habove)⟩

end Sys2Proof.Machine
end

section
/-!
PROOF. A vector store from a state whose memory is not in canonical form (R165).
-/

namespace Sys2Proof.Machine

/-- x11 points at byte 64, whose entry is listed in front of the one of byte 0: memory is not canonical, and byte 0 reads as
unlisted. -/
def unsortedState : State := { writeX 11 64 State.reset with mem := [(64, 1), (0, 5)] }

/-- v0, which is zero after reset, to the 64 bytes at x11. -/
def zeroStore : VT := { w := 0, e2 := false, e1 := false, m := false, s2 := 0, s1 := 11, d := 0 }

/-- The memory that an instruction leaves. -/
def memoryAfter (i : Instr) (s : State) : List Host.Cell :=
  match exec i s with
  | .next t => t.mem
  | .fault _ | .refused _ => s.mem

theorem memoryAfter_of_next {i : Instr} {s t : State} (h : exec i s = .next t) : memoryAfter i s = t.mem := by
  rw [memoryAfter, h]

/-- The zero written to byte 64 takes its entry off the list, and byte 0 reads as the entry behind it. -/
theorem zeroStore_uncovers : Memory.get unsortedState.mem 0 = 0 ∧
    Memory.get (memoryAfter (.vst zeroStore) unsortedState) 0 = 5 := by
  decide +kernel

/-- The store is of f32 elements, ready, with nothing outstanding. -/
theorem zeroStore_ready : (Instr.vst zeroStore).wf = true ∧ prefixOk false (moveFmts .contiguous) unsortedState = true ∧
    readyWithPrefix unsortedState (addrReads zeroStore .contiguous ++ vRegs zeroStore.d zeroStore ++
      maskReads zeroStore false) [] = true ∧ quiet unsortedState = true ∧ fmtWidth (effOf unsortedState).d = 32 := by
  decide +kernel

theorem zeroStore_accepted : ∀ k, k < 16 →
    (elementAddress unsortedState zeroStore .contiguous k).toNat % 4 = 0 ∧
      accessOk unsortedState (elementAddress unsortedState zeroStore .contiguous k) 4 = true := by
  decide +kernel

/-- No entry of the store covers byte 0. -/
theorem zeroStore_spares : ∀ e ∈ directEntries (vecEntries unsortedState zeroStore .contiguous (effOf unsortedState)),
    ∀ b ∈ e.bytes, hereKey unsortedState e.addr + b.1 ≠ 0 := by
  decide +kernel

/-- Refutes O24: the fourth clause, of vector stores in general, does not ask for a canonical memory, and from `unsortedState`
a store to bytes 64 to 127 changes what byte 0 reads as. -/
theorem not_vectorLocalAccess : ¬ Obligations.VectorLocalAccess := by
  rintro ⟨-, -, -, hstore, -⟩
  obtain ⟨hwf, hp, hr, hq, hw⟩ := zeroStore_ready
  obtain ⟨huncovered, hafter⟩ := zeroStore_uncovers
  have hclause := hstore (.vst zeroStore) zeroStore .contiguous unsortedState rfl hwf hp hr hq
  simp only [hw] at hclause
  obtain ⟨⟨t, ht, -, hothers, -⟩, -⟩ := hclause fun k hk _ => zeroStore_accepted k hk
  have hsame := hothers 0 zeroStore_spares
  rw [← memoryAfter_of_next ht, hafter, huncovered] at hsame
  exact absurd hsame (by decide)

end Sys2Proof.Machine
end

section
/-!
PROOF. Leases and the runs of the Array's lane groups (R182 to R187): what a lease's change leaves, and which runs end.
-/

namespace Sys2Proof.Machine

/-! ## Leases -/

theorem leaseOf_setLease {m : Nat} (hm : m < 16) (l : Lease) (s : State) (k : Nat) :
    leaseOf (setLease m l s) k = if k = m then l else leaseOf s k := by
  by_cases hk : k = m
  · subst hk; simp [leaseOf, setLease, Vector.getD, hm]
  · by_cases hlt : k < 16
    · simp [leaseOf, setLease, Vector.getD, hlt, hk, Ne.symm hk]
    · simp [leaseOf, setLease, Vector.getD, hlt, hk]

theorem leaseOf_setLease_same {m : Nat} (hm : m < 16) (l : Lease) (s : State) : leaseOf (setLease m l s) m = l :=
  (leaseOf_setLease hm l s m).trans (if_pos rfl)

theorem leaseOf_setLease_ne {m k : Nat} (h : k ≠ m) (l : Lease) (s : State) :
    leaseOf (setLease m l s) k = leaseOf s k := by
  by_cases hlt : k < 16
  · simp [leaseOf, setLease, Vector.getD, hlt, Ne.symm h]
  · simp [leaseOf, setLease, Vector.getD, hlt]

theorem leaseOf_congr {s t : State} (h : t.arr.leases = s.arr.leases) (k : Nat) : leaseOf t k = leaseOf s k := by
  unfold leaseOf; rw [h]

theorem ownMember_lt (s : State) : ownMember s < 16 := Nat.mod_lt _ (by decide)

/-- What says, with the leases, which cores contend and which runs are over. -/
structure SameCommands (s t : State) : Prop where
  core : t.coreid = s.coreid
  queue : t.arr.queue = s.arr.queue
  running : t.arr.running = s.arr.running
  clock : t.sched.clock = s.sched.clock

theorem SameCommands.refl (s : State) : SameCommands s s := ⟨rfl, rfl, rfl, rfl⟩

theorem SameCommands.trans {s t u : State} (h : SameCommands s t) (g : SameCommands t u) : SameCommands s u :=
  ⟨g.core.trans h.core, g.queue.trans h.queue, g.running.trans h.running, g.clock.trans h.clock⟩

section
variable {s t : State} (h : SameCommands s t)
include h

theorem SameCommands.ownMember_eq : ownMember t = ownMember s := by rw [ownMember, ownMember, h.core]

theorem SameCommands.hasCommands_eq {m : Nat} (hl : (leaseOf t m).queued = (leaseOf s m).queued) :
    hasCommands t m = hasCommands s m := by
  rw [hasCommands, hasCommands, h.ownMember_eq, h.queue, h.running, hl]

theorem SameCommands.contends_eq {m : Nat} (hl : leaseOf t m = leaseOf s m) : contends t m = contends s m := by
  rw [contends, contends, h.hasCommands_eq (by rw [hl]), hl]

end

theorem mem_contenders {s : State} {m : Nat} : m ∈ contenders s ↔ m < 16 ∧ contends s m = true := by
  simp [contenders]

/-- A core that holds lane groups does not contend. -/
theorem contends_of_held {s : State} {m : Nat} (h : (leaseOf s m).st = .held) : contends s m = false := by
  simp [contends, h]

/-- Another lease of a core that holds lane groups leaves the contenders as they are, if it holds them too. -/
theorem contenders_setLease_held {s : State} {m : Nat} {l : Lease} (hm : m < 16) (h : (leaseOf s m).st = .held)
    (hl : l.st = .held) : contenders (setLease m l s) = contenders s := by
  have hsame : SameCommands s (setLease m l s) := ⟨rfl, rfl, rfl, rfl⟩
  refine List.filter_congr fun k _ => ?_
  by_cases hk : k = m
  · subst hk
    rw [contends_of_held h, contends_of_held ((congrArg Lease.st (leaseOf_setLease_same hm l s)).trans hl)]
  · exact hsame.contends_eq (leaseOf_setLease_ne hk l s)

/-! ## Runs that are over (R184) -/

/-- Only leases and requests to the arbiter differ, and what was pending still is. -/
def EndsRuns (s t : State) : Prop :=
  t = { s with
    arr := { s.arr with leases := t.arr.leases, requests := t.arr.requests, due := t.arr.due }
    sched := { s.sched with agenda := t.sched.agenda } } ∧
  s.sched.agenda ⊆ t.sched.agenda

theorem EndsRuns.refl (s : State) : EndsRuns s s := ⟨rfl, fun _ h => h⟩

theorem EndsRuns.trans {s t u : State} (h : EndsRuns s t) (g : EndsRuns t u) : EndsRuns s u := by
  obtain ⟨h, hagenda⟩ := h
  obtain ⟨g, gagenda⟩ := g
  refine ⟨?_, fun e he => gagenda (hagenda he)⟩
  rw [h] at g
  exact g

theorem endsRuns_setLease (m : Nat) (l : Lease) (s : State) : EndsRuns s (setLease m l s) := ⟨rfl, fun _ h => h⟩

theorem endsRuns_post (ev : Instr) (s : State) : EndsRuns s (post ev s) := ⟨rfl, List.subset_append_left _ _⟩

theorem endsRuns_yieldLease (m : Nat) (s : State) : EndsRuns s (yieldLease m s) := ⟨rfl, List.subset_append_left _ _⟩

theorem endsRuns_endLeaseRun (m : Nat) (s : State) : EndsRuns s (endLeaseRun m s) := by
  unfold endLeaseRun
  dsimp only
  split
  · exact (endsRuns_setLease _ _ _).trans (endsRuns_post _ _)
  · exact endsRuns_yieldLease _ _

theorem endsRuns_foldl {α : Type} {f : State → α → State} (hf : ∀ s a, EndsRuns s (f s a)) :
    ∀ (l : List α) (s : State), EndsRuns s (l.foldl f s)
  | [], s => EndsRuns.refl s
  | a :: l, s => (hf s a).trans (endsRuns_foldl hf l (f s a))

theorem endsRuns_endIdleRuns (s : State) : EndsRuns s (endIdleRuns s) := by
  refine endsRuns_foldl (fun t m => ?_) _ s
  split
  · exact endsRuns_endLeaseRun m t
  · exact EndsRuns.refl t

section
variable {s t : State} (h : EndsRuns s t)
include h

theorem EndsRuns.sameCommands : SameCommands s t := by
  obtain ⟨h, -⟩ := h
  constructor <;> rw [h]

theorem EndsRuns.hart : t.hart = s.hart := by rw [h.1]

theorem EndsRuns.mach : t.mach = s.mach := by rw [h.1]

theorem EndsRuns.mem : t.mem = s.mem := by rw [h.1]

theorem EndsRuns.running : t.arr.running = s.arr.running := by rw [h.1]

theorem EndsRuns.results : t.arr.results = s.arr.results := by rw [h.1]

theorem EndsRuns.pending {ev : Instr} (hp : pending s ev) : pending t ev := by
  obtain ⟨e, he, hev, hvia⟩ := hp
  exact ⟨e, h.2 he, hev, hvia⟩

end

theorem pending_post (ev : Instr) (s : State) : pending (post ev s) ev :=
  ⟨_, by rw [post_agenda]; exact List.mem_append_right _ (List.mem_singleton_self _), rfl, rfl⟩

/-- The end of a run concerns the lease of that core alone. -/
theorem leaseOf_endLeaseRun_ne {m k : Nat} (h : k ≠ m) (s : State) : leaseOf (endLeaseRun m s) k = leaseOf s k := by
  unfold endLeaseRun
  dsimp only
  split <;> exact leaseOf_setLease_ne h _ _

/-- A run of this core's lane groups, if there is one, has neither its commands nor its clocks behind it (R184). -/
def RunGoesOn (s : State) (m : Nat) : Prop :=
  (leaseOf s m).st = .held → (leaseOf s m).started < 16 ∧ s.sched.clock < (leaseOf s m).grantedAt + 8192 ∧
    (leaseOf s m).expired = false ∧ hasCommands s m = true

theorem runOver_of_runGoesOn {s : State} {m : Nat} (h : RunGoesOn s m) : runOver s m = false := by
  by_cases hheld : (leaseOf s m).st = .held
  · obtain ⟨hstarted, hclock, hexpired, hcommands⟩ := h hheld
    simp [runOver, hheld, hexpired, hcommands, hstarted, hclock]
  · simp [runOver, hheld]

theorem RunGoesOn.of_same {s t : State} {m : Nat} (h : RunGoesOn s m) (hc : SameCommands s t)
    (hl : leaseOf t m = leaseOf s m) : RunGoesOn t m := by
  unfold RunGoesOn
  rw [hl, hc.clock, hc.hasCommands_eq (by rw [hl])]
  exact h

/-- A run that goes on is not ended with the idle ones. -/
theorem leaseOf_endIdleRuns {s : State} {k : Nat} (h : RunGoesOn s k) : leaseOf (endIdleRuns s) k = leaseOf s k := by
  suffices hfold : ∀ (l : List Nat) (t : State), RunGoesOn t k →
      leaseOf (l.foldl (fun t m => if atBoundary t m && runOver t m then endLeaseRun m t else t) t) k = leaseOf t k from
    hfold _ s h
  intro l
  induction l with
  | nil => exact fun _ _ => rfl
  | cons m l ih =>
    intro t ht
    rw [List.foldl_cons]
    by_cases hm : (atBoundary t m && runOver t m) = true
    · have hne : k ≠ m := by
        rintro rfl
        rw [runOver_of_runGoesOn ht, Bool.and_false] at hm
        exact Bool.false_ne_true hm
      have hl := leaseOf_endLeaseRun_ne hne t
      rw [if_pos hm, ih _ (ht.of_same (endsRuns_endLeaseRun m t).sameCommands hl), hl]
    · rw [if_neg hm, ih _ ht]

theorem foldl_eq_self {α β : Type} {f : β → α → β} {b : β} :
    ∀ {l : List α}, (∀ a ∈ l, f b a = b) → l.foldl f b = b
  | [], _ => rfl
  | a :: l, h => by
    obtain ⟨ha, hl⟩ := List.forall_mem_cons.1 h
    rw [List.foldl_cons, ha, foldl_eq_self hl]

/-- Where no run at a command boundary is over, none ends. -/
theorem endIdleRuns_eq_self {s : State} (h : ∀ k, k < 16 → atBoundary s k = true → runOver s k = false) :
    endIdleRuns s = s := by
  refine foldl_eq_self fun k hk => if_neg fun hstop => ?_
  obtain ⟨hb, hover⟩ := Bool.and_eq_true_iff.1 hstop
  rw [h k (List.mem_range.1 hk) hb] at hover
  exact Bool.false_ne_true hover

/-- Where cores contend, a run that ends leaves its core without lane groups. -/
theorem endLeaseRun_eq_yieldLease {s : State} (m : Nat) (h : contenders s ≠ []) : endLeaseRun m s = yieldLease m s := by
  have hsome : (contenders s).isEmpty = false := by simpa using h
  rw [endLeaseRun, hsome]
  rfl

theorem leaseOf_yieldLease {m : Nat} (hm : m < 16) (s : State) :
    (leaseOf (yieldLease m s) m).st = .yielded ∧ (leaseOf (yieldLease m s) m).mask = 0 := by
  have e := leaseOf_setLease_same hm (s := { s with arr := { s.arr with requests := s.arr.requests + 1, due := true } })
    { leaseOf s m with
      st := .yielded, mask := 0, credit := if hasCommands s m then (leaseOf s m).credit else 0, order := s.arr.requests }
  constructor
  · exact congrArg Lease.st e
  · exact congrArg Lease.mask e

/-- R184: 8,192 clocks after its grant a run ends at the command boundary, where another core contends. -/
theorem leaseRunTimeout_yields {s : State} {m : BitVec 4} (hheld : (leaseOf s m.toNat).st = .held)
    (hclock : (leaseOf s m.toNat).grantedAt + 8192 ≤ s.sched.clock) (hb : atBoundary s m.toNat = true)
    (hothers : contenders s ≠ []) :
    exec (.leaseRunTimeout m) s =
      .next (yieldLease m.toNat (setLease m.toNat { leaseOf s m.toNat with expired := true } s)) := by
  have e : exec (.leaseRunTimeout m) s = execLeaseRunTimeout m s := rfl
  have hcontend : contenders (setLease m.toNat { leaseOf s m.toNat with expired := true } s) ≠ [] := by
    rwa [contenders_setLease_held m.isLt hheld (by exact hheld)]
  rw [e, execLeaseRunTimeout, if_pos ⟨hheld, hclock⟩]
  exact congrArg Host.Outcome.next ((if_pos hb).trans (endLeaseRun_eq_yieldLease _ hcontend))

end Sys2Proof.Machine
end

section
/-!
PROOF. What the completion of an off-core operation leaves (R44, R119, R120): the Array and the clock stay.
-/

namespace Sys2Proof.Machine

/-! ## The clock under the issue of requests -/

theorem clock_startTimer (n : Nat) (s : State) : (startTimer n s).sched.clock = s.sched.clock := by
  unfold startTimer
  dsimp only
  split <;> rfl

theorem clock_startTimers : ∀ (l : List Flit) (s : State),
    (l.foldl (fun t g => startTimer (headerDst g.header) t) s).sched.clock = s.sched.clock
  | [], _ => rfl
  | _ :: l, s => (clock_startTimers l _).trans (clock_startTimer _ s)

theorem clock_pumpPort (k : Nat) (s : State) : (pumpPort k s).sched.clock = s.sched.clock := by
  unfold pumpPort
  dsimp only
  split
  · rfl
  · exact clock_startTimers _ _

theorem clock_leavePackets (pkg : Nat) (ch : Channel) :
    ∀ (n : Nat) (s : State), (leavePackets pkg ch n s).sched.clock = s.sched.clock
  | 0, _ => rfl
  | n + 1, s => by
    unfold leavePackets
    dsimp only
    split
    · rfl
    · split
      · rfl
      · split
        · rfl
        · exact (clock_leavePackets pkg ch n _).trans (clock_pumpPort _ _)

theorem clock_postTo_homeRead (pkg : Nat) (ch : Channel) (key len id no : Nat) (s : State) :
    (postTo pkg ch (.homeRead key len (.job id no)) s).sched.clock = s.sched.clock := by
  unfold postTo
  dsimp only
  split
  · rfl
  · split
    · split
      · exact clock_leavePackets _ _ _ _
      · rfl
    · split <;> rfl

theorem clock_translate (s : State) (st : Nat) (pid : Pid) (va : Word) (kind : AccessKind) :
    (translate s st pid va kind).1.sched.clock = s.sched.clock := by
  have e := translate_state s st pid va kind
  dsimp only at e
  rw [e]

theorem clock_issueTranslated (id : Nat) (p : Part) (s : State) :
    (issueTranslated id p s).sched.clock = s.sched.clock := by
  have htrans := clock_translate s (stationOf (ownCore s)) p.pid p.va .load
  unfold issueTranslated
  cases hx : translate s (stationOf (ownCore s)) p.pid p.va .load with
  | mk u r =>
    rw [hx] at htrans
    cases r with
    | error d => exact htrans
    | ok x =>
      dsimp only
      generalize (if (leafOrd x.leaf || leafNrb x.leaf || x.aperture == 2) = true then none
        else some (strandTag p.pid p.va, u.off.epoch)) = fill
      split
      · exact htrans
      · generalize (if (leafOrd x.leaf || leafNrb x.leaf || x.aperture == 2) = true then none else Tab.find? _ _) = line
        split
        · exact htrans
        · exact (clock_postTo_homeRead _ _ _ _ _ _ _).trans htrans

theorem clock_postAll : ∀ (evs : List Instr) (s : State), (postAll evs s).sched.clock = s.sched.clock
  | [], _ => rfl
  | ev :: evs, s => clock_postAll evs (post ev s)

theorem clock_issueLoad (id : Nat) (p : Part) (s : State) : (issueLoad id p s).sched.clock = s.sched.clock := by
  unfold issueLoad
  split
  · exact clock_postAll _ _
  · exact clock_issueTranslated id p s

theorem clock_pump : ∀ (n : Nat) (s : State), (pump n s).sched.clock = s.sched.clock
  | 0, _ => rfl
  | n + 1, s => by
    rw [pump]
    split
    · rfl
    · split
      · rfl
      · split
        · exact (clock_pump n _).trans (clock_issueLoad _ _ _)
        · rfl

/-! ## The Array under a completion -/

/-- The Array, the core and the clock are as before. -/
def KeepsArray (s t : State) : Prop := t.arr = s.arr ∧ t.coreid = s.coreid ∧ t.sched.clock = s.sched.clock

theorem KeepsArray.trans {s t u : State} (h : KeepsArray s t) (g : KeepsArray t u) : KeepsArray s u := by
  obtain ⟨harr, hcore, hclock⟩ := h
  obtain ⟨garr, gcore, gclock⟩ := g
  exact ⟨garr.trans harr, gcore.trans hcore, gclock.trans hclock⟩

theorem KeepsArray.sameCommands {s t : State} (h : KeepsArray s t) : SameCommands s t := by
  obtain ⟨harr, hcore, hclock⟩ := h
  exact ⟨hcore, by rw [harr], by rw [harr], hclock⟩

theorem keepsArray_pump (n : Nat) (s : State) : KeepsArray s (pump n s) := by
  obtain ⟨h, -⟩ := issues_pump n s
  exact ⟨by rw [h], by rw [h], clock_pump n s⟩

theorem keepsArray_putX (n : Nat) (r : XReg) (s : State) : KeepsArray s (putX n r s) := by
  unfold putX
  split <;> exact ⟨rfl, rfl, rfl⟩

theorem keepsArray_setRegState (r : RegName) (st : RegState) (s : State) : KeepsArray s (setRegState r st s) := by
  cases r with
  | x n => exact keepsArray_putX n _ s
  | v n => exact ⟨rfl, rfl, rfl⟩
  | m n => exact ⟨rfl, rfl, rfl⟩

theorem keepsArray_foldl_setRegState (st : RegState) : ∀ (regs : List RegName) (s : State),
    KeepsArray s (regs.foldl (fun t r => setRegState r st t) s)
  | [], _ => ⟨rfl, rfl, rfl⟩
  | r :: regs, s => (keepsArray_setRegState r st s).trans (keepsArray_foldl_setRegState st regs _)

theorem keepsArray_completeDest (d : Dest) (v : Nat) (s : State) : KeepsArray s (completeDest d v s) := by
  cases d with
  | nothing => exact ⟨rfl, rfl, rfl⟩
  | x n => exact keepsArray_putX n _ s
  | v base n => rw [completeDest, writeGroup_eq]; exact ⟨rfl, rfl, rfl⟩
  | m base n => rw [completeDest, writeTile_eq]; exact ⟨rfl, rfl, rfl⟩

theorem keepsArray_finishJob (j : Job) (s : State) : KeepsArray s (finishJob j s) := by
  have hacquired : KeepsArray s (if j.aq then invalidateStrand (dropJob j.id s) else dropJob j.id s) := by
    split <;> exact ⟨rfl, rfl, rfl⟩
  unfold finishJob
  dsimp only
  split
  · exact hacquired.trans (keepsArray_foldl_setRegState _ _ _)
  · exact hacquired.trans (keepsArray_completeDest _ _ _)

theorem keepsArray_fillLine (p : Part) (s : State) : KeepsArray s (fillLine p s) := by
  unfold fillLine
  split
  · dsimp only
    split <;> exact ⟨rfl, rfl, rfl⟩
  · exact ⟨rfl, rfl, rfl⟩

/-- An answer to a request of an operation changes nothing of the Array. -/
theorem keepsArray_completePart (id no : Nat) (r : Response) (s : State) : KeepsArray s (completePart id no r s) := by
  unfold completePart completeFrom
  split
  · exact ⟨rfl, rfl, rfl⟩
  next j _ =>
    split
    · exact ⟨rfl, rfl, rfl⟩
    next p _ =>
      dsimp only
      have htaken (u : State) (hu : KeepsArray s u) (q : Prop) [Decidable q] (k : Job) :
          KeepsArray s (if q then pump 64 (finishJob k u) else pump 64 u) := by
        split
        · exact (hu.trans (keepsArray_finishJob k u)).trans (keepsArray_pump 64 _)
        · exact hu.trans (keepsArray_pump 64 u)
      apply htaken
      cases r with
      | bytes b => exact KeepsArray.trans ⟨rfl, rfl, rfl⟩ (keepsArray_fillLine p _)
      | value v => dsimp only; split <;> exact ⟨rfl, rfl, rfl⟩
      | failed d pkg => dsimp only; split <;> exact ⟨rfl, rfl, rfl⟩
      | damaged b bad pkg => dsimp only; split <;> exact ⟨rfl, rfl, rfl⟩

end Sys2Proof.Machine
end

section
/-!
PROOF. The instructions on leases: `lease`, `unlease` and `tsync` (R200 to R202).
-/

namespace Sys2Proof.Machine

/-! ## Checks of the instructions on the Array (R54) -/

theorem arrayIf_none {i : Instr} {p : State → Bool} {s : State} (h : p s = false) : arrayIf i p s = none :=
  stopIf_none h

/-- ARRAY_STATE reports the instruction's word. -/
theorem arrayIf_some {i : Instr} {w : IWord} (hw : encode i = some w) {p : State → Bool} {s : State} (h : p s = true) :
    arrayIf i p s = some (trap 29 (w.setWidth 64) s) := by
  rw [arrayIf, stopIf_some h, trapArray, wordOf, hw, Option.getD_some]

theorem leaseNone_iff {s : State} : leaseNone s = true ↔ (ownLease s).st = .none := by
  simp [leaseNone, ownLease]

theorem countOk_iff {w : Word} : countOk w = true ↔ w.toNat ∈ [1, 2, 4] := by
  simp [countOk, ← BitVec.toNat_inj, or_assoc]

/-- R201: what makes a token one of another lease. -/
theorem tokenBad_iff {s : State} {w : Word} :
    tokenBad s w = true ↔ w.toNat / 256 ≠ 0 ∨ w.toNat / 16 % 16 ≠ (ownLease s).count := by
  have hbits : field w 8 56 = w.toNat / 256 := by
    have := w.isLt
    rw [field, Nat.shiftRight_eq_div_pow, Nat.mod_eq_of_lt (by omega)]
  have hcount : field w 4 4 = w.toNat / 16 % 16 := by rw [field, Nat.shiftRight_eq_div_pow]; rfl
  simp [tokenBad, hbits, hcount, ownLease]

theorem checkSources_xs1 {s : State} {a : VT} {dests : List RegName} (h : ready s (xs [a.s1]) dests = true) :
    checkSources [xs1 a] s = none := by
  obtain ⟨-, he, hs, -⟩ := ready_iff.1 h
  exact checkSources_srcX (l := [a.s1]) he hs fun _ => a.e1

/-- Retirement looks at the hart alone. -/
theorem retiredHart_congr {s t : State} (h : t.hart = s.hart) : retiredHart t = retiredHart s := by
  obtain ⟨hpc, hloop0, hloop1⟩ := endTest_congr (s.hart.pc + 4) (s := s) (t := t) (by rw [h]) (by rw [h]) (by rw [h])
  simp only [retiredHart, h, hpc, hloop0, hloop1]

/-! ## A producer with an x register (R44, R48) -/

theorem setEmpty_x (n : Nat) (pc : Word) (s : State) : setEmpty (.x n) pc s = setRegState (.x n) (.empty pc) s := by
  by_cases hn : n = 0
  · simp [setEmpty, Dest.regs, setRegState, putX, hn]
  · simp [setEmpty, Dest.regs, hn]

theorem putX_eq (n : Nat) (r : XReg) (s : State) :
    putX n r s = { s with hart := { s.hart with x := (putX n r s).hart.x } } := by
  unfold putX
  split <;> rfl

/-- A new operation with an x register changes that register, the operations, and what waits for x0. -/
theorem startJob_x_eq {j : Job} {n : Nat} (hd : j.dest = .x n) (next : Word) (s : State) : startJob j next s =
    { s with
      hart := { s.hart with x := (setRegState (.x n) (.empty j.pc) s).hart.x, x0 := (startJob j next s).hart.x0 }
      off := (startJob j next s).off } := by
  unfold startJob
  rw [hd, setEmpty_x, setRegState, putX_eq]
  dsimp only
  split <;> rfl

/-- Its register is EMPTY under the operation's address, and every other one as before. -/
theorem startJob_x_regs {j : Job} {rd : RegIdx} (hd : j.dest = .x rd.toNat) (next : Word) (s : State) :
    (rd ≠ 0 → regState (startJob j next s) (.x rd.toNat) = .empty j.pc) ∧
      ∀ n, n ≠ rd.toNat → getX (startJob j next s) n = getX s n := by
  have hx (n : Nat) : getX (startJob j next s) n = getX (setRegState (.x rd.toNat) (.empty j.pc) s) n :=
    getX_congr (by rw [startJob_x_eq hd]) n
  refine ⟨fun h0 => ?_, fun n hn => ?_⟩
  · rw [regState, hx, setRegState, getX_putX, if_pos ⟨rfl, fun e => h0 (reg_toNat_eq_zero.1 e), reg_lt rd⟩]
  · rw [hx, setRegState, getX_putX, if_neg fun h => hn h.1]

/-! ## lease (R182, R200) -/

/-- The operation that a `lease` starts. -/
def leaseJob (s : State) (a : VT) : Job :=
  { simpleJob s (.x a.d.toNat) 7 false with
    wait := some { kind := 3, handle := xval s a.s1, threshold := 0, deadline := 0 } }

theorem exec_lease {a : VT} {s : State} (hr : ready s (xs [a.s1]) (xs [a.d]) = true) (hq : quiet s = true)
    (hnone : (ownLease s).st = .none) (hcount : (xval s a.s1).toNat ∈ [1, 2, 4]) : exec (.lease a) s =
      .next (retire (requestLease (xval s a.s1).toNat (some (leaseJob s a).id) (startJob (leaseJob s a) (nextPc s) s))) := by
  obtain ⟨hp, -, -, hd⟩ := ready_iff.1 hr
  have e : exec (.lease a) s = execLease a s := rfl
  rw [e, execLease, instr_eq_next]
  · rfl
  · refine firstStop_none ?_
    simp only [List.forall_mem_cons]
    exact ⟨noPrefix_none _ hp, arrayIf_none (by rw [leaseNone_iff.2 hnone]; rfl), checkSources_xs1 hr,
      arrayIf_none (by rw [countOk_iff.2 hcount]; rfl), checkDest_dstX hd,
      stopIf_none (by rw [canIssue_quiet hq]; rfl), by simp⟩

theorem exec_lease_traps {a : VT} {w : IWord} {s : State} (hp : prefixPending s = false) (hw : encode (.lease a) = some w)
    (h : (ownLease s).st ≠ .none ∨ (ready s (xs [a.s1]) [] = true ∧ (xval s a.s1).toNat ∉ [1, 2, 4])) :
    exec (.lease a) s = .next (trap 29 (w.setWidth 64) s) := by
  have e : exec (.lease a) s = execLease a s := rfl
  rw [e, execLease, instr_eq_stop]
  rw [firstStop_cons_none (noPrefix_none _ hp)]
  by_cases hnone : leaseNone s = true
  · obtain ⟨hr, hcount⟩ := h.resolve_left (not_not.2 (leaseNone_iff.1 hnone))
    have hbad : countOk (xval s a.s1) = false := Bool.eq_false_iff.2 fun hok => hcount (countOk_iff.1 hok)
    rw [firstStop_cons_none (arrayIf_none (by rw [hnone]; rfl)), firstStop_cons_none (checkSources_xs1 hr)]
    exact firstStop_cons_some (arrayIf_some hw (by rw [hbad]; rfl))
  · exact firstStop_cons_some (arrayIf_some hw (by simpa using hnone))

/-- The lease of a core that has requested lane groups. -/
def requestedLease (count : Nat) (s : State) : Lease :=
  { Lease.zero with
    st := .requested, count := count, weight := (leaseOf s (ownMember s)).weight, order := s.arr.requests }

/-- The request is out and the arbiter asked; the runs that it brings to their end still go on. -/
def requestOut (count : Nat) (job : Option Nat) (s : State) : State :=
  askArbiter (groupFree s) (setLease (ownMember s) (requestedLease count s)
    { s with arr := { s.arr with job := job, requests := s.arr.requests + 1 } })

theorem requestLease_eq (count : Nat) (job : Option Nat) (s : State) :
    requestLease count job s = endIdleRuns (requestOut count job s) := rfl

theorem ownLease_requestLease (count : Nat) (job : Option Nat) (s : State) :
    ownLease (requestLease count job s) = requestedLease count s := by
  have hout : leaseOf (requestOut count job s) (ownMember s) = requestedLease count s :=
    leaseOf_setLease_same (ownMember_lt s) _ _
  have hgoes : RunGoesOn (requestOut count job s) (ownMember s) := fun hheld => by
    rw [hout] at hheld
    exact LeaseSt.noConfusion hheld
  rw [ownLease, requestLease_eq, (endsRuns_endIdleRuns _).sameCommands.ownMember_eq]
  exact (leaseOf_endIdleRuns hgoes).trans hout

/-- R182: the arbiter is asked, and neither the hart nor memory changes. -/
theorem requestLease_leaves (count : Nat) (job : Option Nat) (s : State) :
    pending (requestLease count job s) .leaseGrant ∧ (requestLease count job s).hart = s.hart ∧
      (requestLease count job s).mem = s.mem := by
  have hends := endsRuns_endIdleRuns (requestOut count job s)
  rw [requestLease_eq]
  exact ⟨hends.pending (pending_post _ _), hends.hart, hends.mem⟩

theorem ownLease_retire (s : State) : ownLease (retire s) = ownLease s := by rw [retire_eq]; rfl

theorem pending_retire {s : State} {ev : Instr} (h : pending s ev) : pending (retire s) ev := by rw [retire_eq]; exact h

/-- R182, R200: what a `lease` leaves that requests lane groups. -/
theorem lease_requests (a : VT) (s : State) :
    let t := retire (requestLease (xval s a.s1).toNat (some (leaseJob s a).id) (startJob (leaseJob s a) (nextPc s) s))
    (a.d ≠ 0 → regState t (.x a.d.toNat) = .empty s.hart.pc) ∧ (∀ n, n ≠ a.d.toNat → getX t n = getX s n) ∧
      t.hart.v = s.hart.v ∧ t.hart.m = s.hart.m ∧ SameMemory s t ∧ (ownLease t).st = .requested ∧
      (ownLease t).count = (xval s a.s1).toNat ∧ pending t .leaseGrant := by
  intro t
  have hd : (leaseJob s a).dest = .x a.d.toNat := rfl
  obtain ⟨hpending, hhart, hmem⟩ :=
    requestLease_leaves (xval s a.s1).toNat (some (leaseJob s a).id) (startJob (leaseJob s a) (nextPc s) s)
  obtain ⟨hempty, hothers⟩ := startJob_x_regs hd (nextPc s) s
  have hx (n : Nat) : getX t n = getX (startJob (leaseJob s a) (nextPc s) s) n :=
    getX_congr (by rw [retire_hart_x, hhart]) n
  refine ⟨fun h0 => ?_, fun n hn => (hx n).trans (hothers n hn), ?_, ?_, fun k => ?_, ?_, ?_, pending_retire hpending⟩
  · rw [regState, hx]; exact hempty h0
  · rw [retire_hart_v, hhart, startJob_x_eq hd]
  · rw [retire_hart_m, hhart, startJob_x_eq hd]
  · rw [retire_mem, hmem, startJob_x_eq hd]
  · rw [ownLease_retire, ownLease_requestLease]; rfl
  · rw [ownLease_retire, ownLease_requestLease]; rfl

/-! ## unlease (R182, R201) -/

theorem exec_unlease_traps {a : VT} {w : IWord} {s : State} (hp : prefixPending s = false)
    (hw : encode (.unlease a) = some w)
    (h : (ownLease s).st = .none ∨ (ready s (xs [a.s1]) [] = true ∧
      ((xval s a.s1).toNat / 256 ≠ 0 ∨ (xval s a.s1).toNat / 16 % 16 ≠ (ownLease s).count))) :
    exec (.unlease a) s = .next (trap 29 (w.setWidth 64) s) := by
  have e : exec (.unlease a) s = execUnlease a s := rfl
  rw [e, execUnlease, instr_eq_stop]
  rw [firstStop_cons_none (noPrefix_none _ hp)]
  by_cases hnone : leaseNone s = true
  · exact firstStop_cons_some (arrayIf_some hw hnone)
  · obtain ⟨hr, htoken⟩ := h.resolve_left fun hst => hnone (leaseNone_iff.2 hst)
    rw [firstStop_cons_none (arrayIf_none (by simpa using hnone)), firstStop_cons_none (checkSources_xs1 hr)]
    exact firstStop_cons_some (arrayIf_some hw (tokenBad_iff.2 htoken))

/-- With the token of its lease, an idle Array and no request out, `unlease` releases the lease. -/
theorem exec_unlease {a : VT} {s : State} (hr : ready s (xs [a.s1]) [] = true) (hidle : arrayIdle s = true)
    (hlease : (ownLease s).st ≠ .none) (hjob : s.arr.job = none) (hbits : (xval s a.s1).toNat / 256 = 0)
    (hcount : (xval s a.s1).toNat / 16 = (ownLease s).count) :
    exec (.unlease a) s = .next (retire (releaseLease s)) := by
  obtain ⟨hp, -, -, -⟩ := ready_iff.1 hr
  have htoken : tokenBad s (xval s a.s1) = false := Bool.eq_false_iff.2 fun hbad => by
    rcases tokenBad_iff.1 hbad with h | h <;> omega
  have hout : abandonRequest s = s := by rw [abandonRequest, hjob]
  have e : exec (.unlease a) s = execUnlease a s := rfl
  rw [e, execUnlease, instr_eq_next, hout]
  refine firstStop_none ?_
  simp only [List.forall_mem_cons]
  exact ⟨noPrefix_none _ hp, arrayIf_none (Bool.eq_false_iff.2 fun h => hlease (leaseNone_iff.1 h)), checkSources_xs1 hr,
    arrayIf_none htoken, stopIf_none (by rw [hidle]; rfl), by simp⟩

theorem releaseLease_eq (s : State) :
    releaseLease s = { s with arr := (releaseLease s).arr, sched := (releaseLease s).sched } := by
  unfold releaseLease
  dsimp only
  split <;> rfl

theorem ownLease_releaseLease (s : State) :
    ownLease (releaseLease s) = { Lease.zero with weight := (ownLease s).weight } := by
  have hown : ownMember (releaseLease s) = ownMember s := by rw [releaseLease_eq]; rfl
  have hleases : (releaseLease s).arr.leases =
      (setLease (ownMember s) { Lease.zero with weight := (ownLease s).weight } s).arr.leases := by
    unfold releaseLease
    dsimp only
    split <;> rfl
  rw [ownLease, hown, leaseOf_congr hleases, leaseOf_setLease_same (ownMember_lt s)]

/-! ## tsync (R200) -/

theorem exec_tsync_idle {a : VT} {s : State} (hp : prefixPending s = false) (h : arrayIdle s = true) :
    exec (.tsync a) s = .next (retire s) := by
  have e : exec (.tsync a) s = execTsync a s := rfl
  rw [e, execTsync, instr_eq_next]
  exact (firstStop_cons_none (noPrefix_none _ hp)).trans (firstStop_cons_none (stopIf_none (by rw [h]; rfl)))

theorem exec_tsync_busy {a : VT} {s : State} (hp : prefixPending s = false) (h : arrayIdle s = false) :
    exec (.tsync a) s = .next (stall s) := by
  have e : exec (.tsync a) s = execTsync a s := rfl
  rw [e, execTsync, instr_eq_stop]
  exact (firstStop_cons_none (noPrefix_none _ hp)).trans (firstStop_cons_some (stopIf_some (by rw [h]; rfl)))

end Sys2Proof.Machine
end

section
/-!
PROOF. The steps of the Array's commands: start and completion (R184, R190, R191).
-/

namespace Sys2Proof.Machine

/-! ## ARRAY_COMMAND_START (R191) -/

/-- The oldest command executes, and counts in the run of this core's lane groups. -/
def startCommand (c : ArrayCmd) (rest : List ArrayCmd) (s : State) : State :=
  post .arrayCommandComplete (setLease (ownMember s) { ownLease s with started := (ownLease s).started + 1 }
    { s with arr := { s.arr with running := some c, queue := rest, hit := none } })

theorem exec_arrayCommandStart {c : ArrayCmd} {rest : List ArrayCmd} {s : State} (hrun : s.arr.running = none)
    (hqueue : s.arr.queue = c :: rest) (hheld : (ownLease s).st = .held) (hstop : s.arr.stop = false) :
    exec .arrayCommandStart s = .next (startCommand c rest s) := by
  have e : exec .arrayCommandStart s = execArrayCommandStart s := rfl
  rw [e, execArrayCommandStart]
  simp only [hrun, hqueue]
  exact if_pos ⟨hheld, by rw [hstop]; rfl⟩

theorem ownLease_startCommand (c : ArrayCmd) (rest : List ArrayCmd) (s : State) :
    ownLease (startCommand c rest s) = { ownLease s with started := (ownLease s).started + 1 } :=
  leaseOf_setLease_same (ownMember_lt s) _ _

/-! ## ARRAY_COMMAND_COMPLETE (R191) -/

theorem faultedSource_none {c : ArrayCmd} {s : State} (hdoom : c.doom = none)
    (h : ∀ n ∈ c.sources, ∀ pc info, (getM s n).st ≠ .faulted pc info) : faultedSource s c = none := by
  rw [faultedSource, hdoom]
  refine List.findSome?_eq_none_iff.2 fun n hn => ?_
  have hn := h n hn
  split
  next pc info hst => exact absurd hst (hn pc info)
  all_goals rfl

/-- D as the command fills it. -/
def fillResult (c : ArrayCmd) (s : State) : State := writeTile c.d c.spanD (packElems 32 (commandResult s c).1) s

/-- The command's own effect is over, and nothing executes. -/
def commandDone (c : ArrayCmd) (s : State) : State :=
  { finishCommand c s with arr := { (finishCommand c s).arr with running := none, hit := none } }

theorem exec_arrayCommandComplete {c : ArrayCmd} {s : State} (hrun : s.arr.running = some c) :
    exec .arrayCommandComplete s = .next (commandBoundary (reEmpty (commandDone c s))) := by
  have e : exec .arrayCommandComplete s = execArrayCommandComplete s := rfl
  rw [e, execArrayCommandComplete, hrun]
  rfl

/-- A command that no error meets fills D and, if it is an `mmaq`, pushes its entry. -/
theorem finishCommand_ok {c : ArrayCmd} {s : State} (herr : s.ras.regErrors = []) (hhit : s.arr.hit = none)
    (hsrc : faultedSource s c = none) :
    let t := fillResult c s
    let d := commandResult s c
    finishCommand c s =
      if c.kind = .mmaq then { t with arr := { t.arr with results := t.arr.results ++ [resultEntry c d.1 d.2] } } else t := by
  have hread : readSources c s.ras.regErrors.length s = (true, s) := by rw [herr]; rfl
  rw [finishCommand, hread]
  simp only [hhit, hsrc]
  rfl

/-- Such a command changes tiles as the filling of D does, and the Array beside: the queue stays, and the results grow. -/
theorem commandDone_ok {c : ArrayCmd} {s : State} (herr : s.ras.regErrors = []) (hhit : s.arr.hit = none)
    (hsrc : faultedSource s c = none) :
    commandDone c s =
        { s with hart := { s.hart with m := (fillResult c s).hart.m }, arr := (commandDone c s).arr } ∧
      (commandDone c s).arr.queue = s.arr.queue ∧
      (commandDone c s).arr.results.length = s.arr.results.length + (if c.kind = .mmaq then 1 else 0) := by
  have hfill : fillResult c s = { s with hart := { s.hart with m := (fillResult c s).hart.m } } := writeTile_eq _ _ _ _
  rw [commandDone, finishCommand_ok herr hhit hsrc]
  generalize fillResult c s = t at hfill ⊢
  by_cases hkind : c.kind = .mmaq
  · simp only [if_pos hkind]
    rw [hfill]
    exact ⟨rfl, rfl, List.length_append⟩
  · simp only [if_neg hkind]
    rw [hfill]
    exact ⟨rfl, rfl, rfl⟩

/-- The queue's later destinations are EMPTY again: tile registers alone may change. -/
theorem reEmpty_eq (s : State) : reEmpty s = { s with hart := { s.hart with m := (reEmpty s).hart.m } } := by
  suffices hfold : ∀ (l : List ArrayCmd) (t : State),
      l.foldl (fun t c => setEmpty (.m c.d c.spanD) c.pc t) t =
        { t with hart := { t.hart with m := (l.foldl (fun t c => setEmpty (.m c.d c.spanD) c.pc t) t).hart.m } } from
    hfold _ s
  intro l
  induction l with
  | nil => exact fun _ => rfl
  | cons c l ih =>
    intro t
    have hv : (setEmpty (.m c.d c.spanD) c.pc t).hart.v = t.hart.v := setEmpty_m_vectors _ _ _ _
    rw [List.foldl_cons, ih]
    generalize l.foldl (fun t c => setEmpty (.m c.d c.spanD) c.pc t) (setEmpty (.m c.d c.spanD) c.pc t) = u
    rw [setEmpty_eq (by simp), hv]

theorem getM_setEmpty_outside {base k : Nat} (pc : Word) (s : State) : ∀ {n : Nat}, k < base ∨ base + n ≤ k →
    getM (setEmpty (.m base n) pc s) k = getM s k
  | 0, _ => rfl
  | n + 1, h => by
    rw [setEmpty_m_succ, setRegState, getM_putM, if_neg (by omega), getM_setEmpty_outside pc s (by omega)]

/-- A tile that no queued command writes stays as it is. -/
theorem getM_reEmpty {s : State} {k : Nat} (h : ∀ q ∈ s.arr.queue, k < q.d ∨ q.d + q.spanD ≤ k) :
    getM (reEmpty s) k = getM s k := by
  suffices hfold : ∀ (l : List ArrayCmd) (t : State), (∀ q ∈ l, k < q.d ∨ q.d + q.spanD ≤ k) →
      getM (l.foldl (fun t c => setEmpty (.m c.d c.spanD) c.pc t) t) k = getM t k from hfold _ s h
  intro l
  induction l with
  | nil => exact fun _ _ => rfl
  | cons c l ih =>
    intro t hl
    obtain ⟨hc, hrest⟩ := List.forall_mem_cons.1 hl
    rw [List.foldl_cons, ih _ hrest, getM_setEmpty_outside _ _ hc]

theorem endsRuns_commandBoundary (s : State) : EndsRuns s (commandBoundary s) := by
  have hstart (t : State) (ht : EndsRuns s t) : EndsRuns s
      (if (leaseOf t (ownMember s)).st = .held ∧ !t.arr.queue.isEmpty then post .arrayCommandStart t else t) := by
    split
    · exact ht.trans (endsRuns_post _ _)
    · exact ht
  unfold commandBoundary
  apply hstart
  split
  · exact endsRuns_yieldLease _ _
  · split
    · exact endsRuns_endLeaseRun _ _
    · exact EndsRuns.refl s

/-- A tile group holds the bits of its registers' parts of a number. -/
theorem tileValue_of_parts {s : State} {base n v : Nat}
    (h : ∀ k, base ≤ k → k < base + n → (getM s k).val = BitVec.ofNat 65536 (v / 2 ^ (65536 * (k - base)))) :
    tileValue s base n = v % 2 ^ (65536 * n) := by
  rw [tileValue_eq_runValue]
  refine runValue_of_parts (Nat.mod_lt _ (by positivity)) fun k hk hk' => ?_
  obtain ⟨m, hm⟩ : ∃ m, n = (k - base) + (m + 1) := ⟨n - (k - base) - 1, by omega⟩
  have hsplit : 65536 * n = 65536 * (k - base) + 65536 * (m + 1) := by rw [hm, Nat.mul_add]
  rw [h k hk hk', BitVec.toNat_ofNat, hsplit, pow_add, Nat.mod_mul_right_div_self,
    Nat.mod_mod_of_dvd _ (pow_dvd_pow 2 (by omega))]

/-- A tile of D is FULL with its part of the result after the command's end, whatever ends or starts then. -/
theorem getM_commandBoundary {c : ArrayCmd} {s : State} (herr : s.ras.regErrors = []) (hhit : s.arr.hit = none)
    (hsrc : faultedSource s c = none) (hd : c.d + c.spanD ≤ 16)
    (hqueue : ∀ q ∈ s.arr.queue, q.d + q.spanD ≤ c.d ∨ c.d + c.spanD ≤ q.d) {k : Nat} (hk : c.d ≤ k)
    (hk' : k < c.d + c.spanD) : getM (commandBoundary (reEmpty (commandDone c s))) k =
      { val := BitVec.ofNat 65536 (packElems 32 (commandResult s c).1 / 2 ^ (65536 * (k - c.d))), st := .full } := by
  obtain ⟨hdone, hdoneQueue, -⟩ := commandDone_ok herr hhit hsrc
  have houtside : ∀ q ∈ (commandDone c s).arr.queue, k < q.d ∨ q.d + q.spanD ≤ k := fun q hq => by
    have := hqueue q (hdoneQueue ▸ hq)
    omega
  calc getM (commandBoundary (reEmpty (commandDone c s))) k
    _ = getM (reEmpty (commandDone c s)) k := getM_congr (by rw [(endsRuns_commandBoundary _).hart]) k
    _ = getM (commandDone c s) k := getM_reEmpty houtside
    _ = getM (fillResult c s) k := getM_congr (by rw [hdone]) k
    _ = _ := by rw [fillResult, getM_writeTile _ _ _ _ _ hd, if_pos ⟨hk, hk'⟩]

/-- R191: what a command leaves that no error meets. -/
theorem arrayCommandComplete_ok {c : ArrayCmd} {s : State} (herr : s.ras.regErrors = []) (hhit : s.arr.hit = none)
    (hsrc : faultedSource s c = none) (hd : c.d + c.spanD ≤ 16)
    (hqueue : ∀ q ∈ s.arr.queue, q.d + q.spanD ≤ c.d ∨ c.d + c.spanD ≤ q.d) :
    let t := commandBoundary (reEmpty (commandDone c s))
    t.arr.running = none ∧ SameMemory s t ∧ t.hart.x = s.hart.x ∧ t.hart.v = s.hart.v ∧
      (∀ n, c.d ≤ n → n < c.d + c.spanD → regState t (.m n) = .full) ∧
      tileValue t c.d c.spanD = packElems 32 (commandResult s c).1 % 2 ^ (65536 * c.spanD) ∧
      t.arr.results.length = s.arr.results.length + (if c.kind = .mmaq then 1 else 0) := by
  obtain ⟨hdone, -, hresults⟩ := commandDone_ok herr hhit hsrc
  have hends := endsRuns_commandBoundary (reEmpty (commandDone c s))
  have hre := reEmpty_eq (commandDone c s)
  have htile {k : Nat} (hk : c.d ≤ k) (hk' : k < c.d + c.spanD) := getM_commandBoundary herr hhit hsrc hd hqueue hk hk'
  refine ⟨?running, fun k => ?memory, ?x, ?v, fun n hn hn' => ?full, ?value, ?results⟩
  case running => rw [hends.running, hre]; rfl
  case memory => rw [hends.mem, hre, hdone]
  case x => rw [hends.hart, hre, hdone]
  case v => rw [hends.hart, hre, hdone]
  case full => rw [regState, htile hn hn']
  case value => exact tileValue_of_parts fun k hk hk' => by rw [htile hk hk']
  case results => rw [hends.results, hre]; exact hresults

end Sys2Proof.Machine
end

section
/-!
PROOF. LEASE_GRANT (R182 to R187): a reserved set that has become free is granted, and a lone request while all is free.
-/

namespace Sys2Proof.Machine

/-! ## A grant (R183) -/

/-- Every lease is as before, and no command has come, started or ended. -/
def KeepsLeases (s t : State) : Prop := t.arr.leases = s.arr.leases ∧ SameCommands s t

theorem KeepsLeases.refl (s : State) : KeepsLeases s s := ⟨rfl, SameCommands.refl s⟩

theorem KeepsLeases.trans {s t u : State} (h : KeepsLeases s t) (g : KeepsLeases t u) : KeepsLeases s u := by
  obtain ⟨hleases, hsame⟩ := h
  obtain ⟨gleases, gsame⟩ := g
  exact ⟨gleases.trans hleases, hsame.trans gsame⟩

theorem KeepsArray.keepsLeases {s t : State} (h : KeepsArray s t) : KeepsLeases s t := ⟨by rw [h.1], h.sameCommands⟩

theorem keepsLeases_post (ev : Instr) (s : State) : KeepsLeases s (post ev s) := ⟨rfl, rfl, rfl, rfl, rfl⟩

/-- The lease of a core whose run starts on a set of lane groups. -/
def grantedLease (m : Nat) (g : BitVec 4) (s : State) : Lease :=
  { leaseOf s m with
    st := .held, mask := g, first := if (leaseOf s m).st = .requested then g else (leaseOf s m).first, started := 0
    expired := false, grantedAt := s.sched.clock }

/-- The run starts, and no set is reserved for the core any more. -/
def startRun (m : Nat) (g : BitVec 4) (s : State) : State :=
  post (.leaseRunTimeout (BitVec.ofNat 4 m)) (setLease m (grantedLease m g s)
    { s with arr := { s.arr with reserve := s.arr.reserve.filter fun r => r.1 != m } })

/-- A pending `lease` of this core gets its token. -/
def answerLease (token : Word) (s : State) : State :=
  match s.arr.job with
  | some id => completePart id 0 (.value token) { s with arr := { s.arr with job := none } }
  | none => s

theorem grant_eq (m : Nat) (g : BitVec 4) (s : State) : grant m g s =
    if m = ownMember s then
      let t := answerLease (place (leaseOf s m).count 4 ||| place g.toNat 0) (startRun m g s)
      if t.arr.queue.isEmpty then t else post .arrayCommandStart t
    else startRun m g s := rfl

theorem keepsLeases_answerLease (token : Word) (s : State) : KeepsLeases s (answerLease token s) := by
  have htaken : KeepsLeases s { s with arr := { s.arr with job := none } } := ⟨rfl, rfl, rfl, rfl, rfl⟩
  unfold answerLease
  split
  · exact htaken.trans (keepsArray_completePart _ _ _ _).keepsLeases
  · exact KeepsLeases.refl s

/-- A grant changes one lease, and no command comes, starts or ends in it. -/
theorem keepsLeases_grant (m : Nat) (g : BitVec 4) (s : State) :
    KeepsLeases (setLease m (grantedLease m g s) s) (grant m g s) := by
  have hrun : KeepsLeases (setLease m (grantedLease m g s) s) (startRun m g s) := ⟨rfl, rfl, rfl, rfl, rfl⟩
  have hanswered := hrun.trans (keepsLeases_answerLease (place (leaseOf s m).count 4 ||| place g.toNat 0) _)
  rw [grant_eq]
  split
  · dsimp only
    split
    · exact hanswered
    · exact hanswered.trans (keepsLeases_post _ _)
  · exact hrun

section
variable {m : Nat} (hm : m < 16) (g : BitVec 4) (s : State)
include hm

theorem leaseOf_grant_same : leaseOf (grant m g s) m = grantedLease m g s := by
  rw [leaseOf_congr (keepsLeases_grant m g s).1, leaseOf_setLease_same hm]

omit hm in
theorem leaseOf_grant_ne {k : Nat} (h : k ≠ m) : leaseOf (grant m g s) k = leaseOf s k := by
  rw [leaseOf_congr (keepsLeases_grant m g s).1, leaseOf_setLease_ne h]

omit hm in
theorem sameCommands_grant : SameCommands s (grant m g s) :=
  (endsRuns_setLease m (grantedLease m g s) s).sameCommands.trans (keepsLeases_grant m g s).2

/-- A run that has just started goes on, where its core has commands. -/
theorem runGoesOn_grant (hc : hasCommands s m = true) : RunGoesOn (grant m g s) m := by
  have hsame := sameCommands_grant (m := m) g s
  have hlease := leaseOf_grant_same hm g s
  intro _
  rw [hsame.hasCommands_eq (by rw [hlease]; rfl), hsame.clock, hlease]
  exact ⟨Nat.succ_pos 15, Nat.lt_add_of_pos_right (by decide), rfl, hc⟩

end

/-! ## Reserved sets (R185) -/

/-- A reserved set that has become free is granted, where no run is over. -/
theorem exec_leaseGrant_reserved {m : Nat} {g : BitVec 4} {s : State}
    (hfree : s.arr.reserve.find? (fun r => (weighted s).contains r.1 && setFree s r.1 r.2) = some (m, g))
    (hruns : ∀ k, k < 16 → atBoundary s k = true → runOver s k = false) :
    exec .leaseGrant s = .next (post .leaseGrant (endIdleRuns (grant m g s))) := by
  have e : exec .leaseGrant s = execLeaseGrant s := rfl
  rw [e, execLeaseGrant, endIdleRuns_eq_self hruns]
  simp only [hfree]

/-! ## An arbitration with one contender (R185) -/

/-- No core holds lane groups, none are out of service, and no set is reserved. -/
structure AllFree (s : State) : Prop where
  held : ∀ k, k < 16 → (leaseOf s k).st ≠ .held
  service : s.arr.outOfService = 0
  reserve : s.arr.reserve = []

/-- The lowest set of a count. -/
def lowestSet (count : Nat) : BitVec 4 := if count = 1 then 1 else if count = 2 then 3 else 15

theorem alignedSets_eq {count : Nat} (h : count ∈ [1, 2, 4]) :
    ∃ rest, alignedSets count = lowestSet count :: rest := by
  simp only [List.mem_cons, List.not_mem_nil, or_false] at h
  rcases h with rfl | rfl | rfl <;> exact ⟨_, rfl⟩

section
variable {s : State} (h : AllFree s)
include h

theorem AllFree.not_held : ∀ l ∈ s.arr.leases.toList, l.st ≠ .held := by
  intro l hl
  obtain ⟨k, hk, rfl⟩ := List.mem_iff_getElem.1 hl
  have hk16 : k < 16 := by simpa using hk
  simpa [leaseOf, Vector.getD, hk16] using h.held k hk16

theorem AllFree.heldGroups_eq : heldGroups s = 0 :=
  foldl_eq_self fun l hl => if_neg (h.not_held l hl)

theorem AllFree.setBound_eq (g : BitVec 4) : setBound s g = s.sched.clock :=
  foldl_eq_self fun l hl => if_neg fun hl' => h.not_held l hl hl'.1

theorem AllFree.reservedGroups_eq (m : Nat) : reservedGroups s m = 0 := by
  simp [reservedGroups, h.reserve]

theorem AllFree.usableSets_eq (count : Nat) : usableSets s count = alignedSets count := by
  simp [usableSets, h.service]

theorem AllFree.setFree_eq (m : Nat) (g : BitVec 4) : setFree s m g = true := by
  simp [setFree, h.heldGroups_eq, h.reservedGroups_eq, h.service]

/-- Where all is free, every bound is now, and the lowest set is best. -/
theorem AllFree.bestSet_eq {m : Nat} (hcount : (leaseOf s m).count ∈ [1, 2, 4]) :
    bestSet s m = some (lowestSet (leaseOf s m).count) := by
  obtain ⟨rest, hsets⟩ := alignedSets_eq hcount
  simp only [bestSet, h.usableSets_eq, hsets, h.reservedGroups_eq, h.setBound_eq]
  simp

theorem AllFree.endIdleRuns_eq : endIdleRuns s = s :=
  endIdleRuns_eq_self fun k hk _ => by simp [runOver, h.held k hk]

/-- One contender is the only one of the arbitration. -/
theorem AllFree.weighted_eq {m : Nat} (hone : contenders s = [m]) (hcount : (leaseOf s m).count ∈ [1, 2, 4]) :
    weighted s = [m] := by
  obtain ⟨rest, hsets⟩ := alignedSets_eq hcount
  have hcandidates : candidates s = [m] := by simp [candidates, hone, h.usableSets_eq, hsets]
  by_cases hw : weightOf s m = 0
  · simp [weighted, hcandidates, hw, bestBy]
  · simp [weighted, hcandidates, hw]

end

/-- Only credits differ. -/
def OnlyCredits (s t : State) : Prop :=
  t = { s with arr := { s.arr with leases := t.arr.leases } } ∧
    ∀ k, ∃ credit, leaseOf t k = { leaseOf s k with credit := credit }

theorem OnlyCredits.trans {s t u : State} (h : OnlyCredits s t) (g : OnlyCredits t u) : OnlyCredits s u := by
  obtain ⟨h, hk⟩ := h
  obtain ⟨g, gk⟩ := g
  refine ⟨?_, fun k => ?_⟩
  · rw [h] at g
    exact g
  · obtain ⟨c, hc⟩ := hk k
    obtain ⟨d, hd⟩ := gk k
    exact ⟨d, by rw [hd, hc]⟩

theorem onlyCredits_setLease {m : Nat} (hm : m < 16) (credit : Int) (s : State) :
    OnlyCredits s (setLease m { leaseOf s m with credit := credit } s) := by
  refine ⟨rfl, fun k => ?_⟩
  by_cases hk : k = m
  · subst hk; exact ⟨credit, leaseOf_setLease_same hm _ s⟩
  · exact ⟨(leaseOf s k).credit, leaseOf_setLease_ne hk _ s⟩

section
variable {s t : State} (h : OnlyCredits s t)
include h

theorem OnlyCredits.sameCommands : SameCommands s t := by
  obtain ⟨h, -⟩ := h
  constructor <;> rw [h]

theorem OnlyCredits.st_eq (k : Nat) : (leaseOf t k).st = (leaseOf s k).st := by
  obtain ⟨_, hc⟩ := h.2 k
  rw [hc]

theorem OnlyCredits.count_eq (k : Nat) : (leaseOf t k).count = (leaseOf s k).count := by
  obtain ⟨_, hc⟩ := h.2 k
  rw [hc]

theorem OnlyCredits.contends_eq (k : Nat) : contends t k = contends s k := by
  obtain ⟨_, hc⟩ := h.2 k
  rw [contends, contends, h.sameCommands.hasCommands_eq (by rw [hc]), hc]

theorem OnlyCredits.allFree (hs : AllFree s) : AllFree t := by
  refine ⟨fun k hk => ?_, ?_, ?_⟩
  · rw [h.st_eq]; exact hs.held k hk
  · rw [h.1]; exact hs.service
  · rw [h.1]; exact hs.reserve

end

/-- The core has its weight added to its credit. -/
def creditWeight (m : Nat) (s : State) : State :=
  setLease m { leaseOf s m with credit := (leaseOf s m).credit + weightOf s m } s

/-- The only core of an arbitration wins it. -/
theorem arbitration_of_weighted {m : Nat} (hm : m < 16) {s : State} (h : weighted s = [m]) :
    ∃ t, arbitration s = some (m, t) ∧ OnlyCredits s t := by
  have hwin : arbitration s = some (m, setLease m
      { leaseOf (creditWeight m s) m with
        credit := (leaseOf (creditWeight m s) m).credit - (0 + weightOf s m : Nat) } (creditWeight m s)) := by
    rw [arbitration, h]
    rfl
  exact ⟨_, hwin, (onlyCredits_setLease hm _ s).trans (onlyCredits_setLease hm _ _)⟩

/-- The arbiter's next turn, if there is one, changes no lease. -/
theorem keepsLeases_arbitrateMore (s : State) : KeepsLeases s (arbitrateMore s) := by
  unfold arbitrateMore
  split
  · exact KeepsLeases.refl s
  · split
    · exact ⟨rfl, rfl, rfl, rfl, rfl⟩
    · exact KeepsLeases.refl s

/-- The winner of an arbitration is granted the lowest set of its count where all is free. -/
theorem AllFree.arbitrate_eq {m : Nat} {s : State} (h : AllFree s) (hone : contenders s = [m])
    (hcount : (leaseOf s m).count ∈ [1, 2, 4]) :
    ∃ t, OnlyCredits { s with arr := { s.arr with due := false } } t ∧
      arbitrate s = arbitrateMore (grant m (lowestSet (leaseOf s m).count) t) := by
  have hm : m < 16 := (mem_contenders.1 (hone ▸ List.mem_singleton_self m)).1
  have hfree : AllFree { s with arr := { s.arr with due := false } } := ⟨h.held, h.service, h.reserve⟩
  obtain ⟨t, hwin, hcredits⟩ := arbitration_of_weighted hm (hfree.weighted_eq hone hcount)
  have hbest := (hcredits.allFree hfree).bestSet_eq (m := m) (by rw [hcredits.count_eq]; exact hcount)
  rw [hcredits.count_eq] at hbest
  refine ⟨t, hcredits, ?_⟩
  simp only [arbitrate, hwin, hbest, (hcredits.allFree hfree).setFree_eq, if_true]
  rfl

/-- Once the only contender holds its lane groups, none contends and no run is over. -/
theorem granted_alone {m : Nat} {g : BitVec 4} {s t : State} (hm : m < 16)
    (hheld : ∀ k, k < 16 → (leaseOf s k).st ≠ .held) (hone : ∀ k, k < 16 → k ≠ m → contends s k = false)
    (h : KeepsLeases (grant m g s) t) :
    leaseOf t m = grantedLease m g s ∧ ∀ k, k < 16 → runOver t k = false := by
  have hsame := (sameCommands_grant (m := m) g s).trans h.2
  have hlease : leaseOf t m = grantedLease m g s := (leaseOf_congr h.1 m).trans (leaseOf_grant_same hm g s)
  have hothers (k : Nat) (hk : k ≠ m) : leaseOf t k = leaseOf s k := (leaseOf_congr h.1 k).trans (leaseOf_grant_ne g s hk)
  have hnone : contenders t = [] := List.filter_eq_nil_iff.2 fun k hk => by
    by_cases hkm : k = m
    · rw [hkm, contends_of_held (by rw [hlease]; rfl)]; exact Bool.false_ne_true
    · rw [hsame.contends_eq (hothers k hkm), hone k (List.mem_range.1 hk) hkm]; exact Bool.false_ne_true
  refine ⟨hlease, fun k hk => ?_⟩
  by_cases hkm : k = m
  · simp [hkm, runOver, hlease, hnone, hsame.clock, grantedLease]
  · simp [runOver, hothers k hkm, hheld k hk]

/-- Where all is free, the lowest set of its count is granted to the only contender, and no run ends. -/
theorem leaseGrant_alone {m : Nat} {s : State} (h : AllFree s) (hone : contenders s = [m]) (hdue : s.arr.due = true)
    (hcount : (leaseOf s m).count ∈ [1, 2, 4]) :
    ∃ t, exec .leaseGrant s = .next t ∧ (leaseOf t m).st = .held ∧ (leaseOf t m).mask = lowestSet (leaseOf s m).count := by
  obtain ⟨u, hcredits, harb⟩ := h.arbitrate_eq hone hcount
  have hm : m < 16 := (mem_contenders.1 (hone ▸ List.mem_singleton_self m)).1
  have hheld (k : Nat) (hk : k < 16) : (leaseOf u k).st ≠ .held := by rw [hcredits.st_eq]; exact h.held k hk
  have hothers (k : Nat) (hk : k < 16) (hkm : k ≠ m) : contends u k = false := by
    rw [hcredits.contends_eq, Bool.eq_false_iff]
    exact fun hc => hkm (List.mem_singleton.1 (hone ▸ mem_contenders.2 ⟨hk, hc⟩))
  obtain ⟨hlease, hruns⟩ := granted_alone hm hheld hothers
    (keepsLeases_arbitrateMore (grant m (lowestSet (leaseOf s m).count) u))
  have e : exec .leaseGrant s = execLeaseGrant s := rfl
  refine ⟨arbitrate s, ?_, ?_⟩
  · rw [e, execLeaseGrant, h.endIdleRuns_eq]
    simp only [h.reserve, List.find?_nil, hdue, if_true]
    rw [endIdleRuns_eq_self fun k hk _ => by rw [harb]; exact hruns k hk]
  · rw [harb, hlease]
    exact ⟨rfl, rfl⟩

end Sys2Proof.Machine
end

section
/-!
PROOF. The instructions on leases and the steps of the Array, together (R182 to R192, R200 to R202).
-/

namespace Sys2Proof.Machine

/-- Settles O29: the instructions by their checks and the lease that they leave, the Array's steps by the leases that the end
of other runs does not concern. -/
theorem leasesAndArray : Obligations.LeasesAndArray := by
  refine ⟨fun a s hp => ⟨fun hr hq hnone hcount => ?lease, fun w hw h => exec_lease_traps hp hw h,
    fun w hw h => exec_unlease_traps hp hw h, fun hidle => ?tsync, fun hbusy => exec_tsync_busy hp hbusy,
    fun hr hidle hlease hjob hbits hcount => ?unlease⟩,
    fun s => ⟨fun c rest hrun hqueue hheld hstop => ?start, fun c hrun herr hhit hdoom hsrc hd hqueue => ?complete,
      fun m hheld hclock hb hothers => ?timeout, fun m g hfree hm hruns hc => ?reserved,
      fun m hone hheld hreserve hservice hdue hcount => ?alone⟩⟩
  case lease => exact ⟨_, exec_lease hr hq hnone hcount, lease_requests a s⟩
  case tsync => exact ⟨_, exec_tsync_idle hp hidle, fun k => by rw [retire_mem], retire_eq s⟩
  case unlease =>
    have hlease' : ownLease (retire (releaseLease s)) = { Lease.zero with weight := (ownLease s).weight } := by
      rw [ownLease_retire, ownLease_releaseLease]
    refine ⟨_, exec_unlease hr hidle hlease hjob hbits hcount, by rw [hlease']; rfl, by rw [hlease']; rfl,
      fun k => ?_, ?_, ?_⟩
    · rw [retire_mem, releaseLease_eq]
    · rw [retire_eq]; exact retiredHart_congr (by rw [releaseLease_eq])
    · rw [retire_eq, releaseLease_eq]; rfl
  case start =>
    exact ⟨_, exec_arrayCommandStart hrun hqueue hheld hstop, rfl, rfl, rfl, fun _ => rfl,
      congrArg Lease.started (ownLease_startCommand c rest s), pending_post _ _⟩
  case complete =>
    exact ⟨_, exec_arrayCommandComplete hrun,
      arrayCommandComplete_ok herr hhit (faultedSource_none hdoom hsrc) hd hqueue⟩
  case timeout =>
    obtain ⟨hst, hmask⟩ := leaseOf_yieldLease m.isLt (setLease m.toNat { leaseOf s m.toNat with expired := true } s)
    exact ⟨_, leaseRunTimeout_yields hheld hclock hb hothers, hst, hmask, rfl, fun _ => rfl⟩
  case reserved =>
    have hlease : leaseOf (post .leaseGrant (endIdleRuns (grant m g s))) m = grantedLease m g s := by
      rw [leaseOf_congr (keepsLeases_post _ _).1, leaseOf_endIdleRuns (runGoesOn_grant hm g s hc), leaseOf_grant_same hm]
    exact ⟨_, exec_leaseGrant_reserved hfree hruns, by rw [hlease]; rfl, by rw [hlease]; rfl⟩
  case alone => exact leaseGrant_alone ⟨hheld, hservice, hreserve⟩ hone hdue hcount

end Sys2Proof.Machine
end
